-- ==== Sys2Proof/Word.lean ====
section
/-! DEFINITION. The word types of the NKU-OM1 and their plainest arithmetic.
Sizes follow the conventions of 00_scope (R4 to R9): bytes, 64-bit status words, little-endian values. -/

namespace Sys2Proof

/-- One byte. -/
abbrev Byte := BitVec 8
/-- A 32-bit lane or address register. -/
abbrev W32 := BitVec 32
/-- A 48-bit counter. -/
abbrev W48 := BitVec 48
/-- A status word (16 R439). -/
abbrev W64 := BitVec 64
/-- An instruction word (03 R92). -/
abbrev W128 := BitVec 128
/-- A byte memory: address and byte pairs in canonical form (see `Sparse`). -/
abbrev Mem := List Host.Cell
/-- A finite map from numbers, kept sorted, with no entry equal to the value an unlisted key reads as. -/
abbrev Sparse (α : Type) := List (Nat × α)

end Sys2Proof
end

