-- ==== Sys2Proof/Machine/Bits.lean ====
section
/-! DEFINITION. Bit fields, sign extension, byte order (00 R8: little-endian), sparse maps in canonical form,
saturating counts (09 Table 9.10), list helpers. -/

namespace Sys2Proof.Machine

/-- The value an unlisted key reads as is `d`. -/
def Sparse.get {α : Type} (d : α) : Sparse α → Nat → α
  | [], _ => d
  | (k, v) :: m, i => if i = k then v else Sparse.get d m i

/-- Drop every entry whose key fails `p` (the dropped keys read as the default again). -/
def Sparse.keep {α : Type} (p : Nat → Bool) (m : Sparse α) : Sparse α := m.filter fun e => p e.1

/-- Put an entry before the first larger key, in place of one with its own key. -/
def Sparse.insert {α : Type} : Sparse α → Nat → α → Sparse α
  | [], i, v => [(i, v)]
  | (k, w) :: m, i, v =>
    if i < k then (i, v) :: (k, w) :: m else if i = k then (i, v) :: m else (k, w) :: Sparse.insert m i v

/-- Write `v` at `i`, keeping the canonical form: writing `d` removes the entry. -/
def Sparse.set {α : Type} [DecidableEq α] (d : α) (m : Sparse α) (i : Nat) (v : α) : Sparse α :=
  if v = d then Sparse.keep (fun k => k != i) m else Sparse.insert m i v

/-- Keys from `lo` on rise strictly and no entry equals `d`. -/
def Sparse.wfFrom {α : Type} [DecidableEq α] (d : α) : Nat → Sparse α → Bool
  | _, [] => true
  | lo, (k, v) :: m => decide (lo ≤ k) && decide (v ≠ d) && Sparse.wfFrom d (k + 1) m

/-- The canonical form: keys strictly rising, no entry equal to what an unlisted key reads as. -/
def Sparse.wf {α : Type} [DecidableEq α] (d : α) (m : Sparse α) : Bool := Sparse.wfFrom d 0 m

/-- Read `n` bytes from address `a` upwards. -/
def Mem.bytes (m : Mem) (a n : Nat) : List Byte :=
  (List.range n).map fun i => Sparse.get 0#8 m (a + i)

/-- Write bytes from address `a` upwards. -/
def Mem.put : Mem → Nat → List Byte → Mem
  | m, _, [] => m
  | m, a, b :: bs => Mem.put (Sparse.set 0#8 m a b) (a + 1) bs

/-- Canonical form of a byte memory whose unlisted bytes read 0. -/
abbrev Mem.wf (m : Mem) : Bool := Sparse.wf 0#8 m

/-- Bits `[lo + len - 1 : lo]` of a number. -/
def fld (w lo len : Nat) : Nat := (w >>> lo) % 2 ^ len

/-- Bits of a vector, as a number. -/
def bfld {n : Nat} (w : BitVec n) (lo len : Nat) : Nat := fld w.toNat lo len

/-- A `len`-bit two's complement number. -/
def sext (x len : Nat) : Int := if x < 2 ^ (len - 1) then (x : Int) else (x : Int) - 2 ^ len

/-- The least significant `len` bits of an integer. -/
def wrapInt (x : Int) (len : Nat) : Nat := (x % (2 ^ len : Int)).toNat

/-- Little-endian number of a list of bytes (00 R8). -/
def leNat : List Byte → Nat
  | [] => 0
  | b :: bs => b.toNat + 256 * leNat bs

/-- The `n` little-endian bytes of a number. -/
def leBytes : Nat → Nat → List Byte
  | 0, _ => []
  | n + 1, x => BitVec.ofNat 8 x :: leBytes n (x / 256)

/-- Big-endian number, for the fields that 00 R8 excepts. -/
def beNat (bs : List Byte) : Nat := bs.foldl (fun a b => a * 256 + b.toNat) 0

/-- A 48-bit count that stops at `2^48 - 1` (09 Table 9.10, 16 R439). -/
def satAdd (c : W48) (n : Nat) : W48 :=
  BitVec.ofNat 48 (if c.toNat + n < 2 ^ 48 then c.toNat + n else 2 ^ 48 - 1)

/-- One more event. -/
def satInc (c : W48) : W48 := satAdd c 1

/-- Rounding up division. -/
def ceilDiv (a b : Nat) : Nat := (a + b - 1) / b

/-- Apply `f` to the elements that satisfy `p`. -/
def mapIf {α : Type} (p : α → Bool) (f : α → α) (l : List α) : List α := l.map fun x => if p x then f x else x

/-- Apply `f` to element `i`; no effect outside the list. -/
def modAt {α : Type} (i : Nat) (f : α → α) (l : List α) : List α := l.modify i f

/-- Insert by a numeric key, after every entry with a key not above it. -/
def insertBy {α : Type} (key : α → Nat) (x : α) : List α → List α
  | [] => [x]
  | y :: ys => if key x < key y then x :: y :: ys else y :: insertBy key x ys

/-- The entries ordered by a numeric key; entries of one key keep their order. -/
def sortBy {α : Type} (key : α → Nat) (l : List α) : List α := l.foldl (fun acc x => insertBy key x acc) []

/-- Largest of a list of numbers, 0 for none. -/
def maxOf (l : List Nat) : Nat := l.foldl max 0

/-- Cut a list into pieces of `n`, at most `fuel` of them. -/
def chunks {α : Type} (n : Nat) : Nat → List α → List (List α)
  | 0, _ => []
  | _, [] => []
  | f + 1, l => l.take n :: chunks n f (l.drop n)

/-- Integer square root, one bit at a time from bit `b - 1` down. -/
def isqrtFrom (n : Nat) : Nat → Nat → Nat
  | 0, acc => acc
  | b + 1, acc =>
    let t := acc + 2 ^ b
    isqrtFrom n b (if t * t ≤ n then t else acc)

/-- The largest `r` with `r * r ≤ n`, for `n < 2^(2 b)`. -/
def isqrt (b n : Nat) : Nat := isqrtFrom n b 0

end Sys2Proof.Machine
end

