-- ==== Sys2Proof/Machine/Image.lean ====
section
/-! DEFINITION. The Evoux image and its plans as the device holds them once read (15 R415 to R421). Records whose binary
layout the spec gives are kept as their little-endian 64-bit words (`Rec`); the layouts the spec does not give (slot
entries, program lists, twin maps) are kept in field form (log 4). -/

namespace Sys2Proof.Machine

/-- A record of 64-bit words, word `k` at offset `8 k`. -/
abbrev Rec := List W64

/-- Bits `[lo + len - 1 : lo]` of word `w` of a record; a word beyond the record reads 0. -/
def rf (r : Rec) (w lo len : Nat) : Nat := bfld (r.getD w 0#64) lo len

/-- What a slot runs (01 R19). -/
inductive SlotKind where
  | cores      -- a slot program on a rectangle of cores
  | mover      -- a mover command list on one mover of the tile
  | port       -- ports of an edge die
  | engine     -- hub engines
deriving DecidableEq, Repr

/-- A slot entry of a frame table (01 R19). The rectangle is in global logical rows and columns of the 288 × 288 grid
(row `72 · ⌊t / 4⌋ + lr`); `addr` is a slot-program address in instructions, a mover-list number or an engine-program
address. -/
structure SlotEntry where
  plan : Nat
  kind : SlotKind
  addr : Nat
  top : Nat
  left : Nat
  height : Nat
  width : Nat
  units : List Nat
  start : Nat
  deadline : Nat
deriving DecidableEq, Repr

abbrev FrameTable := List SlotEntry

/-- A step table (01 R25): frame-table numbers per frame, one for each of the 18 sequencers (tiles 0 to 15, conductors 0
and 1). -/
structure StepTable where
  stepLen : Nat
  uframes : List Nat
  frames : List (List Nat)
deriving DecidableEq, Repr

/-- A primary core and its twin (14 R393), as global core numbers `5184 t + 72 r + c`. -/
structure TwinPair where
  primary : Nat
  twin : Nat
deriving DecidableEq, Repr

/-- A topology variant with its tree table and twin map (10 R276, 11 R296). `routes` gives per rank 64 port numbers, `trees`
per owner 64 parent bytes or none. -/
structure Variant where
  head : W64
  ranks : W64
  links : List Nat
  routes : List (List Nat)
  trees : List (List Nat)
  twins : List TwinPair
deriving DecidableEq, Repr

def Variant.leader (v : Variant) : Nat := bfld v.head 56 6
def Variant.nranks (v : Variant) : Nat := bfld v.head 49 7
def Variant.mbsv (v : Variant) : Nat := bfld v.head 41 8
def Variant.stab (v : Variant) : Nat := bfld v.head 39 2
def Variant.has (v : Variant) (r : Nat) : Bool := v.ranks.getLsbD r

/-- The tables a lane record points to in its plan (12 R326, R337 to R343, R349), in field form (log 4). -/
structure LaneTab where
  lane : Nat
  /-- NORM: scale and offset per channel. -/
  norm : List (W32 × W32)
  /-- RSTAB: 64 phases of 32 taps. -/
  filter : List (List W32)
  window : List W32
  /-- TOKTAB: merge `i` makes token `256 + i`. -/
  merges : List (Nat × Nat)
  /-- SLIST: sensor of each position. -/
  slist : List Nat
  /-- DTAB: per step table, its entries. -/
  dtab : List (List W32)
  /-- bucket of each position. -/
  pattern : List Nat
deriving DecidableEq, Repr

/-- A token signal or wait: tile, counter, count. -/
abbrev Token := Nat × Nat × Nat

/-- What a port or hub-engine program does for one reduction record `red` and one owner's shard (08 R209 to R213; 11 R304 to R313,
R318). The spec gives these acts and no form of the programs that order them (log 38). `sig` is the TSIG that follows to each rank
written to. Addresses are device addresses. -/
inductive EngineJob where
  /-- quantise the shard from the FP32 set gradients, one address a set, and contribute it, with its count lines and own digest. -/
  | contribute (red owner round : Nat) (grads : List Nat) (sig : Option Token)
  /-- forward the sums, the count lines and the seal to the parent. -/
  | forward (red owner round : Nat) (sig : Option Token)
  /-- the root raises the exponents of clipped blocks on every rank of the tree. -/
  | raise (red owner round : Nat)
  /-- the root writes its seal. -/
  | commit (red owner round : Nat)
  /-- the owner forms the next step's exponents. -/
  | exponents (red owner : Nat)
  /-- the owner forms its trailer lines at `dst` from the FP16 codes of its shard and the pairs of sums of its units. -/
  | trailer (red owner codes sums dst : Nat)
  /-- lines go down the owner's tree, to the same address of each child. -/
  | spread (red owner base lines : Nat) (sig : Option Token)
  /-- the layer's trailer lines, each address with its units, give the new scale exponent, which copies of FP16 codes follow: address
  and codes of each. -/
  | rescale (red : Nat) (trailers copies : List (Nat × Nat))
  /-- lines are handed to an outflow stream as one record of plan data (13 R366). -/
  | outflow (stream base lines : Nat)
deriving DecidableEq, Repr

/-- Outflow stream that an act names. -/
def EngineJob.stream? : EngineJob → Option Nat
  | .outflow n _ _ => some n
  | _ => none

/-- A port or hub-engine program (log 38): its acts in order, the signals it places when they are done, the waits before them. -/
structure EngineProg where
  addr : Nat
  jobs : List EngineJob
  signals : List Token
  waits : List Token
deriving DecidableEq, Repr

/-- Instructions `lo` to `hi - 1` of the slot program at `addr`: a part of what realises a nest (06 R155, log 4). -/
structure NestPart where
  addr : Nat
  lo : Nat
  hi : Nat
deriving DecidableEq, Repr

/-- What the device reads off parts of a plan whose form the spec does not state (log 38). -/
structure PlanFacts where
  engines : List EngineProg
  /-- bytes that its frame tables take in a tile store (06 R169). -/
  tableBytes : Nat
  /-- an intermediate of a mandatory FP32 operation is declared in a narrower format (04 R121). -/
  narrow : Bool
deriving DecidableEq, Repr, Inhabited

/-- A plan section (15 Table 15.8). -/
structure Plan where
  head0 : W64
  head1 : W64
  steps : List StepTable
  tables : List FrameTable
  programs : List W128
  moverLists : List (List (BitVec 256))
  descs : List (BitVec 1024)
  nests : List Rec
  /-- the parts of slot programs that realise nest `k` (06 R155, log 4). -/
  nestProgs : List (List NestPart)
  /-- the visit-list area (06 R162). -/
  visits : List W32
  windows : List Rec
  stripes : List Rec
  sinks : List Rec
  variants : List Variant
  training : Option Rec
  layers : List Rec
  /-- MBMAP words in order (08 R203). -/
  mbmap : List W32
  /-- LRTAB: breakpoint step and FP32 rate (08 R215). -/
  lrtab : List (W48 × W32)
  grpmul : List W32
  /-- EXPTAB entries (08 R217). -/
  experts : List Rec
  /-- per expert entry, for each variant: the rank that hosts each expert. -/
  hosts : List (List (List Nat))
  reds : List Rec
  integrity : W64
  ckpt : Option Rec
  persist : List W64
  watches : List W64
  portDecl : List (List Nat)
  initTab : List Nat
  restoreTab : List Nat
  carry : List W64
  shares : List Nat
  laneTabs : List LaneTab
  /-- outflow streams the plan's programs and records name (13 R366). -/
  streams : List Nat
  /-- fingerprint PFP (15 R418). -/
  pfp : W128
  /-- a table reaches beyond the section (15 R421). -/
  beyond : Bool
  facts : PlanFacts
deriving DecidableEq, Repr

/-- Program of a port or engine slot. -/
def Plan.engine? (p : Plan) (addr : Nat) : Option EngineProg := p.facts.engines.find? fun e => e.addr == addr


def Plan.period (p : Plan) : Nat := bfld p.head0 48 16
def Plan.lull (p : Plan) : Nat := bfld p.head0 32 16
def Plan.graceLen (p : Plan) : Nat := bfld p.head0 16 16
def Plan.graceCnt (p : Plan) : Nat := bfld p.head0 14 2
def Plan.stepLen (p : Plan) : Nat := bfld p.head1 48 16
def Plan.sites (p : Plan) : Nat := bfld p.head1 24 24
def Plan.tiles (p : Plan) : Nat := bfld p.head1 0 16
def Plan.hasTile (p : Plan) (t : Nat) : Bool := p.tiles.testBit t
def Plan.hasSite (p : Plan) (s : Nat) : Bool := p.sites.testBit s
def Plan.table (p : Plan) (k : Nat) : FrameTable := p.tables.getD k []
/-- Step table of a variant; the length of table 0 is STEPLEN of the header (01 R25). -/
def Plan.stepTable (p : Plan) (v : Nat) : StepTable :=
  let k := ((p.variants[v]?).map Variant.stab).getD 0
  let t := p.steps.getD k { stepLen := 0, uframes := [], frames := [] }
  if k = 0 then { t with stepLen := p.stepLen } else t
/-- Bytes of the step tables: each further one has its header and UFRAME values (01 R25). -/
def Plan.stepBytes (p : Plan) : Nat :=
  (p.steps.zipIdx.map fun e => 36 * e.1.frames.length + (if e.2 = 0 then 0 else 8 + 2 * e.1.uframes.length)).foldl (· + ·) 0
def Plan.resp (p : Plan) : Nat := bfld p.integrity 62 2
def Plan.stateless (p : Plan) : Bool := bfld p.integrity 61 1 == 1
def Plan.start (p : Plan) : Nat := match p.ckpt with
  | some c => rf c 1 14 2
  | none => 0


/-- Parameters of a layer, 0 where it has no entry (08 R201). -/
def Plan.pcount (p : Plan) (layer : Nat) : Nat :=
  ((p.layers.find? fun e => rf e 0 48 16 == layer).map fun e => rf e 1 16 32).getD 0
def Plan.isExp (p : Plan) (layer : Nat) : Bool :=
  ((p.layers.find? fun e => rf e 0 48 16 == layer).map fun e => rf e 0 33 1 == 1).getD false
/-- Reduction blocks of a layer (11 R294). -/
def Plan.blocks (p : Plan) (layer : Nat) : Nat := (p.pcount layer + 127) / 128
def Plan.training? (p : Plan) (w lo len : Nat) : Nat := (p.training.map fun r => rf r w lo len).getD 0

/-- A section-table entry (15 Table 15.5). `digestOk` is the outcome of hashing the section against DIGEST (R418). -/
structure Section where
  type : Nat
  index : Nat
  reserved : Nat
  offset : Nat
  length : Nat
  digestOk : Bool
deriving DecidableEq, Repr

/-- A spare-map delta record (14 Table 14.4). -/
structure Delta where
  kind : Nat
  unit : Nat
  frame : Nat
  spare : Nat
  index : Nat
  cause : Nat
  crcOk : Bool
deriving DecidableEq, Repr

/-- A slice of a pattern pack (14 R395). -/
structure Slice where
  cycles : Nat
  prog : Nat
  input : Nat
  crc : W64
  /-- its program, up to its END, and its inputs. -/
  code : List W128 := []
  data : List Byte := []
deriving DecidableEq, Repr

/-- A pattern pack, held or in an image (14 R395). `length` is its size in bytes. -/
structure Pack where
  packId : Nat
  version : Nat
  length : Nat
  slices : List Slice
  active : Bool
  /-- the pack as received, held in the eMMC pack area and the patrol memories. -/
  bytes : List Byte
deriving DecidableEq, Repr

/-- Intake configuration (15 R420): lane records (12 Table 12.1) and bucket records per plan (12 R326). -/
structure IntakeCfg where
  nlane : Nat
  lanes : List Rec
  buckets : List (List Rec)
deriving DecidableEq, Repr

/-- An Evoux image in field form (15 R415 to R420, log 4). -/
structure Image where
  magicOk : Bool
  format : Nat
  nsect : Nat
  version : Nat
  length : Nat
  stepping : Nat
  keyIdx : Nat
  /-- SHA-384 of PUBKEY, compared with the OTP digest (R416). -/
  keyDigest : BitVec 384
  sigOk : Bool
  /-- SHA-384 of the header, bytes 0x000 to 0xFDF (R412, R434). -/
  hdrDigest : BitVec 384
  sections : List Section
  /-- device configuration words (15 Table 15.7), the host configuration among them. -/
  device : Rec
  intake : Option IntakeCfg
  deltas : List Delta
  /-- the bytes of its pattern packs, verified at start-up (14 R395). -/
  packs : List (List Byte)
  /-- built-in slices of the firmware, pack 0 (14 R395). -/
  builtin : List Slice
  plans : List (Option Plan)
deriving DecidableEq, Repr

end Sys2Proof.Machine
end

