-- ==== Sys2Proof/Machine/Units.lean ====
section
/-! DEFINITION. The units that State is made of: each structure holds the state the spec gives one unit of the module. -/

namespace Sys2Proof.Machine

/-! ### Fault unit (14 R385 to R387, R402; 16 R444) -/

/-- One fault record (14 Table 14.2). -/
structure FaultRec where
  num : Nat
  code : Nat
  frame : W48
  time : W64
  cls : Nat
  rank : Nat
  plan : Option Nat
  sum : Bool
  step : W48
  unitk : Nat
  unit : Nat
  d0 : W64
  d1 : W64
  d2 : W64
  d3 : W64
deriving DecidableEq, Repr

/-- A REPORT sent to a collector (14 R402): each record travels as one REPORT whose SEQ is its record number (log 16). -/
structure ReportMsg where
  collector : Nat
  seq : Nat
  resend : Bool
deriving DecidableEq, Repr

/-- A collector (14 R401, R402). -/
structure Collector where
  addr : W128
  port : Nat
  cum : Nat
  /-- current resend interval, ms (doubles from 10 ms up to 1 s). -/
  interval : Nat
deriving DecidableEq, Repr

structure FaultUnit where
  /-- ITG_FHEAD.NEXT. -/
  next : Nat
  /-- records held, newest first, at most 65,536. -/
  recs : List FaultRec
  /-- occurrences of each code in the current frame. -/
  perFrame : Sparse Nat
  /-- counted occurrences not yet summarised, key `65536 · frame + code`. -/
  unsummed : Sparse Nat
  /-- LAST_FAULT of each block and unit, key `256 · block + unit` (16 Table 16.9). -/
  last : Sparse (BitVec 16)
  lastSevere : BitVec 16
  sevClass : BitVec 2
  fatal : Bool
  corr : W48
  cont : W48
  halt : W48
  rptDrop : W48
  overflowed : Bool
  collectors : List Collector
  mgmtUp : Bool
  reports : List ReportMsg
deriving DecidableEq, Repr

/-! ### Tiles and cores -/

/-- TIL_FAULT (03 Table 3.16). -/
structure TilFault where
  pc : Nat
  lrow : Nat
  lcol : Nat
  plan : Nat
  valid : Bool
  code : Nat
deriving DecidableEq, Repr

/-- The header of a Goush message (14 Table 14.6). -/
structure GoushHdr where
  ver : Nat := 1
  typ : Nat
  rank : Nat := 0
  len : Nat
  seq : W48 := 0
  /-- destination UDP port, and destination address where it is not the rank's own. -/
  dport : Nat := 46890
  dst : Option W128 := none
deriving DecidableEq, Repr

/-- How a datagram comes to a port below its protocol (13 R357 to R360): the VLAN ID of an 802.1Q tag, bytes of its frame, its
destination UDP port, and whether its protocol header is in form: VER, TYPE, a LEN that agrees with the UDP length, the UDP
checksum. -/
structure Eth where
  vlan : Option Nat := none
  bytes : Nat := 64
  dport : Nat
  headOk : Bool := true
  /-- destination address where it is not the rank's own. -/
  dst : Option W128 := none
deriving DecidableEq, Repr

/-- A tile: spare steering (02 R59 to R64), TIL_ words (16 R451), sequencer counters (03 R102, R104). -/
structure Tile where
  rows : List Nat
  cols : List Nat
  /-- retirements that wait for their boundary (02 R63); one whose delta record still waits in `Itg.deltas` waits for it too
  (14 R397). -/
  pendRows : List Nat
  pendCols : List Nat
  retired : Bool
  pllSpare : Bool
  pllFailed : List Nat
  fault : TilFault
  cfault : W48
  late : W48
  tok : Sparse (BitVec 24)
  cw : Sparse W32
  /-- slot programs of each plan, copied to the tile store at a place that the firmware fixes (03 R72, 15 R422; log 45). -/
  progs : List (Nat × List W128)
  /-- step tables and frame tables of each plan, copied likewise. -/
  tabs : List (Nat × List StepTable × List FrameTable)
  /-- the patrol memory: active slices (14 R389, 15 R424). -/
  patrol : List Slice
deriving DecidableEq, Repr

/-- One level of a core's loop stack (03 R104): first and last instruction of the body and the passes left. -/
structure LoopLvl where
  first : Nat
  last : Nat
  left : Nat
deriving DecidableEq, Repr

/-- A bound accumulator tile (03 R83): 32 × 32 entries, key `32 r + c`. -/
structure AccTile where
  int32 : Bool
  data : Sparse W32
  poison : Bool
deriving DecidableEq, Repr

/-- A fenced TSIG that waits for its transfers (03 R102), with its index in the slot program. -/
structure Fence where
  pc : Nat
  tile : Nat
  tok : Nat
  inc : Nat
deriving DecidableEq, Repr

/-- A tile-store word held for the twin's copy (14 R393): byte address in the device, bytes, mark. `line`: its mark covers its whole
line, as that of a poisoned SPILL does (03 R107). -/
structure HeldWord where
  addr : Nat
  data : List Byte
  poison : Bool
  line : Bool := false
deriving DecidableEq, Repr

/-- A core (03 R72, R105). -/
structure Core where
  pocket : Mem
  pocketPoison : Sparse Bool
  acc : Sparse (Option AccTile)
  vr : Sparse W32
  vpoison : Sparse Bool
  kr : Sparse (BitVec 16)
  ar : Sparse W32
  chain : Nat
  active : Bool
  ended : Bool
  slot : Nat
  plan : Nat
  top : Nat
  left : Nat
  height : Nat
  prog : Nat
  pc : Nat
  loops : List LoopLvl
  held : Option (Nat × Nat)
  atStep : Bool
  fenced : List Fence
  twin : List HeldWord
  /-- cycles from issue to retire of the last instruction (03 R80, R88, R90, R91). -/
  lat : Nat
deriving DecidableEq, Repr

/-! ### Memory sites (09) -/

/-- A line with its metadata (09 Table 9.5). -/
structure Line where
  data : BitVec 2048
  chk0 : W48
  chk1 : W48
  tag : W32
deriving DecidableEq, Repr

/-- A write-combining entry (09 R244): line number in the site, bytes, byte-valid mask, word marks. -/
structure WcbEntry where
  line : Nat
  data : BitVec 2048
  valid : BitVec 256
  marks : BitVec 8
deriving DecidableEq, Repr

/-- What a transfer between a controller and its site meets: failed EDC transfers before a good one, and the raw bits that
differ from those stored. -/
structure Xfer where
  edcFails : Nat
  err : BitVec 2048
  cerr0 : W48
  cerr1 : W48
  terr : W32
deriving DecidableEq, Repr

/-- A request to a site (09 R243), kept while the site is held, while the buffer is full, or while an older one to its line waits. -/
inductive SiteReq where
  | read (line : Nat)
  | full (line : Nat) (data : BitVec 2048) (marks : BitVec 8) (plan : Option Nat)
  /-- `unit` is the mover that waits with it (09 R244). -/
  | part (line : Nat) (data : BitVec 2048) (valid : BitVec 256) (marks : BitVec 8) (plan unit : Option Nat)
  | acc16 (line : Nat) (data : BitVec 2048) (poison : Bool) (plan : Nat)
  | acc32 (line : Nat) (data : BitVec 2048) (poison : Bool) (plan : Nat)
  | merge (line : Nat)
  /-- the place of a mover or a core whose transfer waits, and the lines it accesses here: its command is taken again when its turn
  has come (09 R249, log 48). Units are numbered 2 i for the mover slot i of the frame, 2 k + 1 for core k. -/
  | unit (unit plan : Nat) (lines : List Nat)
deriving DecidableEq, Repr

/-- SIT_STATE STATE (09 Table 9.9). -/
inductive SiteState where
  | absent | training | ready | retrainSched | retrainUnsched | failed
deriving DecidableEq, Repr

structure Site where
  state : SiteState
  tier : Nat
  rate : Nat
  retrainIv : Nat
  lines : Sparse Line
  wcb : List WcbEntry
  wcbPeak : Nat
  queue : List SiteReq
  edcTimes : List Nat
  corr : W48
  uncorr : W48
  pread : W48
  edc : W48
  odecc : W48
  retrains : W48
  wstall : W48
  scrubbed : W48
  paddr : W48
  /-- row groups queued for retirement, oldest first. -/
  retq : List Nat
  /-- candidates dropped on a full queue (R252). -/
  retDropped : Nat
  /-- corrections of the last 65,536 frames: line and frame. -/
  corrHist : List (Nat × Nat)
  /-- retired row groups and the spare of each. -/
  retmap : List (Nat × Nat)
  /-- row groups whose delta is queued, and the spare of each: they wait for it (14 R397). -/
  retPend : List (Nat × Nat)
  spareOut : Bool
  cursor : Nat
  refreshes : Nat
  hot : Bool
  /-- time since which a partial write has waited on a full buffer. -/
  waitFrom : Option Nat
  /-- what the devices hold in store for the next transfer of a line: the device side of the site (log 47). -/
  upsets : List (Nat × Xfer)
deriving DecidableEq, Repr

/-! ### Crosswind ports and the domain (10) -/

/-- A data frame (10 Table 10.2, Table 10.3). -/
structure DataFrame where
  cls : Nat
  dest : Nat
  op : Nat
  poison : BitVec 8
  line : BitVec 40
  body : BitVec 2048
deriving DecidableEq, Repr

/-- The counts of one credited class on one port (14 R398). -/
structure Acct where
  isOpen : Bool
  /-- lines of the own gust queue (10 R267). -/
  share : Nat
  /-- lines the far end granted at the opening (10 R268). -/
  grant : Nat
  held : Nat
  sent : Nat
  acked : Nat
  retIn : Nat
  accepted : Nat
  queued : Nat
  freed : Nat
  retOut : Nat
  unret : Nat
deriving DecidableEq, Repr

/-- XWP_STATE STATE (10 Table 10.6). -/
inductive PortState where
  | unused | training | identify | up | degraded | down | excluded
deriving DecidableEq, Repr

/-- Presence of a rank in the roster (10 R275). -/
inductive Presence where
  | absent | present | foreign
deriving DecidableEq, Repr

/-- A link report (10 R275). -/
structure LinkReport where
  rank : Nat
  /-- how many reports its rank has formed, by which an older one is told from a newer one (log 50). -/
  num : Nat := 0
  /-- per port: state and peer rank. -/
  ports : List (PortState × Nat)
  pfp : List W128
deriving DecidableEq, Repr

/-- A closure entry (14 R400) as the vote carries it: port, class, which end, SENT or ACCEPTED of the account. -/
structure Closure where
  port : Nat
  cls : Nat
  sending : Bool
  count : Nat
deriving DecidableEq, Repr

/-- A fault a rank carries into the vote (14 R385, 01 R30). -/
structure VoteFault where
  plan : Nat
  code : Nat
deriving DecidableEq, Repr

/-- A root report (11 Table 11.4). The table has no field for the plan, which the vote must name some way: layer numbers are unique within a
plan only (log 70). -/
structure RootReport where
  plan : Nat
  layer : Nat
  owner : Nat
  round : Nat
  mark : Bool
  clip : Bool
  exh : Bool
  clipped : Nat
  markers : Nat
deriving DecidableEq, Repr

/-- OPC of a directive (13 Table 13.6) as its table row. -/
inductive DirOp where
  | stop | restart | hold | checkpoint | resume | lrEdit | patrol | redundancy | variant | imageWrite
deriving DecidableEq, Repr

/-- A directive as a rank received it: its body and its source (13 R369, R370). -/
structure Directive where
  op : DirOp
  /-- rank that received it. -/
  rank : Nat
  /-- 0 host port, 1 management port. -/
  port : Nat
  src : W128
  udp : BitVec 16
  body : Rec
  arrival : W48
  /-- PTP time of arrival at the receiving rank. -/
  time : W64
deriving DecidableEq, Repr

/-- One rank's vote (10 R278 and the items other chapters add). -/
structure Vote where
  rank : Nat
  frame : W48
  late : Bool
  hold : Bool
  directives : List Directive
  ports : List PortState
  hears : W64
  digest : W64
  reports : List RootReport
  faults : List VoteFault
  /-- doldrums causes of domain-halting faults (01 Table 1.6). -/
  causes : List Nat
  /-- validation code per plan (01 R33), 0 passed. -/
  vcodes : List Nat
  /-- plans whose checkpoint part this rank has sealed (15 R428). -/
  sealed : BitVec 4
  /-- plans that switch variant, so that a rank which joins late knows the checkpoint of its re-admission (10 R284; log 37). -/
  switching : BitVec 4
  period : Nat
  lull : Nat
  /-- PTP time of the next tick, from the leader (13 R381). -/
  tickPtp : Int
  unlocked : Bool
  /-- per port, class: sent, accepted, acked, retIn, retOut (14 R398 equation 4, R400). -/
  credits : List (List (List Nat))
  /-- closure entries booked since the rank's last vote (14 R400). -/
  closes : List Closure := []
  /-- plans that PATROL_FAIL rewinds, and the frame of the last passing patrol (14 R392; log 55). -/
  rewinds : List (Nat × W48) := []
deriving DecidableEq, Repr

/-- What ranks tell one another in control frames besides credits and discovery (01 R38 to R40; 10 R281; 14 R394; 17 R473; log 50). -/
inductive Notice where
  /-- a late report: rank, plan, frame, deadline, grants that its sender has seen. -/
  | late (rank plan : Nat) (frame : W48) (d seen : Nat)
  | grant (plan : Nat) (frame : W48) (d g : Nat)
  | finish (plan : Nat) (frame : W48)
  /-- the leader announces the start of the lull. -/
  | lull (frame : W48)
  | withdraw (plan : Nat)
  | hold
  /-- a rank reports its thermal hold. -/
  | holdReport (rank : Nat)
  /-- a rank reports a twin mismatch. -/
  | twin (rank plan : Nat)
deriving DecidableEq, Repr

/-- A link frame sent or held for replay. -/
inductive LinkFrame where
  | data (f : DataFrame)
  | control (ack : Nat) (returns : List Nat)
  | nack (count : Nat)
  | identity (serial : W64) (rank port step shape : Nat) (pfp : List W128)
  | tick (frame : W48) (leader hops : Nat) (corr : W32)
  | vote (v : Vote)
  | probe
  | report (r : LinkReport)
  | roster (ranks : List Presence) (links variants : List Nat)
  | ready (rank : Nat) (codes : List Nat)
  | notice (m : Notice)
deriving DecidableEq, Repr

structure Port where
  state : PortState
  reason : Nat
  foreign : Bool
  peerRank : Nat
  peerPort : Nat
  peerSerial : W64
  laneFail : BitVec 9
  spareFor : Nat
  hopNs : Nat
  hopSum : Nat
  probes : Nat
  /-- probes of the set in progress: 64, 4, or 0 for none (R286). -/
  setLen : Nat
  /-- a set has been recorded. -/
  measured : Bool
  replayCnt : W48
  fecc : W48
  fecu : W48
  rxDrop : W48
  rDrop : W48
  gqPeak : Nat
  crGrant : W48
  crRet : W48
  rxGood : Nat
  /-- good frames that the last control frame acknowledged (R269). -/
  ackOut : Nat
  /-- frames in flight behind one that failed its CRC, which the resend repeats (R264). -/
  stale : Nat
  txSeq : Nat
  replay : List (Nat × LinkFrame)
  accts : List Acct
  gust : List DataFrame
  /-- control, identity, tick, vote and probe frames in their 64 lines of the gust queue (10 Table 10.4; log 51). -/
  ctl : List LinkFrame := []
  outq : List DataFrame
  /-- link frames sent since the last relay frame (R269). -/
  relayRun : Nat
  /-- next plan in the round-robin of R269. -/
  rrNext : Nat
  idGot : Bool
  idAcked : Bool
  /-- lane judged failing or dead and not yet replaced. -/
  badLane : Option Nat
  /-- bytes of a relayed datagram whose last segment has not arrived (R288); none outside a datagram. -/
  reasm : Option (List Byte)
  idSent : Nat
deriving DecidableEq, Repr

structure Domain where
  rank : Nat
  shape : Nat
  out : Bool
  reports : List LinkReport
  roster : List Presence
  present : W64
  /-- roster and links that the last vote agreed, for the coming tick (10 R278). -/
  nextRoster : Option (List Presence × List Nat)
  splitStop : Bool
  ready : W64
  tick0 : Bool
  /-- domain link state: per rank, ports that are up. -/
  links : List Nat
  /-- link reports that this rank has formed, and the reports seen: rank and number (10 R275). -/
  reportNo : Nat := 0
  seen : List (Nat × Nat) := []
  /-- notices of this frame that have reached the rank, or that it has made. -/
  heard : List Notice := []
  /-- frame of the newest tick passed on (10 R285). -/
  tickFrame : Option W48 := none
deriving DecidableEq, Repr

/-! ### Frame unit and plans (01) -/

/-- Table 1.4. -/
inductive FrmState where
  | start | work | grace | finish | lull | doldrums | stopped
deriving DecidableEq, Repr

/-- Position inside a frame (01 Table 1.1). -/
inductive Phase where
  | work | close | audit | vote | patrol | record | guard
deriving DecidableEq, Repr

/-- A slot of the frame in progress (01 R19 to R21). `seqr` is its sequencer: tile 0 to 15, conductor 16 or 17. -/
structure SlotRun where
  seqr : Nat
  entry : SlotEntry
  deadline : Nat
  started : Bool
  done : Bool
  late : Bool
  /-- commands of a mover slot issued so far. -/
  issued : Nat
  /-- commands completed. -/
  completed : Nat
  /-- acts of a port or engine slot done so far. -/
  jobs : Nat
deriving DecidableEq, Repr

/-- Counts captured at the start of the close phase (14 R398). -/
structure Capture where
  /-- per port: its accounts, and the gust-queue lines of open accounts. -/
  ports : List (List Acct × Nat)
  /-- per mover slot: plan, sequencer, commands issued and completed. -/
  movers : List (Nat × Nat × Nat × Nat)
  /-- per plan: token increments issued and applied. -/
  tokens : List (Nat × Nat)
  /-- per plan: ASSIGNED, DECLINED, DISPATCHED, RETURNED and layer of each receive segment, and whether the frame ends its step. -/
  experts : List (List (List Nat) × Bool)
  /-- per lane: RECV, PLACED, ODD, CORR, DROP, HELD, POSN, ZFILL. -/
  lanes : List (List Nat)
deriving DecidableEq, Repr

structure Frm where
  state : FrmState
  phase : Phase
  frame : W48
  leader : Nat
  period : Nat
  lull : Nat
  cause : Nat
  pend : List Nat
  holdLatch : Bool
  overrunHold : Bool
  idle : W48
  /-- grants of the frame: late deadline and length, newest first (01 R39). -/
  grants : List (Nat × Nat)
  /-- plan of each grant, in the same order (01 R38, 10 R281). -/
  grantPlans : List Nat
  /-- total time the lull start and the next tick have moved, µs. -/
  moved : Nat
  finishPlan : Option Nat
  completed : W64
  lullAnnounced : Bool
  early : Bool
  slots : List SlotRun
  tickOfs : Int
  tickPtp : Int
  /-- faults and causes detected and not yet reported in a vote. -/
  faultsOut : List VoteFault
  causesOut : List Nat
  /-- what the last vote agreed and the next tick applies. -/
  agreedFaults : List VoteFault
  /-- closure entries booked since the last vote (14 R400). -/
  closesOut : List Closure
  agreedCauses : List Nat
  /-- some rank's thermal hold is in force, as the last vote carried it (17 R473, 10 R278). -/
  thermUp : Bool
  agreedDirs : List Directive
  agreedPL : Option (Nat × Nat)
  /-- digest of the result of the last vote; none before the rank's first. -/
  digest : Option W64
  /-- root reports that wait for a vote (11 R315). -/
  reportsOut : List RootReport
  /-- what the last vote agreed of reports, and plans whose COMMIT_LATE was raised for the coming tick. -/
  agreedReports : List RootReport
  commitLate : List Nat
  /-- late reports that the leader handles at the next tick: plan, and whether this rank alone knows of it, as the leader that saw a
  part unsealed (11 R312; 15 R429, R431). -/
  lateNext : List (Nat × Bool)
  /-- counts captured at the close phase (14 R398). -/
  capture : Option Capture
  /-- number of fault records made before the last vote (14 R400). -/
  voteMark : Nat
  /-- the leader of the variant in force has been lost and is replaced (10 R287): the plan and variant, none where no plan ran. -/
  leadLost : Option (Option (Nat × Nat))
deriving DecidableEq, Repr

/-- FRM_PSTATE PSTATE (16 Table 16.7). -/
inductive PState where
  | absent | rejected | running | held | withdrawn | restoring | terminated | stopped
deriving DecidableEq, Repr

/-- A checkpoint generation of this rank (15 R430): the header and the device's own state block. -/
structure Gen where
  complete : Bool
  step : W48
  frame : W48
  variant : Nat
  lambda : Sparse Int
  skiprun : Sparse Nat
  lrtab : List (W48 × W32)
  /-- per lane of the plan: lane, next SEQ, SEQs of reserve records held. -/
  lanes : List (Nat × W48 × List W48)
  /-- digest of each entry of this rank's own part (15 R430). -/
  digests : List Nat
deriving DecidableEq, Repr, Inhabited

/-- The header and the state block of a part (15 R430); the layout of their bytes is not stated (log 35). -/
structure CkptFile where
  plan : Nat
  /-- the generation: the number of its area. -/
  area : Nat
  rank : Nat
  nranks : Nat
  pfp : W128
  gen : Gen
deriving DecidableEq, Repr

/-- Checkpoints and restores of a plan. -/
structure Ckpt where
  /-- a checkpoint is due at the next step boundary. -/
  wanted : Bool
  /-- outflow streams that directives named for it (13 Table 13.6). -/
  streams : List Nat
  /-- area being written and its boundary frame. -/
  run : Option (Nat × W48)
  /-- entering the doldrums with cause PARTNER asks for a further checkpoint once this one is complete (01 R45; log 71). -/
  again : Bool
  /-- this rank's part is sealed. -/
  sealed : Bool
  /-- newest complete generation: 0 none, 1 area 0, 2 area 1 (BOT_CKPT). -/
  newest : Nat
  gens : List Gen
  /-- restore frames run so far. -/
  restore : Option Nat
  /-- a rank that joins late still waits for the state block that its partners send (10 R284). -/
  fetch : Bool
  /-- PATROL_FAIL with RESP rewind: frame of the last passing patrol (14 R392). -/
  rewind : Option W48
  /-- the frame that the votes have agreed for a rewind, which the next step boundary takes. -/
  rewindVoted : Option W48
  /-- CKPT_LATE or RESTORE_LATE has been raised for the copy or restore in progress (15 R429, R431). -/
  late : Bool
  /-- the resume point of the withdrawal in force has been journaled (10 R283). -/
  noted : Bool
deriving DecidableEq, Repr

/-- Reduction state of one layer of a plan (11 R311 to R317). -/
structure RedLayer where
  /-- root reports of the current step. -/
  reports : List RootReport
  round : Nat
  mark : Bool
  clipped : Bool
  committed : Bool
  /-- 0 none, 1 update, 2 skip (CWORD). -/
  commitNext : Nat
  roundNext : Bool
  skiprun : Nat
  lambda : Int
  /-- LINES of the own root's last seal, and whether the ledger has still to check it (14 R398 equation 6). -/
  sealLines : Nat
  auditDue : Bool
  /-- CLIPPED and MARKERS of that seal, 48 bits (11 Table 11.3). -/
  rootClip : Nat
  rootMark : Nat
  /-- the own shard's exponents in each round of the step, and its blocks that clipped in any (11 R318). -/
  exps : List (Nat × List Nat)
  clips : List Nat
  /-- UPD_SQ and WGT_SQ of the layer, from its trailer lines (08 Table 8.7). -/
  upd : W32
  wgt : W32
  /-- the round that committed. -/
  commRound : Nat
  /-- CWORD of a commit that took effect after the step's last frame: the step that opens reads it (11 R323). -/
  carry : Nat
deriving DecidableEq, Repr

/-- RED_ words of a plan (11 R320, R321). -/
structure RedWords where
  lastCommit : Nat
  lastSkip : Bool
  rounds : Nat
  adds : W48
  rretry : W48
  clip : W48
  mark : W48
  skip : W48
  seals : W48
  waive : W48
deriving DecidableEq, Repr

/-- An expert receive segment (08 R219): layer, expert segment number, accepted rows, closed. -/
structure Segment where
  layer : Nat
  seg : Nat
  assigned : Nat
  accepted : Nat
  declined : Nat
  dispatched : Nat
  returned : Nat
  closed : Bool
deriving DecidableEq, Repr

/-- Layer entry of a watch record (08 Table 8.7). -/
structure WatchLayer where
  layer : Nat
  lambda : Int
  skip : Bool
  upd : W32
  wgt : W32
  skiprun : Nat
  clipped : Nat
  nonfin : Nat
  assigned : Nat
  declined : Nat
  dispatched : Nat
  returned : Nat
deriving DecidableEq, Repr

/-- Format entry of a watch record (08 Table 8.8): written, overflowed, vanished, non-finite. -/
structure WatchFmt where
  layer : Nat
  fmt : Nat
  counts : List Nat
deriving DecidableEq, Repr

/-- A rank watch record, or the domain's with the number of ranks summed (08 R223, R224). -/
structure WatchRec where
  plan : Nat
  rank : Nat
  step : W48
  first : W48
  grace : Nat
  part : Bool
  ranks : Nat
  rate0 : W32
  layers : List WatchLayer
  formats : List WatchFmt
deriving DecidableEq, Repr

structure PlanSt where
  pstate : PState
  vcode : Nat
  vrank : Nat
  tcode : Nat
  image : Option Plan
  step : W48
  first : W48
  /-- frame of the step table in progress. -/
  pos : Nat
  atBoundary : Bool
  /-- frames of the init table still to run (15 R426). -/
  initLeft : Nat
  grace : Nat
  graces : W48
  lates : W48
  finishes : W48
  stopped : Bool
  terminating : Option Nat
  variant : Nat
  pin : Option Nat
  redundant : Bool
  redundNext : Option Bool
  switchTo : Option Nat
  holdAtStep : Bool
  skipHold : Bool
  ckpt : Ckpt
  lrtab : List (W48 × W32)
  watch : Sparse W48
  watchSnap : Sparse W48
  snapStep : W48
  layers : Sparse RedLayer
  red : RedWords
  segs : List Segment
  /-- the own watch record of the step ended last, until its domain record is due. -/
  rwatch : Option WatchRec
  /-- step constants in force: rate of group 0 (08 R216, R224). -/
  rate0 : W32
  issued : Nat
  applied : Nat
deriving DecidableEq, Repr

/-! ### Media intake (12) -/

/-- A record that waits for its decision: in its engines until `result` is present (12 R330). -/
structure Pending where
  seq : W48
  hdr : Rec
  /-- reason code of a rejection before any engine ran: 0 none, 1 odd (bucket), 2 odd (profile), 3 corrupt,
  4 implausible (12 Table 12.8). -/
  reason : Nat
  e0 : Nat
  e1 : Nat
  chans : Nat
  rgb : Bool
  bits : Nat
  rate : Nat
  sh : Nat
  sv : Nat
  payload : List Byte
  /-- what the engines made of the payload, in the lane's own order and without padding, once they have finished: element codes
  of an image, FP32 samples of audio, tokens, the bytes of a sensor frame. -/
  result : Option (List Byte)
deriving DecidableEq, Repr

/-- A manifest entry (12 Table 12.8). -/
structure ManEntry where
  src : Nat
  reason : Nat
  seq : W48
  other : W64
deriving DecidableEq, Repr

/-- INK_LANE STATE (12 Table 12.9). -/
inductive LaneState where
  | unused | idle | run | stalled | stopped
deriving DecidableEq, Repr

structure Lane where
  state : LaneState
  plan : Nat
  record : Rec
  next : W48
  recv : W48
  placed : W48
  repl : W48
  odd : W48
  corr : W48
  drop : W48
  zfill : W48
  posn : W48
  /-- records held: in the inbound buffer or in engines, in SEQ order. -/
  queue : List Pending
  /-- reserve records held in decoded form. -/
  resv : List Pending
  /-- the place of each beyond the staging ring, in the same order (12 R347; log 34). -/
  resvAt : List Nat := []
  /-- queued frames per sensor, oldest first (12 R349). -/
  sensors : Sparse (List Pending)
  expectResv : List W48
  /-- mask words of the positions staged of the micro-batch in progress (12 R348). -/
  staging : List W64
  manifest : List ManEntry
  /-- micro-batches completely staged since the step began, delivered ones included (12 R343). -/
  stagedInStep : Nat
  /-- micro-batches staged and not delivered (12 Table 12.9). -/
  stagedNow : Nat
  /-- micro-batches staged in all, which gives the ring slot (12 R342). -/
  stagedAll : Nat
  inBytes : Nat
deriving DecidableEq, Repr

/-! ### Host port, journal, management (13, 14) -/

/-- An intake stream (13 R362 to R365). -/
structure InStream where
  src : W128
  stream : Nat
  epoch : W32
  cum : W48
  held : List (W48 × List Byte)
  passed : List Byte
  unacked : Nat
deriving DecidableEq, Repr

/-- An unacknowledged outflow datagram (13 R364). -/
structure OutDg where
  seq : W48
  data : List Byte
  resends : Nat
  timeoutUs : Nat
deriving DecidableEq, Repr

structure OutStream where
  stream : Nat
  epoch : W32
  next : W48
  flight : List OutDg
  /-- datagrams that wait for the window, oldest first. -/
  queue : List (List Byte)
  /-- WINDOW of the last ACK; none before the first. -/
  window : Option Nat
  stalled : Bool
  /-- destination address and UDP port (13 Table 13.2). -/
  addr : W128 := 0
  port : Nat := 0
deriving DecidableEq, Repr

/-- A journal record (13 Table 13.9) without its CRC, which is a function of the rest. -/
structure JrnRec where
  index : W48
  kind : Nat
  outcome : Nat
  arrivalFrame : W48
  reason : Nat
  port : Nat
  effectFrame : W48
  time : W64
  src : W128
  wseq : Nat
  wrank : Nat
  wport : Nat
  udp : BitVec 16
  body : Rec
  /-- its CRC is good as start-up reads it from the ring (15 R410). -/
  crcOk : Bool := true
deriving DecidableEq, Repr

structure Journal where
  next : W48
  /-- records in the eMMC ring, newest first. -/
  ring : List JrnRec
  /-- records buffered and not written, oldest first. -/
  buf : List JrnRec
  lost : W48
  lostPend : Nat
deriving DecidableEq, Repr

/-- Copies of the per-port status words (16 Table 16.2). -/
structure Window where
  watchSel : BitVec 17
  jrnSel : W48
  jrnData : List W64
  jrnFetch : Bool
  fsel : W48
  frec : List W64
  frecFetch : Bool
  nonce : List W64
  att : List W64
  attFetch : Bool
  certSel : BitVec 11
deriving DecidableEq, Repr

/-- A status request at the one status unit of the hub (16 R441): a read of `count` words or a write. -/
structure StatOp where
  port : Nat
  addr : Nat
  count : Nat
  src : W128
  id : W48
  write : Option W64
  /-- an SRESP answers it. -/
  answers : Bool
deriving DecidableEq, Repr

structure HostPort where
  link : Nat
  rxdg : W48
  txdg : W48
  retx : W48
  discard : W48
  dirBusy : W48
  ins : List InStream
  outs : List OutStream
  srttUs : Nat
  /-- datagrams delivered to this rank by relay. -/
  inbox : List (List Byte)
  /-- status requests of both ports that wait, oldest first: the first one for a fetch (16 R441). -/
  waiting : List StatOp
deriving DecidableEq, Repr

/-- A directive received, with the DIRACK it was answered with (13 R370). -/
structure SeenDir where
  port : Nat
  src : W128
  udp : BitVec 16
  body : Rec
  arrival : W48
  result : Nat
  reason : Nat
deriving DecidableEq, Repr

structure DirUnit where
  /-- directives of the last 256 frames, newest first. -/
  seen : List SeenDir
  /-- ports that have accepted one in this frame. -/
  used : List Nat
  /-- accepted and not yet exchanged. -/
  queue : List Directive
deriving DecidableEq, Repr

/-- An open image write (13 R376). -/
structure ImgWrite where
  slot : Nat
  stream : Nat
  length : Nat
  port : Nat
  /-- bytes received in order. -/
  bytes : List Byte
  /-- SEQ of the last IMG_SEG that it took, which its IMG_ACKs echo (14 Table 14.6). -/
  seq : W48 := 0
deriving DecidableEq, Repr

/-! ### Integrity (14) -/

structure CoreMark where
  core : Nat
  slice : Slice
deriving DecidableEq, Repr

structure Itg where
  rate : Nat
  group : Nat
  retest : List CoreMark
  /-- transients: core and frame. -/
  transients : List (Nat × Nat)
  lastPass : Sparse W48
  twinRetest : List Nat
  slicesRun : W48
  pfail : W48
  ptrans : W48
  twin : W48
  close : W48
  ledEqn : Nat
  ledUnit : Nat
  ledFrame : W48
  /-- places 0 to 15 of the packs held. -/
  packs : List (Option Pack)
  /-- built-in slices, pack 0. -/
  builtin : List Slice
  newPacks : List Pack
  rxPackId : Nat
  rxBytes : List Byte
  /-- device-written deltas that wait for the eMMC. -/
  deltas : List Delta
  /-- packs that wait for the eMMC behind deltas and journal records (15 R411). -/
  packStores : List Pack
  deltaFull : Bool
  /-- patrol scratch of each core (14 R389): inputs of the slice it ran last and the output it gave; none reads zeros (log 15). -/
  scratch : Sparse (List Byte)
deriving DecidableEq, Repr

/-! ### eMMC, OTP, boot (15) -/

/-- One slot entry of the image directory (15 Table 15.3). -/
structure DirSlot where
  state : Nat
  version : Nat
  length : Nat
  hdigest : BitVec 320
deriving DecidableEq, Repr

/-- A directory copy (15 R412). -/
structure DirCopy where
  tag : W32
  crc : W32
  gen : Nat
  select : Nat
  slotA : DirSlot
  slotB : DirSlot
deriving DecidableEq, Repr

structure Emmc where
  dir1 : DirCopy
  dir2 : DirCopy
  slotA : Option Image
  slotB : Option Image
  deltas : List Delta
  deltaCount : Nat
  packs : List Pack
  certs : List (List Byte)
deriving DecidableEq, Repr

structure Otp where
  keys : List (BitVec 384)
  revoked : BitVec 4
  serial : W64
  mac : W48
  mmac : W48
  fuses : List Delta
  /-- the device identity key, a private key of brainpoolP384r1 (15 R433). -/
  idKey : Nat
deriving DecidableEq, Repr

structure Boot where
  stage : Nat
  slot : Nat
  fallback : Bool
  recovery : Bool
  keyIdx : Nat
  boots : Nat
  /-- start-ups so far: the epochs of the streams go on from it (13 R362; log 56). -/
  starts : Nat
  /-- epochs that plan loads, restores and image writes have opened on each intake and outflow stream since (13 R362; log 56). -/
  inOpens : Sparse Nat
  outOpens : Sparse Nat
  /-- key slots revoked before this start-up (15 R416). -/
  revoked : BitVec 4
  /-- image in force. -/
  image : Option Image
  cfg : Rec
  named : Option Nat
  selfDeltas : List Delta
  spHash : BitVec 384
  sitesDone : W32
  selfTestDone : Bool
  mapDone : Bool
  validated : Bool
  /-- RESTART accepted and due at its tick. -/
  restart : Bool
deriving DecidableEq, Repr

/-! ### Clocks, power, device words (16, 17) -/

structure Clk where
  now : Nat
  ptpOfs : Int
  ptp : Nat
  ptpRun : Nat
  ptpLast : W32
  serving : Nat
  standbyOk : Bool
  stopped : Bool
  lost : Bool
  /-- the three 156.25 MHz inputs E, W, H. -/
  ref156 : BitVec 3
deriving DecidableEq, Repr

structure Pwr where
  inReset : Bool
  rankStraps : Nat
  forceRec : Bool
  /-- time until which LOADHINT stays high after the last tick (17 Table 17.4). -/
  hintUntil : Nat
  tickPulses : Nat
  thermTrip : Bool
  refBad : Bool
deriving DecidableEq, Repr

structure Dev where
  serial : W64
  mac : W48
  mmac : W48
  therm : Nat
  holdRaised : Bool
  tj : Sparse (BitVec 16)
  /-- highest temperature of each die since its last read (16 Table 16.5); none reads 0. -/
  peak : Sparse (Option (BitVec 16))
  /-- clock time since which every die has been below its alarm threshold. -/
  coolSince : Option Nat
deriving DecidableEq, Repr

/-! ### Outputs (log 6) -/

/-- What the module sends. -/
inductive Out where
  | link (port : Nat) (f : LinkFrame)
  | sresp (port : Nat) (seq : W48) (status : Nat) (addr : Nat) (words : List W64)
  | dirack (port : Nat) (seq result reason : Nat) (arrival : W48)
  | ack (stream : Nat) (epoch : W32) (cum : W48) (window : Nat) (ranges : List (W48 × Nat))
  | outflow (stream : Nat) (seq : W48) (resend : Bool) (data : List Byte)
  | keepAlive (stream : Nat) (seq : W48)
  | heartbeat (collector : Nat) (words : List W64)
  | watchMsg (collector : Nat) (r : WatchRec)
  | rankWatch (r : WatchRec)
  | packAck (seq : W48) (id held result : Nat)
  | imgAck (seq : W48) (held result : Nat)
  | doneReport (frame : W48)
  | emmc (area index : Nat)
  | lineData (site line : Nat) (data : BitVec 2048) (poison : Bool)
  | reply (proto : Nat) (data : List Byte)
  | manifest (lane mb : Nat) (entries : List ManEntry)
  | forward (data : List Byte)
deriving DecidableEq, Repr

end Sys2Proof.Machine
end

