-- ==== Sys2Proof/Syntax.lean ====
section
/-! DEFINITION. The commands of the module: one constructor of `Instr` for each row of spec/opcode_table.json, with the
operands the row's rule names. A command that stands for an unstated physical fact (a transfer that fails its EDC, the
result of a media standard's entropy decoding, an eMMC completion) carries that fact as an operand (log 3). -/

namespace Sys2Proof

open Machine

/-- A core: tile, logical row, logical column. -/
structure CoreId where
  tile : Fin 16
  row : Fin 72
  col : Fin 72
deriving DecidableEq, Repr

/-- A tick as it reaches the rank (10 R285). `port` is none at the leader, which issues it. Times are in sixteenths of a
nanosecond: `arrival` of the copy, `predicted` by the local frame-time unit, `residence` in this rank, `firstTx` the delay
from the leader's tick to its first transmission. -/
structure TickIn where
  port : Option (Fin 6)
  frame : W48
  leader : Nat
  hops : Nat
  corr : W32
  arrival : Int
  predicted : Int
  firstTx : Int
  residence : Nat
deriving DecidableEq, Repr

/-- Output of one patrolled core for one slice (14 R389, R391; log 15). Cores not listed gave the expected output. -/
structure PatrolOut where
  core : CoreId
  slice : Slice
  output : List Byte
deriving DecidableEq, Repr

/-- A late report (01 R38, R39). -/
structure LateIn where
  port : Fin 6
  rank : Nat
  plan : Fin 4
  frame : W48
  d : Nat
  grantsSeen : Nat
deriving DecidableEq, Repr

/-- Bits by which an adder's first and second result lines differ from the exact ones (11 R303), and the transfer. -/
structure AddIn where
  first : List (BitVec 2048)
  second : List (BitVec 2048)
  xfer : Xfer
deriving DecidableEq, Repr

/-- Identity frame body (10 Table 10.5). -/
structure IdBody where
  serial : W64
  rank : Nat
  port : Nat
  stepping : Nat
  shape : Nat
  pfp : List W128
deriving DecidableEq, Repr

/-- A roster as flooded by the leader (10 R275). -/
structure RosterIn where
  ranks : List Presence
  links : List Nat
  variants : List Nat
deriving DecidableEq, Repr

/-- A closing receive segment (08 R219, R222; log 21): its layer, source micro-batch, receive-buffer descriptor, first row,
count word, the assignment numbers of the accepted rows, and the counts of its source's choices and rows. -/
structure SegIn where
  layer : Nat
  seg : Nat
  desc : Nat
  row0 : Nat
  word : Nat
  rows : List Nat
  assigned : Nat
  declined : Nat
  dispatched : Nat
  returned : Nat
deriving DecidableEq, Repr

/-- Header fields of a sample record (12 Table 12.3) as raw words. -/
abbrev SampleHdr := Rec

/-- The port a frame comes in by, and what it carries. -/
abbrev AtPort (α : Type) := Fin 6 × α

/-- A DATA datagram (13 Table 13.3). -/
structure DataDg where
  src : W128
  rank : Nat
  stream : Nat
  epoch : W32
  seq : W48
  body : List Byte
  /-- version, type, length and UDP checksum are good (R358, R360). -/
  formOk : Bool
  eth : Eth := { dport := 46880 }
deriving DecidableEq, Repr

/-- An ACK datagram (13 R363). -/
structure AckDg where
  rank : Nat
  stream : Nat
  epoch : W32
  cum : W48
  window : Nat
  ranges : List (W48 × Nat)
  rttUs : Nat
  src : W128 := 0
  eth : Eth := { dport := 46880 }
deriving DecidableEq, Repr

/-- A directive as received (13 R369): its port (0 host, 1 management), the RANK of its header (R361), source and four body words. -/
structure DirIn where
  port : Fin 2
  rank : Nat
  src : W128
  udp : BitVec 16
  words : Rec
  eth : Eth := { dport := if port = 0 then 46881 else 46890 }
deriving DecidableEq, Repr

/-- A status request's port, the RANK of its header (R361), source and ID (13 R368). -/
structure StatReq where
  port : Fin 2
  rank : Nat
  src : W128
  id : BitVec 16
  addr : W32
  eth : Eth := { dport := if port = 0 then 46881 else 46890 }
deriving DecidableEq, Repr

/-- Facts of a reset release (17 R464, R465; 15 R409). -/
structure ResetIn where
  straps : Fin 64
  forceRec : Bool
  /-- 100 MHz inputs A and B within specification. -/
  ref100 : BitVec 2
  /-- 156.25 MHz inputs E, W, H. -/
  ref156 : BitVec 3
  powerOn : Bool
  /-- boot ROM self-check passed (15 Table 15.1 step 2). -/
  romOk : Bool
  /-- image header and section verification outcomes are in the images held; bytes read within the bound. -/
  emmcOk : Bool
deriving DecidableEq, Repr

/-- Results of the whole-map self-test (15 R424): failing physical cores as tile, row, column; failing tiles. -/
structure SelfTestIn where
  cores : List (Nat × Nat × Nat)
  tiles : List Nat
deriving DecidableEq, Repr

/-- A host-port frame that is no datagram of the host protocol (13 R357, R358). -/
inductive HostFrame where
  | neighborDiscovery (target : W128)
  | arp (target : W32)
  | echo6 (data : List Byte)
  | echo4 (data : List Byte)
  | pause
  | fragment
  | other
deriving DecidableEq, Repr

/-- A PTP message that gives an offset (13 R380): its domainNumber, and that the offset is calibrated. -/
structure PtpIn where
  domain : Nat := 0
  calibrated : Bool
deriving DecidableEq, Repr

/-- The commands. -/
inductive Instr where
  | tick (o : TickIn)
  | tickLost
  | endOfWorkWindow
  | auditPhase
  | votePhase (votes : List (Fin 6 × Vote))
  | patrolPhase (outs : List PatrolOut)
  | recordPhase
  | guardPhase
  | slotStart (i : Nat)
  | slotComplete (i : Nat)
  | lateSlot (i : Nat)
  | lateReport (o : LateIn)
  | graceGrant (plan : AtPort (Fin 4)) (frame : W48) (d g : Nat)
  | finish (plan : AtPort (Fin 4)) (frame : W48)
  /-- The port that the leader's announcement comes by; at the leader, the ranks whose completion reports have come. -/
  | finishLullAnnounce (done : AtPort W64)
  | hungSlot (i : Nat)
  | mstep (k : CoreId)
  | pld (k : CoreId)
  | pst (k : CoreId)
  | vld (k : CoreId)
  | vst (k : CoreId)
  | vop (k : CoreId)
  | twait (k : CoreId)
  | twaitRelease (k : CoreId)
  | tsig (k : CoreId)
  | fencedTsig (k : CoreId)
  | spill (k : CoreId)
  | accAlloc (k : CoreId)
  | accFree (k : CoreId)
  | accZero (k : CoreId)
  | loop (k : CoreId)
  | addr (k : CoreId)
  | chain (k : CoreId)
  | endProg (k : CoreId)
  | moverCommand (i : Nat)
  | moverCommandComplete (i : Nat)
  | lineRead (s : Fin 24) (line : Nat) (x : Xfer)
  | fullLineWrite (s : Fin 24) (line : Nat) (data : BitVec 2048) (marks : BitVec 8) (plan : Option (Fin 4)) (x : Xfer)
  | partialWrite (s : Fin 24) (line : Nat) (data : BitVec 2048) (valid : BitVec 256) (marks : BitVec 8)
      (plan : Option (Fin 4))
  | wcbMerge (s : Fin 24) (line : Nat) (x : Xfer)
  /-- The site, and the bits its devices hold in error from then on (log 47). -/
  | pacedRefresh (u : Fin 24 × List (Nat × Xfer))
  | scheduledRetrainOverrun (s : Fin 24)
  | retrainComplete (s : Fin 24)
  | siteFailed (s : Fin 24)
  | write (p : Option (Fin 6)) (f : DataFrame)
  | acc16 (p : Option (Fin 6)) (f : DataFrame) (a : AddIn)
  | acc32 (p : Option (Fin 6)) (f : DataFrame) (a : AddIn)
  | tsigFrame (p : Option (Fin 6)) (f : DataFrame)
  | relay (p : Option (Fin 6)) (f : DataFrame)
  /-- With the number of frames in flight behind the failed one (log 50). -/
  | crcFail (f : AtPort Nat)
  | nack (p : Fin 6) (count : Nat)
  | controlFrame (p : Fin 6) (ack : Nat) (returns : List Nat)
  | dataFrameSend (p : Fin 6)
  | idleControlFrame (p : Fin 6)
  | identityFrame (p : Fin 6) (b : IdBody) (acked : Bool)
  | identityRepeat (p : Fin 6)
  | portTrainTimeout (p : Fin 6)
  | probeFrame (p : Fin 6) (rttNs : Nat)
  | linkReport (p : Option (Fin 6)) (r : LinkReport)
  | rosterAssembly
  | roster (f : AtPort RosterIn)
  | laneFailing (p : Fin 6) (lane : Fin 9) (symbols corrected uncorrectable : Nat)
  | laneDead (p : Fin 6) (lane : Fin 9)
  | laneSpared (p : Fin 6)
  | linkDown (p : Fin 6)
  | planWithdrawal (plan : AtPort (Fin 4))
  | relayDrop (p : Fin 6)
  | rootWatchDeadline (plan : Fin 4) (recs : List WatchRec)
  | commitLate (plan : Fin 4)
  | segmentClose (plan : Fin 4) (g : SegIn)
  /-- A lane fed by the stream, word 0 of the header, which names the record's lane and its SEQ, the header's other words, the payload. -/
  | sampleRecord (l : Fin 16) (lead : W64) (rest : Rec) (payload : List Byte)
  /-- The lane, the record's SEQ, and which of the lane's engines finishes: what is staged does not depend on it (12 R330). -/
  | decodeComplete (l : Fin 16) (seq : W48) (engine : Nat)
  | data (d : DataDg)
  | ack (a : AckDg)
  | ackTimer (stream : Nat)
  | retransmissionTimeout (stream : Nat) (seq : W48)
  | keepAlive (stream : Nat)
  | stop (d : DirIn)
  | restart (d : DirIn)
  | hold (d : DirIn)
  | checkpoint (d : DirIn)
  | resume (d : DirIn)
  | lrEdit (d : DirIn)
  | patrol (d : DirIn)
  | redundancy (d : DirIn)
  | variant (d : DirIn)
  | imageWrite (d : DirIn)
  | imageWriteComplete
  | sread (r : StatReq) (count : Nat)
  | swrite (r : StatReq) (value : W64)
  | rcRead (r : StatReq)
  | jrnSel (p : Fin 2) (value : W64)
  | itgFsel (p : Fin 2) (value : W64)
  | botAttreq (p : Fin 2) (value : W64)
  | tilFaultValidClear (t : Fin 16)
  | ptpSync (offset : Int) (m : PtpIn)
  | ptpHoldover
  | hostLinkDown
  | journalRecordWrite (ok : Bool)
  | reportResend (collector : Fin 4) (seq : Nat)
  | rack (m : GoushHdr × Fin 4) (cum : W48)
  | heartbeat
  | packSeg (m : GoushHdr × BitVec 16) (offset : W48) (body : List Byte)
  | imgSeg (m : GoushHdr × W48) (body : List Byte)
  | mgmtLinkDown
  | twinCompare (primary : CoreId) (copy : List HeldWord)
  | deltaRecordWrite (ok : Bool)
  | resetRelease (r : ResetIn)
  | emmcFail
  | siteTrainingComplete (s : Fin 24) (ok : Bool)
  | selfTestComplete (r : SelfTestIn)
  | spareMapApply
  | planValidation
  | readyFrame (f : AtPort (Fin 64)) (codes : List Nat)
  | firstTick
  | ckptLate (plan : Fin 4)
  | restoreLate (plan : Fin 4)
  | resetAssertion
  | pllLock (t : Fin 16)
  | refclkFailover
  | refclkLost
  | refclkHoldoverEnd
  | refclk156Loss (input : Fin 3)
  | temperatureSample (die : Fin 21) (sensors : List Int)
  | thermalHoldAnnouncement
  | thermalClear
  | scheduledRetrainComplete (s : Fin 24)
  | portTrained (p : Fin 6)
  | hostLinkUp
  | mgmtLinkUp
  | refclk156Return (input : Fin 3)
  | refclkStandbyRestored
  | jrnFetchComplete (p : Fin 2)
  | frecFetchComplete (p : Fin 2)
  | attestationReportFormed (p : Fin 2)
  | neighborDiscoveryArpEcho (f : HostFrame)
  | thermalHoldReport (rank : AtPort (Fin 64))
  | twinMismatchReport (rank : AtPort (Fin 64)) (plan : Fin 4)
deriving DecidableEq, Repr

end Sys2Proof
end

