-- ==== Sys2Proof/Config.lean ====
section
/-! DEFINITION. What the spec leaves open as a value: free constants with no body, so that no proof sees a value of them,
and the fixed figures of stepping B0. -/

namespace Sys2Proof.Config

open Machine

/-- DEV_ID of stepping B0 (16 R446). -/
def devId : W64 := 0x4E4B4F4D31B00001#64

/-- The secret number of a signature by the device identity key, fresh for each (15 R433, R434; log 5). -/
opaque signingNumber : Nat → Nat
/-- The frame tables of a plan section: the spec states no layout of a slot entry (01 R19; log 4). -/
opaque frameTables : List Byte → List FrameTable
/-- Its mover command lists (05 R145; log 4). -/
opaque moverLists : List Byte → List (List (BitVec 256))
/-- The parts of slot programs that realise each nest record (06 R155; log 4). -/
opaque nestPrograms : List Byte → List (List NestPart)
/-- The twin map at the head of the bytes, and how many bytes it takes (14 R393; log 4). -/
opaque twinMap : List Byte → List TwinPair × Nat
/-- What the device reads off those parts of a plan section (log 38). -/
opaque planFacts : List Byte → PlanFacts
/-- The expert entry to which a parameter layer of one expert belongs, where a plan has several: layer and expert number (08 R210;
log 49). -/
opaque expertEntry : Nat → Nat → Nat
/-- What E + 2 leaves in the exponent table where it exceeds a byte (11 R310; log 49). -/
opaque exponentOver : Nat → Byte
/-- Built-in slices of the firmware section, which is Ninkolith's and opaque (15 Table 15.6; log 4). -/
opaque builtinSlices : List Byte → List Slice
/-- The fields of a part's header after its tag, and its state block: their layout is not stated (15 R430; log 35). -/
opaque ckptHeader : CkptFile → List Byte
opaque stateBlock : Gen → List Byte
/-- What the header and the state block at the front of a part say, once those bytes are there (15 R431, R432; log 35). -/
opaque readFront : List Byte → Option CkptFile
/-- 64-bit digest of an agreed vote result (10 R278): the spec names no function (log 5). -/
opaque voteDigest : List W64 → W64
/-- The fields of a link frame whose body layout the spec does not state: control, vote, probe and the frames of discovery (10 R263; log
50). -/
opaque linkBody : LinkFrame → List Byte
/-- The samples of each channel that the fixed-point build of the reference decoder of RFC 6716 gives for the packets of a stream, by its
number of channels; none where a packet is invalid (12 R333, R336; log 12). -/
opaque opusSamples : Nat → List (List Byte) → Option (List (List Int))
/-- WINDOW of an intake stream that no lane names: an image write's or a host restore's (13 R365 states none; log 23). -/
opaque openWindow : Nat
/-- A fresh value for what the spec states no value of; the counter `draws` of State picks it (log 5). -/
opaque freeValue : Nat → W64

end Sys2Proof.Config
end

