-- ==== Sys2Proof/Machine/State.lean ====
section
/-! DEFINITION. The state of the module (one rank), the reasons a step can stop, and the state at power-on before reset
release. -/

namespace Sys2Proof.Machine

/-- Reasons a step stops with a fault. No command raises one: the hardware's own faults are effects on the state
(14 R385 to R387), and every command of the table has an effect. -/
inductive Fault where
  /-- never raised; the type is closed. Safe. -/
  | none
deriving DecidableEq, Repr

/-- Reasons a step refuses a command. -/
inductive Refusal where
  /-- an arm of `exec` without a meaning, by its mnemonic. Safe. -/
  | notModelled (mnemonic : String)
deriving DecidableEq, Repr

structure State where
  pending : List Instr
  clk : Clk
  pwr : Pwr
  dev : Dev
  flt : FaultUnit
  frm : Frm
  plans : Sparse PlanSt
  tiles : Sparse Tile
  store : Mem
  storePoison : Sparse Bool
  cores : Sparse Core
  sites : Sparse Site
  ports : Sparse Port
  dom : Domain
  lanes : Sparse Lane
  host : HostPort
  dir : DirUnit
  jrn : Journal
  /-- open image writes, oldest first, at most one for each slot (13 R373, R376). -/
  img : List ImgWrite
  win0 : Window
  win1 : Window
  itg : Itg
  emmc : Emmc
  otp : Otp
  boot : Boot
  tx : List Out
  draws : Nat
deriving DecidableEq, Repr

/-! ### Reset values (16 Tables 16.3 to 16.10 and the tables of each block; where the spec gives none, log 7) -/

def FaultUnit.reset : FaultUnit :=
  { next := 0, recs := [], perFrame := [], unsummed := [], last := [], lastSevere := 0, sevClass := 0, fatal := false,
    corr := 0, cont := 0, halt := 0, rptDrop := 0, overflowed := false, collectors := [], mgmtUp := false, reports := [] }

def TilFault.reset : TilFault := { pc := 0, lrow := 0, lcol := 0, plan := 0, valid := false, code := 0 }

def Tile.reset : Tile :=
  { rows := [], cols := [], pendRows := [], pendCols := [], retired := false, pllSpare := false, pllFailed := [],
    fault := TilFault.reset, cfault := 0, late := 0, tok := [], cw := [], progs := [], tabs := [], patrol := [] }

def Core.reset : Core :=
  { pocket := [], pocketPoison := [], acc := [], vr := [], vpoison := [], kr := [], ar := [], chain := 1, active := false,
    ended := false, slot := 0, plan := 0, top := 0, left := 0, height := 0, prog := 0, pc := 0, loops := [], held := none,
    atStep := false, fenced := [], twin := [], lat := 0 }

def Line.zero : Line := { data := 0, chk0 := 0, chk1 := 0, tag := 0 }

def Site.reset : Site :=
  { state := .absent, tier := 0, rate := 0, retrainIv := 0, lines := [], wcb := [], wcbPeak := 0, queue := [],
    edcTimes := [], corr := 0, uncorr := 0, pread := 0, edc := 0, odecc := 0, retrains := 0, wstall := 0, scrubbed := 0,
    paddr := 0, retq := [], retDropped := 0, corrHist := [], retmap := [], retPend := [], spareOut := false, cursor := 0, refreshes := 0,
    hot := false, waitFrom := none, upsets := [] }

def Acct.reset : Acct :=
  { isOpen := false, share := 0, grant := 0, held := 0, sent := 0, acked := 0, retIn := 0, accepted := 0, queued := 0, freed := 0,
    retOut := 0, unret := 0 }

def Port.reset : Port :=
  { state := .unused, reason := 0, foreign := false, peerRank := 0, peerPort := 0, peerSerial := 0, laneFail := 0,
    spareFor := 15, hopNs := 0, hopSum := 0, probes := 0, setLen := 0, measured := false, replayCnt := 0, fecc := 0, fecu := 0, rxDrop := 0, rDrop := 0,
    gqPeak := 0, crGrant := 0, crRet := 0, rxGood := 0, ackOut := 0, stale := 0, txSeq := 0, replay := [], accts := [], gust := [], ctl := [], outq := [],
    relayRun := 9, rrNext := 0, idGot := false, idAcked := false, badLane := none, reasm := none, idSent := 0 }

def Ckpt.reset : Ckpt :=
  { wanted := false, streams := [], run := none, again := false, sealed := false, newest := 0, gens := [], restore := none, fetch := false, rewind := none, rewindVoted := none,
    late := false, noted := false }

def RedLayer.reset : RedLayer :=
  { reports := [], round := 0, mark := false, clipped := false, committed := false, commitNext := 0, roundNext := false,
    skiprun := 0, lambda := 0, sealLines := 0, auditDue := false, rootClip := 0, rootMark := 0, exps := [], clips := [], upd := 0,
    wgt := 0, commRound := 0, carry := 0 }

def RedWords.reset : RedWords :=
  { lastCommit := 0, lastSkip := false, rounds := 0, adds := 0, rretry := 0, clip := 0, mark := 0, skip := 0, seals := 0,
    waive := 0 }

def PlanSt.reset : PlanSt :=
  { pstate := .absent, vcode := 0, vrank := 0, tcode := 0, image := none, step := 0, first := 0, pos := 0,
    atBoundary := false, initLeft := 0, grace := 0, graces := 0, lates := 0, finishes := 0, stopped := false,
    terminating := none, variant := 0, pin := none, redundant := false, redundNext := none, switchTo := none,
    holdAtStep := false, skipHold := false, ckpt := Ckpt.reset, lrtab := [], watch := [], watchSnap := [],
    snapStep := 0, layers := [], red := RedWords.reset, segs := [], rwatch := none, rate0 := 0, issued := 0, applied := 0 }

def Lane.reset : Lane :=
  { state := .unused, plan := 0, record := [], next := 0, recv := 0, placed := 0, repl := 0, odd := 0, corr := 0, drop := 0,
    zfill := 0, posn := 0, queue := [], resv := [], resvAt := [], sensors := [], expectResv := [], staging := [], manifest := [],
    stagedInStep := 0, stagedNow := 0, stagedAll := 0, inBytes := 0 }

def Window.reset : Window :=
  { watchSel := 0, jrnSel := 0, jrnData := [], jrnFetch := false, fsel := 0, frec := [], frecFetch := false, nonce := [],
    att := [], attFetch := false, certSel := 0 }

def Itg.reset : Itg :=
  { rate := 1, group := 0, retest := [], transients := [], lastPass := [], twinRetest := [], slicesRun := 0, pfail := 0,
    ptrans := 0, twin := 0, close := 0, ledEqn := 0, ledUnit := 0, ledFrame := 0, packs := [], builtin := [], newPacks := [],
    rxPackId := 0, rxBytes := [], deltas := [], packStores := [], deltaFull := false, scratch := [] }

def Frm.reset : Frm :=
  { state := .start, phase := .work, frame := 0, leader := 0, period := 0, lull := 0, cause := 0, pend := [],
    holdLatch := false, overrunHold := false, idle := 0, grants := [], grantPlans := [], moved := 0, finishPlan := none, completed := 0,
    lullAnnounced := false, early := false, slots := [], tickOfs := 0, tickPtp := 0, faultsOut := [],
    causesOut := [], agreedFaults := [], closesOut := [], agreedCauses := [], thermUp := false, agreedDirs := [], agreedPL := none, digest := none, reportsOut := [], agreedReports := [],
    commitLate := [], lateNext := [],
    capture := none, voteMark := 0, leadLost := none }

def Domain.reset : Domain :=
  { rank := 0, shape := 0, out := false, reports := [], roster := [], present := 0, nextRoster := none, splitStop := false, ready := 0,
    tick0 := false, links := [], reportNo := 0, seen := [], heard := [], tickFrame := none }

def HostPort.reset : HostPort :=
  { link := 0, rxdg := 0, txdg := 0, retx := 0, discard := 0, dirBusy := 0, ins := [], outs := [], srttUs := 0, inbox := [], waiting := [] }

def DirUnit.reset : DirUnit := { seen := [], used := [], queue := [] }

def Journal.reset : Journal := { next := 0, ring := [], buf := [], lost := 0, lostPend := 0 }

def Boot.reset : Boot :=
  { stage := 2, slot := 0, fallback := false, recovery := false, keyIdx := 0, boots := 0, starts := 0, inOpens := [], outOpens := [], revoked := 0, image := none, cfg := [],
    named := none, selfDeltas := [], spHash := 0, sitesDone := 0, selfTestDone := false, mapDone := false,
    validated := false, restart := false }

def DirSlot.empty : DirSlot := { state := 0, version := 0, length := 0, hdigest := 0 }
def DirCopy.bad : DirCopy := { tag := 0, crc := 0, gen := 0, select := 0, slotA := DirSlot.empty, slotB := DirSlot.empty }

def Emmc.reset : Emmc :=
  { dir1 := DirCopy.bad, dir2 := DirCopy.bad, slotA := none, slotB := none, deltas := [], deltaCount := 0, packs := [],
    certs := [] }

def Otp.reset : Otp := { keys := [], revoked := 0, serial := 0, mac := 0, mmac := 0, fuses := [], idKey := 0 }

def Clk.reset : Clk :=
  { now := 0, ptpOfs := 0, ptp := 0, ptpRun := 0, ptpLast := 0, serving := 0, standbyOk := true, stopped := false,
    lost := false, ref156 := 7 }

def Pwr.reset : Pwr :=
  { inReset := true, rankStraps := 0, forceRec := false, hintUntil := 0, tickPulses := 0, thermTrip := false,
    refBad := false }

def Dev.reset : Dev :=
  { serial := 0, mac := 0, mmac := 0, therm := 0, holdRaised := false, tj := [], peak := [], coolSince := none }

/-- The module at power-on, RESET_N low (17 R464): every word at its reset value. -/
def State.reset : State :=
  { pending := [], clk := Clk.reset, pwr := Pwr.reset, dev := Dev.reset, flt := FaultUnit.reset, frm := Frm.reset,
    plans := [], tiles := [], store := [], storePoison := [], cores := [], sites := [], ports := [], dom := Domain.reset,
    lanes := [], host := HostPort.reset, dir := DirUnit.reset, jrn := Journal.reset, img := [],
    win0 := Window.reset, win1 := Window.reset, itg := Itg.reset, emmc := Emmc.reset, otp := Otp.reset, boot := Boot.reset,
    tx := [], draws := 0 }

end Sys2Proof.Machine
end

