-- ==== Sys2Proof/Machine/Access.lean ====
section
/-! DEFINITION. Access to the units of State by number, the clocks read as PTP time, and the gates that commands share. -/

namespace Sys2Proof.Machine

/-- What a step answers. -/
abbrev R := Host.Outcome State Fault Refusal

/-! ### Units by number -/

def State.plan (s : State) (p : Nat) : PlanSt := Sparse.get PlanSt.reset s.plans p
def State.setPlan (s : State) (p : Nat) (x : PlanSt) : State := { s with plans := Sparse.set PlanSt.reset s.plans p x }
def State.modPlan (s : State) (p : Nat) (f : PlanSt → PlanSt) : State := s.setPlan p (f (s.plan p))
def State.tile (s : State) (t : Nat) : Tile := Sparse.get Tile.reset s.tiles t
def State.setTile (s : State) (t : Nat) (x : Tile) : State := { s with tiles := Sparse.set Tile.reset s.tiles t x }
def State.modTile (s : State) (t : Nat) (f : Tile → Tile) : State := s.setTile t (f (s.tile t))
def State.core (s : State) (k : Nat) : Core := Sparse.get Core.reset s.cores k
def State.setCore (s : State) (k : Nat) (x : Core) : State := { s with cores := Sparse.set Core.reset s.cores k x }
def State.modCore (s : State) (k : Nat) (f : Core → Core) : State := s.setCore k (f (s.core k))
def State.site (s : State) (i : Nat) : Site := Sparse.get Site.reset s.sites i
def State.setSite (s : State) (i : Nat) (x : Site) : State := { s with sites := Sparse.set Site.reset s.sites i x }
def State.modSite (s : State) (i : Nat) (f : Site → Site) : State := s.setSite i (f (s.site i))
def State.port (s : State) (p : Nat) : Port := Sparse.get Port.reset s.ports p
def State.setPort (s : State) (p : Nat) (x : Port) : State := { s with ports := Sparse.set Port.reset s.ports p x }
def State.modPort (s : State) (p : Nat) (f : Port → Port) : State := s.setPort p (f (s.port p))
def State.lane (s : State) (l : Nat) : Lane := Sparse.get Lane.reset s.lanes l
def State.setLane (s : State) (l : Nat) (x : Lane) : State := { s with lanes := Sparse.set Lane.reset s.lanes l x }
def State.modLane (s : State) (l : Nat) (f : Lane → Lane) : State := s.setLane l (f (s.lane l))
def State.modFrm (s : State) (f : Frm → Frm) : State := { s with frm := f s.frm }
def State.send (s : State) (o : Out) : State := { s with tx := s.tx ++ [o] }

/-- Window of a port: 0 host, 1 management (16 R442). -/
def State.win (s : State) (p : Nat) : Window := if p = 0 then s.win0 else s.win1
def State.setWin (s : State) (p : Nat) (w : Window) : State := if p = 0 then { s with win0 := w } else { s with win1 := w }

/-- With no command waiting, one nanosecond passes (log 2). -/
def idle (s : State) : State := { s with clk := { s.clk with now := s.clk.now + 1 } }

/-- PTP time now, ns (13 R380). -/
def State.ptpNow (s : State) : W64 := BitVec.ofInt 64 ((s.clk.now : Int) + s.clk.ptpOfs)

/-- Image of plan `p` as loaded. -/
def State.img? (s : State) (p : Nat) : Option Plan := (s.plan p).image

/-! ### Output pins (17 R460) -/

/-- LOADHINT: from the start of a guard phase until 5 µs after the tick that follows. -/
def State.loadHint (s : State) : Bool := s.frm.phase == .guard || decide (s.clk.now < s.pwr.hintUntil)
/-- ALERT_N. -/
def State.alertN (s : State) : Bool := !(s.dev.therm == 1 || s.dev.therm == 2)
/-- FATAL_N. -/
def State.fatalN (s : State) : Bool := !(s.flt.fatal || s.pwr.refBad)
/-- THERMTRIP_N. -/
def State.thermtripN (s : State) : Bool := !s.pwr.thermTrip

/-! ### Gates -/

/-- The module is out of reset, clocked and not tripped (17 R464, R468, R474). -/
def State.live (s : State) : Bool := !s.pwr.inReset && !s.clk.stopped && !s.pwr.thermTrip && !s.pwr.refBad
/-- It runs frames: no device-fatal fault (14 Table 14.1). -/
def State.runs (s : State) : Bool := s.live && !s.flt.fatal
/-- The status space is reachable (16 R443). -/
def State.reach (s : State) (port : Nat) : Bool :=
  s.live && decide (5 ≤ s.boot.stage) && (port == 1 || !s.boot.recovery)
/-- Crosswind ports send (10 R279, 14 Table 14.1). -/
def State.sends (s : State) : Bool := s.runs && !s.dom.splitStop

/-- A plan bit of FRM_STATE.PLANS (16 R450). -/
def PlanSt.inPlans (p : PlanSt) : Bool := p.pstate == .running || p.pstate == .held
/-- The plan's slots run now. -/
def PlanSt.executes (p : PlanSt) : Bool := (p.pstate == .running || p.pstate == .restoring) && !p.stopped

/-- Plan `p` is in the domain's keeping: running, held, withdrawn or restoring (01 R33). -/
def PlanSt.kept (x : PlanSt) : Bool := x.inPlans || x.pstate == .withdrawn || x.pstate == .restoring

/-- The plan that TIL_STATE and SIT_STATE show as the owner: one in RUNNING or HELD whose region holds the unit (16 R451, 09 Table 9.9). -/
def State.tileOwner (s : State) (t : Nat) : Option Nat :=
  (List.range 4).find? fun p => (s.plan p).inPlans && ((s.img? p).map (·.hasTile t)).getD false
def State.siteOwner (s : State) (i : Nat) : Option Nat :=
  (List.range 4).find? fun p => (s.plan p).inPlans && ((s.img? p).map (·.hasSite i)).getD false

/-- The plan whose region holds a tile or a site and that a contained fault of the unit ends (01 R27, R30): one in the domain's
keeping. -/
def State.tileClaim (s : State) (t : Nat) : Option Nat :=
  (List.range 4).find? fun p => (s.plan p).kept && ((s.img? p).map (·.hasTile t)).getD false
def State.siteClaim (s : State) (i : Nat) : Option Nat :=
  (List.range 4).find? fun p => (s.plan p).kept && ((s.img? p).map (·.hasSite i)).getD false

end Sys2Proof.Machine
end

