-- ==== Sys2Proof/Machine/Words.lean ====
section
/-! DEFINITION. The status words (16 R439 to R452 and the word tables of each chapter), as a request through a port reads them.
What a read clears is in `State.readClear`. -/

namespace Sys2Proof.Machine

/-- A word from its fields, each a value and the bit it starts at. -/
def word64 (fs : List (Nat × Nat)) : W64 := BitVec.ofNat 64 (fs.foldl (fun a f => a + f.1 * 2 ^ f.2) 0)
def bit (b : Bool) : Nat := if b then 1 else 0

/-- LAST_FAULT of a block's unit (16 Table 16.9). -/
def State.lastFault (s : State) (block unit : Nat) : Nat := (Sparse.get 0#16 s.flt.last (256 * block + unit)).toNat

/-! ### Codes of enumerated fields -/

def frmStateCode : FrmState → Nat
  | .start => 0 | .work => 1 | .grace => 2 | .finish => 3 | .lull => 4 | .doldrums => 5 | .stopped => 6
def pstateCode : PState → Nat
  | .absent => 0 | .rejected => 1 | .running => 2 | .held => 3 | .withdrawn => 4 | .restoring => 5 | .terminated => 6
  | .stopped => 7
def siteStateCode : SiteState → Nat
  | .absent => 0 | .training => 1 | .ready => 2 | .retrainSched => 3 | .retrainUnsched => 4 | .failed => 5
def portStateCode : PortState → Nat
  | .unused => 0 | .training => 1 | .identify => 2 | .up => 3 | .degraded => 4 | .down => 5 | .excluded => 6
def laneStateCode : LaneState → Nat
  | .unused => 0 | .idle => 1 | .run => 2 | .stalled => 3 | .stopped => 4

/-! ### DEV_ (16 Tables 16.3 to 16.5) -/

/-- Whole degrees of a temperature in sixteenths, within 0 to 255. -/
def tjWhole (x : BitVec 16) : Nat := min 255 (max 0 (x.toInt / 16)).toNat

def State.devState (s : State) : W64 :=
  word64 [(s.lastFault 0 0, 48), (s.flt.lastSevere.toNat, 32), (s.flt.sevClass.toNat, 30), (s.dom.rank % 64, 24),
    (s.dev.therm % 4, 22), (bit s.flt.fatal, 21),
    (maxOf ((List.range 21).map fun d => tjWhole (Sparse.get 0#16 s.dev.tj d)), 8)]

/-- TJ and PEAK keep signed sixteenths (Table 16.5); PEAK reads 0 after a clear until the next sample. -/
def State.devTj (s : State) (d : Nat) : W64 :=
  word64 [(((Sparse.get none s.dev.peak d).getD 0).toNat, 16), ((Sparse.get 0#16 s.dev.tj d).toNat, 0)]

/-! ### FRM_ (01 Table 1.8; 16 Tables 16.6, 16.7) -/

/-- Guard phase, µs (01 R17). -/
def guardLen (period : Nat) : Nat := max 2 (ceilDiv period 4000)

def State.frmState (s : State) : W64 :=
  word64 ([(frmStateCode s.frm.state, 16), (s.frm.leader % 64, 24), (s.frm.cause % 16, 32), (s.lastFault 1 0, 0)] ++
    (List.range 4).map (fun p => (bit (s.plan p).inPlans, 36 + p)) ++
    (List.range 4).map (fun p => ((s.plan p).grace % 4, 40 + 2 * p)))

def State.frmPeriod (s : State) : W64 :=
  word64 [(s.frm.period % 65536, 32), (s.frm.lull % 65536, 16), (if s.frm.period = 0 then 0 else guardLen s.frm.period, 8)]

def State.frmPend (s : State) : W64 :=
  word64 (((List.range 7).filter fun c => s.frm.pend.contains (c + 1)).map fun c => (1, c))

/-- A withdrawn plan shows RESTORING from its first restore frame on (16 R450). -/
def PlanSt.shown (x : PlanSt) : PState := if x.pstate = .restoring ∧ x.ckpt.restore = some 0 then .withdrawn else x.pstate

def State.frmPstate (s : State) (p : Nat) : W64 :=
  let x := s.plan p
  word64 [(x.vcode % 65536, 48), (x.vrank % 64, 42), (pstateCode x.shown, 32), (x.tcode % 65536, 16)]

/-- Per-plan words, by their offset divided by 8. -/
def State.frmPlan (s : State) (p k : Nat) : Option W64 :=
  let x := s.plan p
  match k with
  | 0 => some (s.frmPstate p)
  | 1 => some (x.step.setWidth 64)
  | 2 => some (x.first.setWidth 64)
  | 3 => some (x.graces.setWidth 64)
  | 4 => some (x.lates.setWidth 64)
  | 5 => some (x.finishes.setWidth 64)
  | _ => none

/-! ### TIL_ (02 Table 2.4; 03 Table 3.16; 16 Table 16.8) and WATCH_ (04 Tables 4.8 to 4.10) -/

def TilFault.word (f : TilFault) : W64 :=
  word64 [(f.pc % 65536, 48), (f.lrow, 41), (f.lcol, 34), (f.plan, 32), (bit f.valid, 16), (f.code, 0)]

/-- Lower and higher of at most two retired positions; 0x7F for none. -/
def steerPair (l : List Nat) : Nat × Nat :=
  match sortBy id l with
  | [] => (0x7F, 0x7F)
  | [a] => (a, 0x7F)
  | a :: b :: _ => (a, b)

def Tile.steer (t : Tile) : W64 :=
  let r := steerPair (t.rows ++ t.pendRows)
  let c := steerPair (t.cols ++ t.pendCols)
  word64 [(bit t.retired, 31), (bit t.pllSpare, 30), (bit (!t.pendRows.isEmpty || !t.pendCols.isEmpty), 29), (c.2, 21),
    (c.1, 14), (r.2, 7), (r.1, 0)]

/-- A tile as its words show it: a retired one reads its reset values but for RETIRED (16 R439). -/
def State.tileView (s : State) (t : Nat) : Tile := let x := s.tile t; if x.retired then { Tile.reset with retired := true } else x

def State.tilState (s : State) (t : Nat) : W64 :=
  if (s.tile t).retired then 0 else
  match s.tileOwner t with
  | some p => word64 [(s.lastFault 2 t, 48), (p, 4), (1, 3)]
  | none => word64 [(s.lastFault 2 t, 48)]

def State.tilWord (s : State) (t k : Nat) : Option W64 :=
  let x := s.tileView t
  match k with
  | 0 => some x.steer
  | 1 => some x.fault.word
  | 2 => some (s.tilState t)
  | 3 => some (x.cfault.setWidth 64)
  | 4 => some (x.late.setWidth 64)
  | _ => none

/-- Key of count `j` of tensor `wid` in a plan's watch counts. -/
def watchKey (wid j : Nat) : Nat := 4 * wid + j

/-- The running plan that declares a WID, and the declaration (04 R127, R129). -/
def State.watchDecl (s : State) (wid : Nat) : Option (Nat × W64) :=
  (List.range 4).findSome? fun p =>
    if (s.plan p).inPlans then
      ((s.img? p).bind fun q => q.watches.find? fun w => bfld w 52 12 == wid).map fun w => (p, w)
    else none

def State.watchInfo (s : State) (sel : BitVec 17) : W64 :=
  match s.watchDecl (bfld sel 0 12) with
  | some (p, w) =>
    let x := s.plan p
    word64 [((if sel.getLsbD 16 then x.snapStep else x.step).toNat, 8), (1, 7), (p, 5), (bfld w 48 4, 0)]
  | none => 0

def State.watchCount (s : State) (sel : BitVec 17) (j : Nat) : W64 :=
  match s.watchDecl (bfld sel 0 12) with
  | some (p, _) =>
    let x := s.plan p
    (Sparse.get 0#48 (if sel.getLsbD 16 then x.watchSnap else x.watch) (watchKey (bfld sel 0 12) j)).setWidth 64
  | none => 0

/-! ### SIT_ (09 Tables 9.9, 9.11) -/

/-- A site that is absent reads as at reset, whatever map its reserve has kept (16 R439). -/
def State.sitState (s : State) (i : Nat) : W64 :=
  if (s.site i).state = .absent then 0
  else
  let x := s.site i
  word64 ([(s.lastFault 3 i, 48), (x.retmap.length % 65536, 32), (x.wcbPeak % 2 ^ 14, 18), (x.rate % 64, 12),
    (x.tier % 4, 10), (siteStateCode x.state, 0)] ++
    match s.siteOwner i with
    | some p => [(p, 8), (1, 7)]
    | none => [])

def State.sitWord (s : State) (i k : Nat) : Option W64 :=
  let x := s.site i
  match k with
  | 0 => some (s.sitState i)
  | 1 => some (x.corr.setWidth 64)
  | 2 => some (x.uncorr.setWidth 64)
  | 3 => some (x.pread.setWidth 64)
  | 4 => some (x.edc.setWidth 64)
  | 5 => some (x.odecc.setWidth 64)
  | 6 => some (x.retrains.setWidth 64)
  | 7 => some (x.wstall.setWidth 64)
  | 8 => some (x.scrubbed.setWidth 64)
  | 9 => some (x.paddr.setWidth 64)
  | 10 => some (word64 [(x.retq.length % 128, 0)])
  | _ => none

/-! ### XWP_ (10 Tables 10.6 to 10.8) -/

def State.xwpState (s : State) (p : Nat) : W64 :=
  let x := s.port p
  word64 [(s.lastFault 4 p, 48), (x.peerRank % 64, 42), (x.peerPort % 8, 39), (x.laneFail.toNat, 30), (x.spareFor % 16, 26),
    (min x.hopNs 1023, 16), (x.reason % 16, 8), (bit x.foreign, 4), (portStateCode x.state, 0)]

def State.xwpWord (s : State) (p k : Nat) : Option W64 :=
  let x := s.port p
  match k with
  | 0 => some (s.xwpState p)
  | 1 => some (x.replayCnt.setWidth 64)
  | 2 => some (x.fecc.setWidth 64)
  | 3 => some (x.fecu.setWidth 64)
  | 4 => some (x.rxDrop.setWidth 64)
  | 5 => some (x.rDrop.setWidth 64)
  | 6 => some (word64 [(x.gqPeak % 32768, 16), ((x.gust.length + x.ctl.length) % 32768, 0)])
  | 7 => some (x.crGrant.setWidth 64)
  | 8 => some (x.crRet.setWidth 64)
  | _ => none

def State.xwpDomain (s : State) : W64 :=
  word64 ([(s.dom.rank % 64, 50), (wrapInt s.frm.tickOfs 16, 16), (s.dom.shape % 64, 0)] ++
    (List.range 4).map fun p => ((s.plan p).variant % 4, 56 + 2 * p))

/-! ### RED_ (11 Tables 11.7, 11.8) -/

/-- Layers of the step not yet committed, saturating. -/
def PlanSt.redPending (x : PlanSt) : Nat :=
  match x.image with
  | some q => if x.inPlans then
      min 255 ((q.reds.filter fun r => !(Sparse.get RedLayer.reset x.layers (bfld (r.getD 0 0) 48 16)).committed).length)
    else 0
  | none => 0

def State.redState (s : State) (p : Nat) : W64 :=
  let x := s.plan p
  word64 [(s.lastFault 5 p, 48), (x.red.lastCommit % 65536, 32), (bit x.red.lastSkip, 31), (x.redPending, 16),
    (x.red.rounds % 256, 8)]

def State.redWord (s : State) (p k : Nat) : Option W64 :=
  let x := (s.plan p).red
  match k with
  | 0 => some (s.redState p)
  | 1 => some (x.adds.setWidth 64)
  | 2 => some (x.rretry.setWidth 64)
  | 3 => some (x.clip.setWidth 64)
  | 4 => some (x.mark.setWidth 64)
  | 5 => some (x.skip.setWidth 64)
  | 6 => some (x.seals.setWidth 64)
  | 7 => some (x.waive.setWidth 64)
  | _ => none

/-! ### INK_ (12 Tables 12.9, 12.10) -/

/-- Records held: admitted and not yet decided, reserve records and queued sensor frames included (12 R352). -/
def Lane.held (l : Lane) : Nat :=
  l.queue.length + l.resv.length + (l.sensors.map fun e => e.2.length).foldl (· + ·) 0

def State.inkLane (s : State) (l : Nat) : W64 :=
  let x := s.lane l
  word64 [(s.lastFault 6 l, 48), (x.resv.length % 256, 40), (min x.held 65535, 24), (x.stagedNow % 256, 16),
    (if x.state == .unused then 0 else x.plan % 4, 14), (bit (x.state != .unused && (s.plan x.plan).inPlans), 13),
    (laneStateCode x.state, 0)]

def State.inkWord (s : State) (l k : Nat) : Option W64 :=
  let x := s.lane l
  match k with
  | 0 => some (s.inkLane l)
  | 1 => some (x.recv.setWidth 64)
  | 2 => some (x.placed.setWidth 64)
  | 3 => some (x.repl.setWidth 64)
  | 4 => some (x.odd.setWidth 64)
  | 5 => some (x.corr.setWidth 64)
  | 6 => some (x.drop.setWidth 64)
  | 7 => some (x.zfill.setWidth 64)
  | 8 => some (x.posn.setWidth 64)
  | 9 => some ((x.expectResv.headD x.next).setWidth 64)
  | _ => none

/-! ### HST_ (13 Tables 13.11, 13.12) -/

def State.hstState (s : State) : W64 := word64 [(s.lastFault 7 0, 48), (s.clk.ptp % 16, 28), (s.host.link % 16, 16)]

def State.hstWord (s : State) (k : Nat) : Option W64 :=
  match k with
  | 0 => some s.hstState
  | 1 => some (s.host.rxdg.setWidth 64)
  | 2 => some (s.host.txdg.setWidth 64)
  | 3 => some (s.host.retx.setWidth 64)
  | 4 => some (s.host.discard.setWidth 64)
  | 5 => some (s.host.dirBusy.setWidth 64)
  | 6 => some (s.clk.ptpLast.setWidth 64)
  | _ => none

/-! ### ITG_ (14 Tables 14.9, 14.10; 16 Table 16.10) -/

/-- Active slices in patrol order: the built-in pack 0, then packs by number (14 R390). -/
def Itg.active (x : Itg) : List Slice :=
  x.builtin ++ ((sortBy Pack.packId (x.packs.filterMap id)).filter (·.active)).flatMap (·.slices)

def State.itgPatrol (s : State) : W64 :=
  word64 [(s.lastFault 8 0, 48), (s.itg.group % 256, 40), (s.itg.rate % 32, 35), (s.itg.retest.length % 1024, 16),
    (s.itg.active.length % 2048, 0)]

def Pack.word (p : Pack) : W64 :=
  word64 [(p.packId % 65536, 48), (p.version % 2 ^ 32, 16), (p.slices.length % 2048, 1), (bit p.active, 0)]

def State.itgCount (s : State) (k : Nat) : Option W64 :=
  match k with
  | 0 => some (s.flt.corr.setWidth 64)
  | 1 => some (s.flt.cont.setWidth 64)
  | 2 => some (s.flt.halt.setWidth 64)
  | 3 => some (s.itg.slicesRun.setWidth 64)
  | 4 => some (s.itg.pfail.setWidth 64)
  | 5 => some (s.itg.ptrans.setWidth 64)
  | 6 => some (s.itg.twin.setWidth 64)
  | 7 => some (s.flt.rptDrop.setWidth 64)
  | 8 => some (s.itg.close.setWidth 64)
  | _ => none

/-- The eight words of a fault record (14 Table 14.2). -/
def FaultRec.words (r : FaultRec) : List W64 :=
  [word64 [(r.code, 48), (r.frame.toNat, 0)], r.time,
   word64 [(r.cls % 4, 62), (r.rank % 64, 56), (r.plan.getD 0 % 4, 54), (bit r.plan.isSome, 53), (bit r.sum, 52),
     (r.step.toNat, 0)],
   word64 [(r.unitk % 256, 56), (r.unit % 65536, 40)], r.d0, r.d1, r.d2, r.d3]

/-! ### BOT_ (15 Table 15.13) and JRN_ (13 Table 13.10) -/

def State.botState (s : State) : W64 :=
  word64 [(s.lastFault 9 0, 48), (min s.boot.boots 65535, 32), (s.boot.stage % 16, 20), (s.boot.slot % 4, 18),
    (bit s.boot.fallback, 17), (bit s.boot.recovery, 16), (s.boot.keyIdx % 4, 14)]

/-- Last completed step of the newest complete generation. -/
def Ckpt.newestStep (c : Ckpt) : W48 := if c.newest = 0 then 0 else ((c.gens[c.newest - 1]?).map (·.step)).getD 0

def State.botCkpt (s : State) (p : Nat) : W64 :=
  let c := (s.plan p).ckpt
  word64 [(c.newest % 4, 62), (c.newestStep.toNat, 0)]

/-- Word `k` of the certificate page selected (15 R436): little-endian bytes, 0 beyond the certificate. -/
def State.certWord (s : State) (w : Window) (k : Nat) : W64 :=
  let c := s.emmc.certs.getD (bfld w.certSel 8 3) []
  BitVec.ofNat 64 (leNat ((List.range 8).map fun i => c.getD (512 * bfld w.certSel 0 3 + 8 * k + i) 0))

def State.jrnOldest (s : State) : W48 :=
  match s.jrn.ring.filter (·.crcOk) with
  | r :: rs => rs.foldl (fun a x => if x.index.toNat < a.toNat then x.index else a) r.index
  | [] => match s.jrn.buf.head? with
    | some r => r.index
    | none => s.jrn.next

def State.jrnStat (s : State) : W64 := word64 [(s.lastFault 10 0, 48), (s.jrn.lost.toNat, 0)]

/-- CRC-32, IEEE 802.3: reflected, initial value and final exclusive-or all ones. -/
def crc32Bit (c : Nat) : Nat := if c % 2 = 1 then (c / 2) ^^^ 0xEDB88320 else c / 2
def crc32Byte (c b : Nat) : Nat :=
  crc32Bit (crc32Bit (crc32Bit (crc32Bit (crc32Bit (crc32Bit (crc32Bit (crc32Bit (c ^^^ b))))))))
def crc32 (bs : List Byte) : Nat := (bs.foldl (fun c b => crc32Byte c b.toNat) 0xFFFFFFFF) ^^^ 0xFFFFFFFF

def wordsBytes (ws : List W64) : List Byte := ws.flatMap fun w => leBytes 8 w.toNat

/-- The sixteen words of a journal record (13 Table 13.9). SRCADDR is in network byte order, which no rule states
(DESIGN CHOICE, log 53). -/
def JrnRec.words (r : JrnRec) : List W64 :=
  let src := r.src.toNat
  let be (x : Nat) : W64 := BitVec.ofNat 64 (beNat (leBytes 8 x))
  let b := r.body
  let w0 := (b.getD 0 0)
  let body := w0 :: [b.getD 1 0, b.getD 2 0, b.getD 3 0]
  let ws := [word64 [(r.kind % 256, 56), (r.outcome % 256, 48), (r.arrivalFrame.toNat, 0)],
    word64 [(r.reason % 256, 56), (r.port % 2, 55), (r.effectFrame.toNat, 0)], r.time, word64 [(r.index.toNat, 0)],
    be (src / 2 ^ 64), be (src % 2 ^ 64),
    word64 [(r.wseq % 2 ^ 32, 32), (r.wrank % 64, 26), (r.wport % 2, 25), (r.udp.toNat, 0)], 0] ++ body ++ [0, 0, 0]
  ws ++ [word64 [(crc32 (wordsBytes ws), 0)]]

/-! ### The map (16 Table 16.1) -/

/-- Word at an address as port `p` reads it, none where no word is mapped. -/
def State.wordAt (s : State) (p a : Nat) : Option W64 :=
  let w := s.win p
  if a % 8 ≠ 0 then none
  else
    let o := a % 65536
    match a / 65536 with
    | 0 =>
      if o = 0x00 then some Config.devId
      else if o = 0x08 then some s.dev.serial
      else if o = 0x10 then some (s.dev.mac.setWidth 64)
      else if o = 0x18 then some (s.dev.mmac.setWidth 64)
      else if o = 0x20 then some s.devState
      else if 0x100 ≤ o ∧ o < 0x100 + 8 * 21 then some (s.devTj ((o - 0x100) / 8))
      else none
    | 1 =>
      if o = 0x00 then some s.frmState
      else if o = 0x08 then some (s.frm.frame.setWidth 64)
      else if o = 0x10 then some s.frmPeriod
      else if o = 0x18 then some s.frmPend
      else if o = 0x20 then some (s.frm.idle.setWidth 64)
      else if 0x100 ≤ o ∧ o < 0x200 then s.frmPlan ((o - 0x100) / 0x40) (o % 0x40 / 8)
      else none
    | 2 =>
      if o < 0x1000 then s.tilWord (o / 0x100) (o % 0x100 / 8)
      else if o = 0x1000 then some (w.watchSel.setWidth 64)
      else if o = 0x1008 then some (s.watchInfo w.watchSel)
      else if 0x1010 ≤ o ∧ o < 0x1030 then some (s.watchCount w.watchSel ((o - 0x1010) / 8))
      else none
    | 3 => if o < 0x1800 then s.sitWord (o / 0x100) (o % 0x100 / 8) else none
    | 4 =>
      if o < 0x600 then s.xwpWord (o / 0x100) (o % 0x100 / 8)
      else if o = 0x800 then some s.xwpDomain
      else if o = 0x808 then some s.dom.present
      else none
    | 5 => if o < 0x400 then s.redWord (o / 0x100) (o % 0x100 / 8) else none
    | 6 => if o < 0x1000 then s.inkWord (o / 0x100) (o % 0x100 / 8) else none
    | 7 => if o < 0x38 then s.hstWord (o / 8) else none
    | 8 =>
      if o = 0x00 then some s.itgPatrol
      else if o = 0x08 then some (word64 [(s.itg.ledEqn, 56), (s.itg.ledUnit, 48), (s.itg.ledFrame.toNat, 0)])
      else if 0x100 ≤ o ∧ o < 0x180 then some (((s.itg.packs.getD ((o - 0x100) / 8) none).map Pack.word).getD 0)
      else if 0x200 ≤ o ∧ o < 0x248 then s.itgCount ((o - 0x200) / 8)
      else if o = 0x300 then some (word64 [(s.flt.next % 2 ^ 48, 0)])
      else if o = 0x308 then some (word64 [((s.flt.next - s.flt.recs.length) % 2 ^ 48, 0)])
      else if o = 0x310 then some (w.fsel.setWidth 64)
      else if 0x340 ≤ o ∧ o < 0x380 then some (w.frec.getD ((o - 0x340) / 8) 0)
      else none
    | 9 =>
      if o = 0x00 then some s.botState
      else if 0x08 ≤ o ∧ o < 0x28 then some (s.botCkpt ((o - 8) / 8))
      else if 0x100 ≤ o ∧ o < 0x120 then some (w.nonce.getD ((o - 0x100) / 8) 0)
      else if o = 0x120 then some 0
      else if 0x200 ≤ o ∧ o < 0x3A0 then some (w.att.getD ((o - 0x200) / 8) 0)
      else if o = 0x400 then some (w.certSel.setWidth 64)
      else if 0x600 ≤ o ∧ o < 0x800 then some (s.certWord w ((o - 0x600) / 8))
      else none
    | 10 =>
      if o = 0x00 then some (s.jrn.next.setWidth 64)
      else if o = 0x08 then some (s.jrnOldest.setWidth 64)
      else if o = 0x10 then some (w.jrnSel.setWidth 64)
      else if o = 0x18 then some s.jrnStat
      else if 0x40 ≤ o ∧ o < 0xC0 then some (w.jrnData.getD ((o - 0x40) / 8) 0)
      else none
    | _ => none

/-- Blocks that carry values in recovery (16 R443). -/
def liveInRecovery (a : Nat) : Bool := a / 65536 == 0 || a / 65536 == 8 || a / 65536 == 9 || a / 65536 == 10

/-- Word that a read returns: in recovery every other block reads its reset values. -/
def State.statusWord (s : State) (p a : Nat) : Option W64 :=
  if s.boot.recovery && !liveInRecovery a then State.reset.wordAt p a else s.wordAt p a

/-- What a read of the word clears (16 R441; Tables 9.9 to 9.11, 10.7, 11.8, 13.12, 14.10, 16.5, 16.6, 16.8). -/
def State.readClear (s : State) (a : Nat) : State :=
  let o := a % 65536
  let k := o % 0x100 / 8
  match a / 65536 with
  | 0 => if 0x100 ≤ o ∧ o < 0x100 + 8 * 21 then
      { s with dev := { s.dev with peak := Sparse.set none s.dev.peak ((o - 0x100) / 8) none } } else s
  | 1 =>
    if o = 0x20 then { s with frm := { s.frm with idle := 0 } }
    else if 0x100 ≤ o ∧ o < 0x200 then
      s.modPlan ((o - 0x100) / 0x40) fun x => match o % 0x40 / 8 with
        | 3 => { x with graces := 0 }
        | 4 => { x with lates := 0 }
        | 5 => { x with finishes := 0 }
        | _ => x
    else s
  | 2 => if o < 0x1000 then
      s.modTile (o / 0x100) fun x => match k with
        | 3 => { x with cfault := 0 }
        | 4 => { x with late := 0 }
        | _ => x
    else s
  | 3 => if o < 0x1800 then
      s.modSite (o / 0x100) fun x => match k with
        | 0 => { x with wcbPeak := 0 }
        | 1 => { x with corr := 0 }
        | 2 => { x with uncorr := 0 }
        | 3 => { x with pread := 0 }
        | 4 => { x with edc := 0 }
        | 5 => { x with odecc := 0 }
        | 6 => { x with retrains := 0 }
        | 7 => { x with wstall := 0 }
        | 8 => { x with scrubbed := 0 }
        | _ => x
    else s
  | 4 => if o < 0x600 then
      s.modPort (o / 0x100) fun x => match k with
        | 1 => { x with replayCnt := 0 }
        | 2 => { x with fecc := 0 }
        | 3 => { x with fecu := 0 }
        | 4 => { x with rxDrop := 0 }
        | 5 => { x with rDrop := 0 }
        | 6 => { x with gqPeak := 0 }
        | _ => x
    else s
  | 5 => if o < 0x400 then
      s.modPlan (o / 0x100) fun x => match k with
        | 1 => { x with red := { x.red with adds := 0 } }
        | 2 => { x with red := { x.red with rretry := 0 } }
        | 3 => { x with red := { x.red with clip := 0 } }
        | 4 => { x with red := { x.red with mark := 0 } }
        | 5 => { x with red := { x.red with skip := 0 } }
        | 6 => { x with red := { x.red with seals := 0 } }
        | 7 => { x with red := { x.red with waive := 0 } }
        | _ => x
    else s
  | 7 => if o < 0x38 then
      { s with host := match o / 8 with
        | 1 => { s.host with rxdg := 0 }
        | 2 => { s.host with txdg := 0 }
        | 3 => { s.host with retx := 0 }
        | 4 => { s.host with discard := 0 }
        | 5 => { s.host with dirBusy := 0 }
        | _ => s.host }
    else s
  | 8 =>
    match (o - 0x200) / 8, decide (0x200 ≤ o ∧ o < 0x248) with
    | 0, true => { s with flt := { s.flt with corr := 0 } }
    | 1, true => { s with flt := { s.flt with cont := 0 } }
    | 2, true => { s with flt := { s.flt with halt := 0 } }
    | 3, true => { s with itg := { s.itg with slicesRun := 0 } }
    | 4, true => { s with itg := { s.itg with pfail := 0 } }
    | 5, true => { s with itg := { s.itg with ptrans := 0 } }
    | 6, true => { s with itg := { s.itg with twin := 0 } }
    | 7, true => { s with flt := { s.flt with rptDrop := 0 } }
    | 8, true => { s with itg := { s.itg with close := 0 } }
    | _, _ => s
  | _ => s

end Sys2Proof.Machine
end

