-- ==== Sys2Proof/Machine/Bitstream.lean ====
section
/-! DEFINITION. What the header of a compressed bitstream declares (12 R331 to R333, Table 12.5): JPEG frame header, PNG IHDR, FLAC
STREAMINFO, Ogg Opus. The places of the fields are those of the standards that Table 12.5 names (log 12). -/

namespace Sys2Proof.Machine

/-- What a header declares: extents (width and height; samples per channel and channels), decoded size Z, source channels, whether JPEG
components are RGB, bits of a sample, source rate, JPEG luma sampling horizontally and vertically. -/
structure MediaHdr where
  e0 : Nat
  e1 : Nat
  z : Nat
  chans : Nat
  rgb : Bool
  bits : Nat
  rate : Nat
  sh : Nat
  sv : Nat
deriving DecidableEq, Repr

def MediaHdr.none : MediaHdr := { e0 := 0, e1 := 0, z := 0, chans := 0, rgb := false, bits := 0, rate := 0, sh := 0, sv := 0 }

/-- Reading of a header: outside the subset of Table 12.5, broken, or what it declares. -/
inductive HeaderIn where
  | odd | corrupt
  | good (m : MediaHdr)
deriving DecidableEq, Repr

def beAt (bs : List Byte) (o n : Nat) : Nat := beNat ((bs.drop o).take n)
def leAt (bs : List Byte) (o n : Nat) : Nat := leNat ((bs.drop o).take n)
def byteAt (bs : List Byte) (o : Nat) : Nat := (bs.getD o 0).toNat
/-- The bytes at `o` are these characters. -/
def tagAt (bs : List Byte) (o : Nat) (tag : List Nat) : Bool := ((bs.drop o).take tag.length).map BitVec.toNat == tag

/-! ### JPEG (ITU-T T.81) -/

/-- A frame header, its marker `FFm` taken off: length, precision, height, width, components. `app` is the transform code of an APP14
segment seen before it, `jfif` a JFIF segment. -/
def jpegFrame (m : Nat) (bs : List Byte) (app : Option Nat) (jfif : Bool) : HeaderIn :=
  let h := beAt bs 3 2
  let w := beAt bs 5 2
  let n := byteAt bs 7
  let hv (c : Nat) : Nat := byteAt bs (9 + 3 * c)
  if bs.length < 8 + 3 * n ∨ beAt bs 0 2 ≠ 8 + 3 * n ∨ w = 0 then .corrupt
  else if 0xC2 < m ∨ byteAt bs 2 ≠ 8 ∨ h = 0 ∨ (n ≠ 1 ∧ n ≠ 3) then .odd
  else if !([0x11, 0x21, 0x22].contains (hv 0)) ∨ (n = 3 ∧ (hv 1 ≠ 0x11 ∨ hv 2 ≠ 0x11)) then .odd
  else if (match app with
    | some t => decide (1 < t)
    | none => !jfif) then .odd
  else .good { MediaHdr.none with e0 := w, e1 := h, z := w * h * n, chans := n, rgb := app == some 0, bits := 8, sh := hv 0 / 16, sv := hv 0 % 16 }

/-- Markers up to the frame header; each has two bytes and a segment of its own length. DHP opens a hierarchical file. -/
def jpegMarkers : Nat → List Byte → Option Nat → Bool → HeaderIn
  | 0, _, _, _ => .corrupt
  | n + 1, bs, app, jfif =>
    let m := byteAt bs 1
    let seg := bs.drop 2
    let len := beAt seg 0 2
    if byteAt bs 0 ≠ 0xFF then .corrupt
    else if m = 0xFF then jpegMarkers n (bs.drop 1) app jfif
    else if m = 0xDE then .odd
    else if 0xC0 ≤ m ∧ m ≤ 0xCF ∧ m ≠ 0xC4 ∧ m ≠ 0xC8 ∧ m ≠ 0xCC then jpegFrame m seg app jfif
    else if m ≤ 0x01 ∨ (0xD0 ≤ m ∧ m ≤ 0xDA) ∨ len < 2 ∨ seg.length < len then .corrupt
    else
      let app := if m = 0xEE ∧ tagAt seg 2 [0x41, 0x64, 0x6F, 0x62, 0x65] ∧ 14 ≤ len then some (byteAt seg 13) else app
      jpegMarkers n (seg.drop len) app (jfif || (m == 0xE0 && tagAt seg 2 [0x4A, 0x46, 0x49, 0x46, 0]))

def jpegHeader (bs : List Byte) : HeaderIn :=
  if tagAt bs 0 [0xFF, 0xD8] then jpegMarkers bs.length (bs.drop 2) none false else .corrupt

/-! ### PNG (ISO/IEC 15948) -/

def pngHeader (bs : List Byte) : HeaderIn :=
  let w := beAt bs 16 4
  let h := beAt bs 20 4
  let depth := byteAt bs 24
  let type := byteAt bs 25
  let lace := byteAt bs 28
  if !tagAt bs 0 [0x89, 0x50, 0x4E, 0x47, 0x0D, 0x0A, 0x1A, 0x0A] ∨ beAt bs 8 4 ≠ 13 ∨ !tagAt bs 12 [0x49, 0x48, 0x44, 0x52] ∨
      bs.length < 33 ∨ crc32 ((bs.drop 12).take 17) ≠ beAt bs 29 4 ∨ w = 0 ∨ h = 0 ∨ byteAt bs 26 ≠ 0 ∨ byteAt bs 27 ≠ 0 ∨ 1 < lace then
    .corrupt
  else if lace = 1 ∨ type = 3 ∨ (type = 0 ∧ (depth = 1 ∨ depth = 2 ∨ depth = 4)) then .odd
  else if !([0, 2, 4, 6].contains type) ∨ (depth ≠ 8 ∧ depth ≠ 16) then .corrupt
  else
    let n := if type = 0 then 1 else if type = 2 then 3 else if type = 4 then 2 else 4
    .good { MediaHdr.none with e0 := w, e1 := h, z := w * h * n * ceilDiv depth 8, chans := n, bits := depth }

/-! ### FLAC -/

def flacHeader (bs : List Byte) : HeaderIn :=
  let x := beAt bs 18 8
  let rate := x / 2 ^ 44
  let n := x / 2 ^ 41 % 8 + 1
  let bits := x / 2 ^ 36 % 32 + 1
  let total := x % 2 ^ 36
  if !tagAt bs 0 [0x66, 0x4C, 0x61, 0x43] ∨ byteAt bs 4 % 128 ≠ 0 ∨ beAt bs 5 3 ≠ 34 ∨ bs.length < 42 ∨ rate = 0 then .corrupt
  else if (bits ≠ 16 ∧ bits ≠ 24) ∨ 192000 < rate ∨ total = 0 then .odd
  else .good { MediaHdr.none with e0 := total, e1 := n, z := total * n * ceilDiv bits 8, chans := n, bits := bits, rate := rate }

/-! ### Opus in Ogg (RFC 7845) -/

/-- Granule position of the last page that ends a packet; none where the bytes are not whole pages. -/
def oggLast : Nat → List Byte → Nat → Option Nat
  | 0, _, _ => none
  | k + 1, bs, last =>
    if bs.isEmpty then some last
    else
      let n := byteAt bs 26
      let len := 27 + n + (((bs.drop 27).take n).map BitVec.toNat).foldl (· + ·) 0
      let g := leAt bs 6 8
      if !tagAt bs 0 [0x4F, 0x67, 0x67, 0x53] ∨ byteAt bs 4 ≠ 0 ∨ bs.length < len then none
      else oggLast k (bs.drop len) (if g = 2 ^ 64 - 1 then last else g)

def opusHeader (bs : List Byte) : HeaderIn :=
  let h := bs.drop (27 + byteAt bs 26)
  let n := byteAt h 9
  let skip := leAt h 10 2
  match oggLast (bs.length + 1) bs 0 with
  | none => .corrupt
  | some g =>
    if !tagAt h 0 [0x4F, 0x70, 0x75, 0x73, 0x48, 0x65, 0x61, 0x64] ∨ h.length < 19 ∨ g < skip then .corrupt
    else if byteAt h 18 ≠ 0 ∨ n = 0 ∨ 2 < n ∨ leAt h 16 2 ≠ 0 then .odd
    else .good { MediaHdr.none with e0 := g - skip, e1 := n, z := (g - skip) * n * 2, chans := n, bits := 16, rate := 48000 }

/-- The header of a payload of MEDIA 0 to 3. -/
def mediaHeader (media : Nat) (bs : List Byte) : HeaderIn :=
  match media with
  | 0 => jpegHeader bs
  | 1 => pngHeader bs
  | 2 => flacHeader bs
  | _ => opusHeader bs

end Sys2Proof.Machine
end

