-- ==== Sys2Proof/Machine/Png.lean ====
section
/-! DEFINITION. Bit readers and prefix codes of the media decoders, and PNG: chunks, zlib streams and filters (12 R333, R336; ISO/IEC
15948, RFC 1950, RFC 1951). The standards are named by Table 12.5 and not restated (log 12). -/

namespace Sys2Proof.Machine

/-! ### Bits -/

/-- A decoder over a stream of bits; none where the stream is wrong or ends. -/
abbrev Rd := StateT (List Bool) Option

/-- Bits of bytes, least significant first and most significant first. -/
def bitsUp (bs : List Byte) : List Bool := bs.flatMap fun b => (List.range 8).map b.getLsbD
def bitsDown (bs : List Byte) : List Bool := bs.flatMap fun b => (List.range 8).map b.getMsbD

def rdBit : Rd Nat := fun bs => match bs with
  | b :: bs => some (bit b, bs)
  | [] => none

/-- A number of `n` bits, its first bit the least significant. -/
def rdUp : Nat → Rd Nat
  | 0 => pure 0
  | n + 1 => do
    let b ← rdBit
    return b + 2 * (← rdUp n)

/-- A number of `n` bits, its first bit the most significant. -/
def rdDown (n : Nat) : Rd Nat := fun bs => if bs.length < n then none else some ((bs.take n).foldl (fun a b => 2 * a + bit b) 0, bs.drop n)

/-- Pass on to the next whole byte. -/
def rdAlign : Rd Unit := fun bs => some ((), bs.drop (bs.length % 8))

/-- Repeat a reader a number of times. -/
def rdTimes {α : Type} (n : Nat) (r : Rd α) : Rd (List α) := (List.range n).mapM fun _ => r

/-! ### Prefix codes -/

/-- A canonical prefix code: number of codes of each length from 1, and the symbols in code order. -/
structure Prefix where
  counts : List Nat
  syms : List Nat
deriving DecidableEq, Repr

/-- Read a symbol. `code` holds the bits read, `first` and `index` the first code of the length and its place. -/
def rdSymFrom (syms : List Nat) : List Nat → Nat → Nat → Nat → Rd Nat
  | [], _, _, _ => failure
  | c :: cs, code, first, index => do
    let code := 2 * code + (← rdBit)
    if code < first + c then return syms.getD (index + (code - first)) 0
    else rdSymFrom syms cs code (2 * (first + c)) (index + c)
def Prefix.rd (t : Prefix) : Rd Nat := rdSymFrom t.syms t.counts 0 0 0

/-- Share of the code space that a code uses, of 2 ^ (number of lengths). -/
def Prefix.space (t : Prefix) : Nat := (t.counts.zipIdx.map fun e => e.1 * 2 ^ (t.counts.length - 1 - e.2)).foldl (· + ·) 0
def Prefix.full (t : Prefix) : Bool := t.space == 2 ^ t.counts.length

/-- The code whose symbol `i` has length `ls[i]`, 0 for none (RFC 1951). -/
def Prefix.ofLengths (ls : List Nat) : Prefix :=
  let at_ (n : Nat) : List Nat := (ls.zipIdx.filter fun e => e.1 == n).map (·.2)
  { counts := (List.range 15).map fun n => (at_ (n + 1)).length, syms := (List.range 15).flatMap fun n => at_ (n + 1) }

/-! ### Deflate and zlib (RFC 1951, RFC 1950) -/

def lenBase : List Nat :=
  [3, 4, 5, 6, 7, 8, 9, 10, 11, 13, 15, 17, 19, 23, 27, 31, 35, 43, 51, 59, 67, 83, 99, 115, 131, 163, 195, 227, 258]
/-- Extra bits of a length code and of a distance code. -/
def lenExtra (k : Nat) : Nat := if k < 4 ∨ k = 28 then 0 else k / 4 - 1
def distExtra (k : Nat) : Nat := k / 2 - 1
def distBase (k : Nat) : Nat := if k < 4 then k + 1 else (2 + k % 2) * 2 ^ (k / 2 - 1) + 1

/-- Bytes so far, the last one first, with `n` more from a distance `d` back. -/
def copyBack (d : Nat) : Nat → List Byte → List Byte
  | 0, out => out
  | n + 1, out => copyBack d n (out.getD (d - 1) 0 :: out)

/-- The symbols of a block up to its end. -/
def rdCodes (lit dist : Prefix) : Nat → List Byte → Rd (List Byte)
  | 0, _ => failure
  | n + 1, out => do
    let k ← lit.rd
    if k < 256 then rdCodes lit dist n (BitVec.ofNat 8 k :: out)
    else if k = 256 then return out
    else if 285 < k then failure
    else
      let len := lenBase.getD (k - 257) 0 + (← rdUp (lenExtra (k - 257)))
      let e ← dist.rd
      if 29 < e then failure
      else
        let d := distBase e + (← rdUp (distExtra e))
        if out.length < d then failure else rdCodes lit dist n (copyBack d len out)

def fixedLit : Prefix := .ofLengths (List.replicate 144 8 ++ List.replicate 112 9 ++ List.replicate 24 7 ++ List.replicate 8 8)
def fixedDist : Prefix := .ofLengths (List.replicate 32 5)

/-- Code lengths of a dynamic block, run lengths expanded. -/
def rdLengths (t : Prefix) : Nat → Nat → List Nat → Rd (List Nat)
  | 0, _, _ => failure
  | f + 1, n, ls => do
    if n = ls.length then return ls
    else if n < ls.length then failure
    else
      let k ← t.rd
      if k < 16 then rdLengths t f n (ls ++ [k])
      else if k = 16 then
        if ls.isEmpty then failure
        else
          let r ← rdUp 2
          rdLengths t f n (ls ++ List.replicate (3 + r) (ls.getLastD 0))
      else
        let r ← if k = 17 then rdUp 3 else rdUp 7
        rdLengths t f n (ls ++ List.replicate ((if k = 17 then 3 else 11) + r) 0)

/-- The order in which the lengths of the length code stand. -/
def lengthOrder : List Nat := [16, 17, 18, 0, 8, 7, 9, 6, 10, 5, 11, 4, 12, 3, 13, 2, 14, 1, 15]

/-- A code is whole, or is one code of one bit. -/
def Prefix.sound (t : Prefix) : Bool := t.full || (t.syms.length == 1 && t.counts.headD 0 == 1)

def rdDynamic (out : List Byte) : Rd (List Byte) := do
  let hl ← rdUp 5
  let hd ← rdUp 5
  let hc ← rdUp 4
  let cl ← rdTimes (hc + 4) (rdUp 3)
  let t := Prefix.ofLengths ((List.range 19).map fun k => cl.getD ((lengthOrder.findIdx? fun x => x == k).getD 19) 0)
  if !t.full ∨ 29 < hl ∨ 29 < hd then failure
  else
    let ls ← rdLengths t 400 (hl + 257 + hd + 1) []
    let lit := Prefix.ofLengths (ls.take (hl + 257))
    let dist := Prefix.ofLengths (ls.drop (hl + 257))
    if ls.getD 256 0 = 0 ∨ !lit.sound ∨ !(dist.sound || dist.syms.isEmpty) then failure
    else
      let bs ← get
      rdCodes lit dist (bs.length + 1) out

def rdStored (out : List Byte) : Rd (List Byte) := do
  rdAlign
  let n ← rdUp 16
  let m ← rdUp 16
  if n + m ≠ 65535 then failure
  else
    let bs ← rdTimes n (rdUp 8)
    return (bs.map (BitVec.ofNat 8)).reverse ++ out

/-- The blocks up to the final one. -/
def rdBlocks : Nat → List Byte → Rd (List Byte)
  | 0, _ => failure
  | f + 1, out => do
    let last ← rdBit
    let type ← rdUp 2
    let bs ← get
    let out ← if type = 0 then rdStored out
      else if type = 1 then rdCodes fixedLit fixedDist (bs.length + 1) out
      else if type = 2 then rdDynamic out
      else failure
    if last = 1 then return out else rdBlocks f out

def adler32 (bs : List Byte) : Nat :=
  let s := bs.foldl (fun (s : Nat × Nat) b => let a := (s.1 + b.toNat) % 65521; (a, (s.2 + a) % 65521)) (1, 0)
  s.2 * 65536 + s.1

/-- The bytes of a zlib stream, which is the whole of `bs`. -/
def zlibBytes (bs : List Byte) : Option (List Byte) :=
  let cmf := byteAt bs 0
  let flg := byteAt bs 1
  if cmf % 16 ≠ 8 ∨ 7 < cmf / 16 ∨ (256 * cmf + flg) % 31 ≠ 0 ∨ flg / 32 % 2 = 1 then none
  else
    match rdBlocks (8 * bs.length + 1) [] (bitsUp (bs.drop 2)) with
    | none => none
    | some (out, rest) =>
      let tail := (bs.reverse.take (rest.length / 8)).reverse
      if tail.length = 4 ∧ beNat tail = adler32 out.reverse then some out.reverse else none

/-! ### PNG -/

/-- Chunks after the signature up to IEND: type and content, each with a good CRC. -/
def pngChunks : Nat → List Byte → Option (List (Nat × List Byte))
  | 0, _ => none
  | f + 1, bs =>
    let n := beAt bs 0 4
    let body := (bs.drop 8).take n
    if bs.length < 12 + n ∨ crc32 ((bs.drop 4).take (4 + n)) ≠ beAt bs (8 + n) 4 then none
    else if beAt bs 4 4 = 0x49454E44 then some []
    else (pngChunks f (bs.drop (12 + n))).map fun r => (beAt bs 4 4, body) :: r

/-- The chunks stand in order: IHDR first and once, IDAT without a gap, none that is critical and unknown. -/
def pngOrder (cs : List (Nat × List Byte)) : Bool :=
  let types := cs.map (·.1)
  let idat := 0x49444154
  types.headD 0 == 0x49484452 && !(types.drop 1).contains 0x49484452 &&
    ((types.dropWhile (· != idat)).dropWhile (· == idat)).all (· != idat) && types.contains idat &&
    types.all fun t => decide (1 ≤ t / 2 ^ 29 % 2) || t == 0x49484452 || t == 0x504C5445 || t == idat

/-- Paeth predictor. -/
def paeth (a b c : Nat) : Nat :=
  let pa := ((b : Int) - c).natAbs
  let pb := ((a : Int) - c).natAbs
  let pc := ((a : Int) + b - 2 * c).natAbs
  if pa ≤ pb ∧ pa ≤ pc then a else if pb ≤ pc then b else c

/-- A filtered row made good over the row before it; none for an unknown filter. -/
def pngRow (bpp filter : Nat) (prev row : List Nat) : Option (List Nat) :=
  if 4 < filter then none
  else
    let step (acc : List Nat) (e : Nat × Nat × Nat) : List Nat :=
      let a := acc.getD (bpp - 1) 0
      let p := if filter = 0 then 0 else if filter = 1 then a else if filter = 2 then e.2.1
        else if filter = 3 then (a + e.2.1) / 2 else paeth a e.2.1 e.2.2
      (e.1 + p) % 256 :: acc
    some ((row.zip (prev.zip (List.replicate bpp 0 ++ prev))).foldl step []).reverse

/-- The rows of an image of `stride` bytes a row; none where the bytes are not exactly `h` rows. -/
def pngRows (bpp stride : Nat) : Nat → List Nat → List Nat → Option (List (List Nat))
  | 0, _, bs => if bs.isEmpty then some [] else none
  | h + 1, prev, bs =>
    match bs with
    | [] => none
    | filter :: bs =>
      if bs.length < stride then none
      else (pngRow bpp filter prev (bs.take stride)).bind fun row => (pngRows bpp stride h row (bs.drop stride)).map (row :: ·)

/-- The samples of each channel. -/
def pngPlanes (m : MediaHdr) (rows : List (List Nat)) : List (List Nat) :=
  let n := m.bits / 8
  let xs := rows.flatten
  (List.range m.chans).map fun c => (List.range (m.e0 * m.e1)).map fun i =>
    let o := (i * m.chans + c) * n
    if n = 2 then 256 * xs.getD o 0 + xs.getD (o + 1) 0 else xs.getD o 0

def pngDecode (m : MediaHdr) (bs : List Byte) : Option (List (List Nat)) := do
  let cs ← pngChunks bs.length (bs.drop 8)
  if !pngOrder cs then none
  else
    let raw ← zlibBytes ((cs.filter fun c => c.1 == 0x49444154).flatMap (·.2))
    let bpp := m.chans * (m.bits / 8)
    let rows ← pngRows bpp (m.e0 * bpp) m.e1 (List.replicate (m.e0 * bpp) 0) (raw.map BitVec.toNat)
    return pngPlanes m rows

end Sys2Proof.Machine
end

