-- ==== Sys2Proof/Machine/Audio.lean ====
section
/-! DEFINITION. FLAC, and Opus in Ogg up to its packets (12 R333, R336, Table 12.5; RFC 9639, RFC 3533, RFC 7845, RFC 6716 section 3; log
12). -/

namespace Sys2Proof.Machine

/-! ### Checks -/

/-- A CRC of `n` bits over bytes, most significant bit first, initial value 0. -/
def crcBits (n poly : Nat) (bs : List Byte) : Nat :=
  (bitsDown bs).foldl (fun c b =>
    let top := c / 2 ^ (n - 1) % 2 != bit b
    (if top then (2 * c % 2 ^ n) ^^^ poly else 2 * c % 2 ^ n)) 0

/-- MD5 (RFC 1321): shifts of the four rounds, and the constants floor(2^32 × |sin(i + 1)|). -/
def md5Shift (i : Nat) : Nat := (([[7, 12, 17, 22], [5, 9, 14, 20], [4, 11, 16, 23], [6, 10, 15, 21]] : List (List Nat)).getD (i / 16) []).getD (i % 4) 0
def md5K : List W32 :=
  [0xD76AA478, 0xE8C7B756, 0x242070DB, 0xC1BDCEEE, 0xF57C0FAF, 0x4787C62A, 0xA8304613, 0xFD469501] ++
  [0x698098D8, 0x8B44F7AF, 0xFFFF5BB1, 0x895CD7BE, 0x6B901122, 0xFD987193, 0xA679438E, 0x49B40821] ++
  [0xF61E2562, 0xC040B340, 0x265E5A51, 0xE9B6C7AA, 0xD62F105D, 0x02441453, 0xD8A1E681, 0xE7D3FBC8] ++
  [0x21E1CDE6, 0xC33707D6, 0xF4D50D87, 0x455A14ED, 0xA9E3E905, 0xFCEFA3F8, 0x676F02D9, 0x8D2A4C8A] ++
  [0xFFFA3942, 0x8771F681, 0x6D9D6122, 0xFDE5380C, 0xA4BEEA44, 0x4BDECFA9, 0xF6BB4B60, 0xBEBFBC70] ++
  [0x289B7EC6, 0xEAA127FA, 0xD4EF3085, 0x04881D05, 0xD9D4D039, 0xE6DB99E5, 0x1FA27CF8, 0xC4AC5665] ++
  [0xF4292244, 0x432AFF97, 0xAB9423A7, 0xFC93A039, 0x655B59C3, 0x8F0CCC92, 0xFFEFF47D, 0x85845DD1] ++
  [0x6FA87E4F, 0xFE2CE6E0, 0xA3014314, 0x4E0811A1, 0xF7537E82, 0xBD3AF235, 0x2AD7D2BB, 0xEB86D391]

/-- The word of the block that step `i` takes, and the round's function. -/
def md5Word (i : Nat) : Nat := if i < 16 then i else if i < 32 then (5 * i + 1) % 16 else if i < 48 then (3 * i + 5) % 16 else 7 * i % 16
def md5F (i : Nat) (b c d : W32) : W32 :=
  if i < 16 then (b &&& c) ||| (~~~b &&& d) else if i < 32 then (d &&& b) ||| (~~~d &&& c) else if i < 48 then b ^^^ c ^^^ d else c ^^^ (b ||| ~~~d)

structure Md5 where
  a : W32
  b : W32
  c : W32
  d : W32
deriving DecidableEq, Repr

def Md5.step (ws : List W32) (x : Md5) (i : Nat) : Md5 :=
  let f := md5F i x.b x.c x.d + x.a + md5K.getD i 0 + ws.getD (md5Word i) 0
  { a := x.d, b := x.b + f.rotateLeft (md5Shift i), c := x.b, d := x.c }

def Md5.block (x : Md5) (bs : List Byte) : Md5 :=
  let y := (List.range 64).foldl (Md5.step ((chunks 4 16 bs).map fun w => BitVec.ofNat 32 (leNat w))) x
  { a := x.a + y.a, b := x.b + y.b, c := x.c + y.c, d := x.d + y.d }

def md5 (bs : List Byte) : List Byte :=
  let n := bs.length
  let padded := bs ++ [0x80] ++ List.replicate ((119 - n % 64) % 64) 0 ++ leBytes 8 (8 * n)
  let x := (chunks 64 padded.length padded).foldl Md5.block { a := 0x67452301, b := 0xEFCDAB89, c := 0x98BADCFE, d := 0x10325476 }
  leBytes 4 x.a.toNat ++ leBytes 4 x.b.toNat ++ leBytes 4 x.c.toNat ++ leBytes 4 x.d.toNat

/-! ### FLAC -/

/-- A signed number of `n` bits. -/
def rdSigned (n : Nat) : Rd Int := do
  let v ← rdDown n
  return if n = 0 then 0 else sext v n

/-- Zeros up to a one. -/
def rdUnary : Rd Nat := fun bs =>
  let n := (bs.takeWhile (!·)).length
  if n < bs.length then some (n, bs.drop (n + 1)) else none

/-- A Rice code: even and odd numbers stand for the two signs. -/
def rdRice (k : Nat) : Rd Int := do
  let q ← rdUnary
  let v := q * 2 ^ k + (← rdDown k)
  return if v % 2 = 0 then (v / 2 : Int) else - (v / 2 : Int) - 1

/-- Residual of a block of `n` samples behind `order` warm-up samples. -/
def rdResidual (n order : Nat) : Rd (List Int) := do
  let method ← rdDown 2
  let po ← rdDown 4
  let parts := 2 ^ po
  if 1 < method ∨ n % parts ≠ 0 ∨ n / parts < order then failure
  else
    let bits := 4 + method
    let rs ← (List.range parts).mapM fun i => do
      let m := n / parts - (if i = 0 then order else 0)
      let k ← rdDown bits
      if k = 2 ^ bits - 1 then
        let w ← rdDown 5
        rdTimes m (rdSigned w)
      else rdTimes m (rdRice k)
    return rs.flatten

/-- Samples of a predictor: coefficients for the latest sample first, a right shift, the samples so far with the last one first. -/
def predict (cs : List Int) (shift : Nat) : List Int → List Int → List Int
  | acc, [] => acc.reverse
  | acc, r :: rs => predict cs shift ((((cs.zipWith (· * ·) acc).foldl (· + ·) 0) >>> shift + r) :: acc) rs

def fixedCoefs : List (List Int) := [[], [1], [2, -1], [3, -3, 1], [4, -6, 4, -1]]

/-- A subframe of `n` samples of `bits` bits. -/
def rdSubframe (n bits : Nat) : Rd (List Int) := do
  let pad ← rdBit
  let type ← rdDown 6
  let wasted ← rdBit
  let waste ← if wasted = 1 then (do return (← rdUnary) + 1) else pure 0
  let w := bits - waste
  if pad = 1 ∨ bits ≤ waste then failure
  else
    let xs ←
      if type = 0 then (do return List.replicate n (← rdSigned w))
      else if type = 1 then rdTimes n (rdSigned w)
      else if 8 ≤ type ∧ type ≤ 12 then (do
        let warm ← rdTimes (type - 8) (rdSigned w)
        return predict (fixedCoefs.getD (type - 8) []) 0 warm.reverse (← rdResidual n (type - 8)))
      else if 32 ≤ type then (do
        let order := type - 31
        let warm ← rdTimes order (rdSigned w)
        let prec ← rdDown 4
        let shift ← rdSigned 5
        let cs ← rdTimes order (rdSigned (prec + 1))
        if prec = 15 ∨ shift < 0 then failure
        else return predict cs shift.toNat warm.reverse (← rdResidual n order))
      else failure
    if xs.length ≠ n then failure else return xs.map (· * 2 ^ waste)

/-- Stereo decorrelation. -/
def flacStereo (mode : Nat) (cs : List (List Int)) : List (List Int) :=
  match cs with
  | [a, b] =>
    if mode = 8 then [a, a.zipWith (· - ·) b]
    else if mode = 9 then [a.zipWith (· + ·) b, b]
    else if mode = 10 then
      let m : List Int := a.zipWith (fun m s => 2 * m + s % 2) b
      [m.zipWith (fun (m s : Int) => (m + s) >>> 1) b, m.zipWith (fun (m s : Int) => (m - s) >>> 1) b]
    else cs
  | _ => cs

/-- The coded number of a frame: as many leading ones as bytes, as in UTF-8. -/
def rdCoded : Rd Unit := do
  let b ← rdDown 8
  let ones := ((List.range 8).takeWhile fun i => b / 2 ^ (7 - i) % 2 = 1).length
  if ones = 1 ∨ ones = 8 then failure
  else
    let rest ← rdTimes (ones - 1) (rdDown 8)
    if rest.all fun x => x / 64 = 2 then return () else failure

/-- Samples in a block by its code; 6 and 7 read the length after the header. -/
def rdBlockSize (code : Nat) : Rd Nat := do
  if code = 6 then return (← rdDown 8) + 1
  else if code = 7 then return (← rdDown 16) + 1
  else if code = 0 then failure
  else if code = 1 then return 192
  else if code < 6 then return 576 * 2 ^ (code - 2)
  else return 256 * 2 ^ (code - 8)

/-- A frame: its channels. Both its checks must agree with the bytes `all`, with which the bits in hand begin. -/
def rdFrame (m : MediaHdr) (all : List Byte) : Rd (List (List Int)) := do
  let start ← get
  let sync ← rdDown 15
  let _ ← rdBit
  let size ← rdDown 4
  let rate ← rdDown 4
  let chan ← rdDown 4
  let depth ← rdDown 3
  let reserved ← rdBit
  rdCoded
  let n ← rdBlockSize size
  let _ ← rdDown (if rate = 12 then 8 else if rate = 13 ∨ rate = 14 then 16 else 0)
  let used ← get
  let head := (start.length - used.length) / 8
  let crc ← rdDown 8
  let channels := if chan < 8 then chan + 1 else 2
  if sync ≠ 0x7FFC ∨ reserved = 1 ∨ 10 < chan ∨ rate = 15 ∨ channels ≠ m.chans ∨ crc ≠ crcBits 8 0x07 (all.take head) ∨
      (depth ≠ 0 ∧ depth ≠ (if m.bits = 16 then 4 else 6)) then failure
  else
    let cs ← (List.range channels).mapM fun c =>
      rdSubframe n (m.bits + (if (chan = 9 ∧ c = 0) ∨ ((chan = 8 ∨ chan = 10) ∧ c = 1) then 1 else 0))
    rdAlign
    let used ← get
    let body := (start.length - used.length) / 8
    let crc ← rdDown 16
    if crc ≠ crcBits 16 0x8005 (all.take body) then failure else return flacStereo chan cs

/-- The frames to the end of the stream. -/
def flacFrames (m : MediaHdr) : Nat → List Byte → Option (List (List Int))
  | 0, _ => none
  | f + 1, bs =>
    if bs.isEmpty then some (List.replicate m.chans [])
    else
      match (rdFrame m bs).run (bitsDown bs) with
      | none => none
      | some (cs, rest) =>
        (flacFrames m f ((bs.reverse.take (rest.length / 8)).reverse)).map fun more => cs.zipWith (· ++ ·) more

/-- What follows the metadata blocks. -/
def flacBody : Nat → List Byte → Option (List Byte)
  | 0, _ => none
  | f + 1, bs =>
    let n := beAt bs 1 3
    if bs.length < 4 + n then none
    else if 128 ≤ byteAt bs 0 then some (bs.drop (4 + n)) else flacBody f (bs.drop (4 + n))

/-- Samples as the MD5 of STREAMINFO takes them: interleaved, little-endian, in whole bytes. -/
def flacRaw (m : MediaHdr) (cs : List (List Int)) : List Byte :=
  (List.range m.e0).flatMap fun i => cs.flatMap fun c => leBytes (ceilDiv m.bits 8) (wrapInt (c.getD i 0) (8 * ceilDiv m.bits 8))

def flacDecode (m : MediaHdr) (bs : List Byte) : Option (List (List Int)) := do
  let body ← flacBody bs.length (bs.drop 4)
  let cs ← flacFrames m (body.length + 1) body
  let sum := (bs.drop 26).take 16
  if cs.any (fun c => c.length ≠ m.e0) then none
  else if sum.all (· == 0) || md5 (flacRaw m cs) == sum then some cs else none

/-! ### Ogg and the packets of Opus -/

/-- Pages to the end, each with a good CRC: lacing values and content. -/
def oggPages : Nat → List Byte → Option (List (List Nat × List Byte))
  | 0, _ => none
  | f + 1, bs =>
    if bs.isEmpty then some []
    else
      let n := byteAt bs 26
      let lace := ((bs.drop 27).take n).map BitVec.toNat
      let len := 27 + n + lace.foldl (· + ·) 0
      let page := bs.take len
      if bs.length < len ∨ crcBits 32 0x04C11DB7 (page.take 22 ++ [0, 0, 0, 0] ++ page.drop 26) ≠ leAt page 22 4 then none
      else (oggPages f (bs.drop len)).map fun r => (lace, page.drop (27 + n)) :: r

/-- Packets: a lacing value of 255 goes on. None where the last one is not whole. -/
def oggPackets : List Nat → List Byte → List Byte → Option (List (List Byte))
  | [], cur, _ => if cur.isEmpty then some [] else none
  | n :: ns, cur, bs =>
    let cur := cur ++ bs.take n
    if n = 255 then oggPackets ns cur (bs.drop n) else (oggPackets ns [] (bs.drop n)).map (cur :: ·)

/-- Samples at 48 kHz of a frame of a packet, by its TOC byte. -/
def opusFrameLen (toc : Nat) : Nat :=
  let c := toc / 8
  if c < 12 then 480 * (([1, 2, 4, 6] : List Nat).getD (c % 4) 1) else if c < 16 then 480 * 2 ^ (c % 2) else 120 * 2 ^ (c % 4)

/-- A length of one or two bytes: the length and how many bytes it takes. -/
def opusLen (bs : List Byte) : Option (Nat × Nat) :=
  match bs with
  | [] => none
  | a :: r => if a.toNat < 252 then some (a.toNat, 1) else r.head?.map fun b => (4 * b.toNat + a.toNat, 2)

/-- Lengths of the frames of a packet of variable frames but for the last. -/
def opusLens : Nat → List Byte → Option (List Nat × List Byte)
  | 0, bs => some ([], bs)
  | n + 1, bs => (opusLen bs).bind fun l => (opusLens n (bs.drop l.2)).map fun r => (l.1 :: r.1, r.2)

/-- Bytes of padding of a packet: each byte of 255 stands for 254 and another. -/
def opusPad : List Byte → Option (Nat × List Byte)
  | [] => none
  | a :: r => if a = 0xFF then (opusPad r).map fun z => (254 + z.1, z.2) else some (a.toNat, r)

/-- A packet is well formed (RFC 6716 section 3.4). -/
def opusPacketOk (bs : List Byte) : Bool :=
  let toc := byteAt bs 0
  let body := bs.drop 1
  let small (n : Nat) : Bool := decide (n ≤ 1275)
  if bs.isEmpty then false
  else if toc % 4 = 0 then small body.length
  else if toc % 4 = 1 then body.length % 2 == 0 && small (body.length / 2)
  else if toc % 4 = 2 then
    match opusLen body with
    | some l => decide (l.1 + l.2 ≤ body.length) && small l.1 && small (body.length - l.1 - l.2)
    | none => false
  else
    let b := byteAt body 0
    let m := b % 64
    let bs := body.drop 1
    match (if b / 64 % 2 = 1 then opusPad bs else some (0, bs)) with
    | none => false
    | some (pad, bs) =>
      !body.isEmpty && decide (0 < m) && decide (m * opusFrameLen toc ≤ 5760) && decide (pad ≤ bs.length) &&
        (let n := bs.length - pad
         if b / 128 = 0 then n % m == 0 && small (n / m)
         else match opusLens (m - 1) bs with
           | some (ls, rest) =>
             let used := bs.length - rest.length + ls.foldl (· + ·) 0
             decide (used ≤ n) && ls.all small && small (n - used)
           | none => false)

/-- The samples of an Opus file: its packets behind the two headers, decoded by the reference decoder, the pre-skip removed. -/
def opusDecode (m : MediaHdr) (bs : List Byte) : Option (List (List Int)) := do
  let pages ← oggPages (bs.length + 1) bs
  let packets ← oggPackets (pages.flatMap (·.1)) [] (pages.flatMap (·.2))
  let audio := packets.drop 2
  if packets.length < 2 ∨ !audio.all opusPacketOk then none
  else
    let cs ← Config.opusSamples m.chans audio
    return cs.map fun c => (c.drop (leAt (packets.headD []) 10 2)).take m.e0

end Sys2Proof.Machine
end

