-- ==== Sys2Proof/Machine/Numerics.lean ====
section
/-! DEFINITION. Number formats, rounding and conversion (04 R110 to R126) and the vector step functions (03 R101).
Every result is computed exactly on integers and rounded once. -/

namespace Sys2Proof.Machine

/-- A decoded number: `fin neg m e` is `±m · 2^e`, with `m = 0` a signed zero. -/
inductive Val where
  | nan
  | inf (neg : Bool)
  | fin (neg : Bool) (m : Nat) (e : Int)
deriving DecidableEq, Repr

/-- How the codes at the top of a floating-point format are used (04 Table 4.1). -/
inductive Top where
  | none      -- no infinity and no NaN: every code is finite
  | e4m3      -- NaN at all ones only
  | ieee      -- infinities and NaNs as IEEE 754
deriving DecidableEq, Repr

/-- Layout of a floating-point format (04 Table 4.1). -/
structure FloatFmt where
  ebits : Nat
  mbits : Nat
  bias : Nat
  top : Top
deriving DecidableEq, Repr

def fp4e2m1 : FloatFmt := { ebits := 2, mbits := 1, bias := 1, top := .none }
def fp6e2m3 : FloatFmt := { ebits := 2, mbits := 3, bias := 1, top := .none }
def fp6e3m2 : FloatFmt := { ebits := 3, mbits := 2, bias := 3, top := .none }
def fp8e4m3 : FloatFmt := { ebits := 4, mbits := 3, bias := 7, top := .e4m3 }
def fp8e5m2 : FloatFmt := { ebits := 5, mbits := 2, bias := 15, top := .ieee }
def bf16 : FloatFmt := { ebits := 8, mbits := 7, bias := 127, top := .ieee }
def fp16 : FloatFmt := { ebits := 5, mbits := 10, bias := 15, top := .ieee }
def fp32 : FloatFmt := { ebits := 8, mbits := 23, bias := 127, top := .ieee }
def fp64 : FloatFmt := { ebits := 11, mbits := 52, bias := 1023, top := .ieee }

/-- Exponent of the least significant bit of a subnormal. -/
def FloatFmt.qmin (f : FloatFmt) : Int := 1 - (f.bias : Int) - f.mbits

/-- The largest finite code, sign excluded. -/
def FloatFmt.maxCode (f : FloatFmt) : Nat :=
  match f.top with
  | .none => 2 ^ (f.ebits + f.mbits) - 1
  | .e4m3 => 2 ^ (f.ebits + f.mbits) - 2
  | .ieee => (2 ^ f.ebits - 1) * 2 ^ f.mbits - 1

/-- The value of a code (04 R110). -/
def FloatFmt.decode (f : FloatFmt) (c : Nat) : Val :=
  let neg := fld c (f.ebits + f.mbits) 1 == 1
  let mag := fld c 0 (f.ebits + f.mbits)
  let ef := mag / 2 ^ f.mbits
  let mf := mag % 2 ^ f.mbits
  if f.maxCode < mag then
    (if f.top = .ieee ∧ mf = 0 then .inf neg else .nan)
  else if ef = 0 then .fin neg mf f.qmin
  else .fin neg (mf + 2 ^ f.mbits) (f.qmin + ef - 1)

/-- Round `m · 2^e` to nearest-even at exponent `q`: the integer significand. -/
def rneAt (m : Nat) (e q : Int) : Nat :=
  if q ≤ e then m * 2 ^ (e - q).toNat
  else
    let d := 2 ^ (q - e).toNat
    let r := m % d
    let t := m / d
    if 2 * r < d then t else if d < 2 * r then t + 1 else t + t % 2

/-- Number of bits of a positive number. -/
def bitLen (m : Nat) : Nat := if m = 0 then 0 else Nat.log2 m + 1

/-- The exponent of the grid of precision `p` on which `m · 2^e` lies, no finer than `qmin`. -/
def gridAt (p : Nat) (qmin : Int) (m : Nat) (e : Int) : Int := max (e + bitLen m - p) qmin

/-- Magnitude code of `m · 2^e` rounded once to nearest-even with `p` significant bits on format `f`'s grid; not
limited above. -/
def FloatFmt.magP (f : FloatFmt) (p m : Nat) (e : Int) : Nat :=
  let q := gridAt p f.qmin m e
  let t := rneAt m e q
  -- bring the significand to the format's own width
  let q' := gridAt (f.mbits + 1) f.qmin t q
  (q' - f.qmin).toNat * 2 ^ f.mbits + rneAt t q q'

/-- Magnitude code rounded once on the format's own grid. -/
def FloatFmt.mag (f : FloatFmt) (m : Nat) (e : Int) : Nat := f.magP (f.mbits + 1) m e

/-- A code with its sign bit. -/
def FloatFmt.code (f : FloatFmt) (neg : Bool) (mag : Nat) : Nat :=
  if neg then 2 ^ (f.ebits + f.mbits) + mag else mag

/-- The infinity's magnitude code of an IEEE format. -/
def FloatFmt.infMag (f : FloatFmt) : Nat := (2 ^ f.ebits - 1) * 2 ^ f.mbits

/-- The canonical quiet NaN (04 R114). -/
def FloatFmt.canonNan (f : FloatFmt) : Nat := f.infMag + 2 ^ (f.mbits - 1)

/-- Encode with IEEE 754 overflow to infinity, `p` significant bits (binary32 and binary64 arithmetic). -/
def FloatFmt.encodeP (f : FloatFmt) (p : Nat) : Val → Nat
  | .nan => f.canonNan
  | .inf neg => f.code neg f.infMag
  | .fin neg m e => f.code neg (if m = 0 then 0 else min (f.magP p m e) f.infMag)

/-- Encode with IEEE 754 overflow to infinity. -/
def FloatFmt.encode (f : FloatFmt) (v : Val) : Nat := f.encodeP (f.mbits + 1) v

def Val.neg : Val → Val
  | .nan => .nan
  | .inf n => .inf (!n)
  | .fin n m e => .fin (!n) m e

def Val.abs : Val → Val
  | .nan => .nan
  | .inf _ => .inf false
  | .fin _ m e => .fin false m e

/-- A signed significand aligned to exponent `q ≤ e`. -/
def alignTo (neg : Bool) (m : Nat) (e q : Int) : Int :=
  let x : Int := (m * 2 ^ (e - q).toNat : Nat)
  if neg then -x else x

/-- Exact sum; `x + (-x)` is +0 and `(-0) + (-0)` is −0 (04 R114). -/
def Val.add : Val → Val → Val
  | .nan, _ => .nan
  | _, .nan => .nan
  | .inf a, .inf b => if a = b then .inf a else .nan
  | .inf a, _ => .inf a
  | _, .inf b => .inf b
  | .fin a m e, .fin b n g =>
    if m = 0 ∧ n = 0 then .fin (a && b) 0 0
    else
      let q := min e g
      let x := alignTo a m e q + alignTo b n g q
      .fin (decide (x < 0)) x.natAbs q

/-- Exact product. -/
def Val.mul : Val → Val → Val
  | .nan, _ => .nan
  | _, .nan => .nan
  | .inf a, .inf b => .inf (a != b)
  | .inf a, .fin b n _ => if n = 0 then .nan else .inf (a != b)
  | .fin a m _, .inf b => if m = 0 then .nan else .inf (a != b)
  | .fin a m e, .fin b n g => .fin (a != b) (m * n) (e + g)

/-- Multiply by a power of two, exactly. -/
def Val.scale (k : Int) : Val → Val
  | .nan => .nan
  | .inf a => .inf a
  | .fin a m e => .fin a m (e + k)

/-- `a < b`, for numbers; −0 equals +0. False with a NaN. -/
def Val.lt : Val → Val → Bool
  | .nan, _ => false
  | _, .nan => false
  | .inf a, .inf b => a && !b
  | .inf a, .fin _ _ _ => a
  | .fin _ _ _, .inf b => !b
  | .fin a m e, .fin b n g =>
    let q := min e g
    decide (alignTo a m e q < alignTo b n g q)

def Val.isNan : Val → Bool
  | .nan => true
  | _ => false

def Val.isFinite : Val → Bool
  | .fin _ _ _ => true
  | _ => false

/-- `a = b`, for numbers; −0 equals +0. False with a NaN. -/
def Val.eqv (a b : Val) : Bool := !a.isNan && !b.isNan && !a.lt b && !b.lt a

/-- The value of a binary32 word. -/
def f32 (w : W32) : Val := fp32.decode w.toNat
/-- A value rounded once to nearest-even into binary32; a NaN is 0x7FC0_0000 (03 R100). -/
def toF32 (v : Val) : W32 := BitVec.ofNat 32 (fp32.encode v)
/-- The value of a binary64 word. -/
def f64 (w : W64) : Val := fp64.decode w.toNat
/-- A value rounded once into binary64; a NaN is 0x7FF8_0000_0000_0000 (04 R114). -/
def toF64 (v : Val) : W64 := BitVec.ofNat 64 (fp64.encode v)

def fadd (a b : W32) : W32 := toF32 ((f32 a).add (f32 b))
def fsub (a b : W32) : W32 := toF32 ((f32 a).add (f32 b).neg)
def fmul (a b : W32) : W32 := toF32 ((f32 a).mul (f32 b))
/-- `a · b + c`, rounded once (03 R100). -/
def ffma (a b c : W32) : W32 := toF32 (((f32 a).mul (f32 b)).add (f32 c))

def signBit (a : W32) : Bool := a.msb
/-- Sign kept, NaN made canonical. -/
def canon (a : W32) : W32 := if (f32 a).isNan then 0x7FC00000#32 else a

/-- 03 Table 3.11 FMAX: NaN if either is NaN; +0 above −0. -/
def fmax (a b : W32) : W32 :=
  let x := f32 a
  let y := f32 b
  if x.isNan || y.isNan then 0x7FC00000#32
  else if x.lt y then b else if y.lt x then a
  else if signBit a then b else a

/-- 03 Table 3.11 FMIN: NaN if either is NaN; −0 below +0. -/
def fmin (a b : W32) : W32 :=
  let x := f32 a
  let y := f32 b
  if x.isNan || y.isNan then 0x7FC00000#32
  else if x.lt y then a else if y.lt x then b
  else if signBit a then a else b

/-- A magnitude with one further bit set when anything was dropped below it: rounding it is rounding the exact value. -/
def sticky (t : Nat) (dropped : Bool) : Nat := 2 * t + (if dropped then 1 else 0)

/-- 12 significant bits, to nearest-even, on the coarser of the two grids of 03 R101. -/
def step12 (v : Val) : W32 := BitVec.ofNat 32 (fp32.encodeP 12 v)

/-- RCP0, 1/a (03 R101). -/
def rcp0 (a : W32) : W32 :=
  match f32 a with
  | .nan => 0x7FC00000#32
  | .inf n => step12 (.fin n 0 0)
  | .fin n 0 _ => step12 (.inf n)
  | .fin n m e =>
    let k : Nat := 80
    step12 (.fin n (sticky (2 ^ k / m) (2 ^ k % m != 0)) (-e - k - 1))

/-- RSQ0, 1/√a (03 R101). -/
def rsq0 (a : W32) : W32 :=
  match f32 a with
  | .nan => 0x7FC00000#32
  | .inf n => if n then 0x7FC00000#32 else 0#32
  | .fin n 0 _ => step12 (.inf n)
  | .fin true _ _ => 0x7FC00000#32
  | .fin false m e =>
    -- make the exponent even: a = m' · 2^(2h)
    let odd := e % 2 != 0
    let m' := if odd then 2 * m else m
    let h : Int := (if odd then e - 1 else e) / 2
    let k : Nat := 64
    let t := isqrt (k + 1) (2 ^ (2 * k) / m')
    step12 (.fin false (sticky t (t * t * m' != 2 ^ (2 * k))) (-h - k - 1))

/-- `2^(2^-i)` for `i = 1, 2, …` in units of `2^-128`, each the square root of the one before (DEDUCED, log 13). -/
def expRoots : Nat → Nat → List Nat
  | 0, _ => []
  | n + 1, c => let r := isqrt 129 (c * 2 ^ 128); r :: expRoots n r

/-- Multiply the roots selected by the bits of `f`, most significant first. -/
def expProd : List Nat → Nat → Nat → Nat → Nat
  | [], _, _, acc => acc
  | r :: rs, f, b, acc => expProd rs f (b - 1) (if fld f (b - 1) 1 = 1 then acc * r / 2 ^ 128 else acc)

/-- EXP0, 2^a (03 R101). A non-integral `a` gives an irrational result, which no rounding boundary equals. -/
def exp0 (a : W32) : W32 :=
  match f32 a with
  | .nan => 0x7FC00000#32
  | .inf n => if n then 0#32 else step12 (.inf false)
  | .fin _ 0 _ => 0x3F800000#32
  | .fin n m e =>
    if 8 ≤ e + bitLen m - 1 then (if n then 0#32 else step12 (.inf false))
    else
      -- |a| < 2^8: a in units of 2^-64 with what lies below
      let d := (-64 - e).toNat
      let xn : Nat := if -64 ≤ e then m * 2 ^ (e + 64).toNat else m / 2 ^ d
      let x : Int := xn
      let low := !decide (-64 ≤ e) && m % 2 ^ d != 0
      let y : Int := if n then (if low then -x - 1 else -x) else x
      let ip := y / 2 ^ 64
      let fp := (y % 2 ^ 64).toNat
      if fp = 0 ∧ !low then step12 (.fin false 1 ip)
      else
        let t := expProd (expRoots 64 (2 * 2 ^ 128)) fp 64 (2 ^ 128)
        step12 (.fin false (sticky t true) (ip - 129))

/-- Fraction bits of log₂ of `x / 2^255`, `1 ≤ x / 2^255 < 2`, by repeated squaring (DEDUCED, log 13). -/
def logBits : Nat → Nat → Nat → Nat
  | 0, _, acc => acc
  | n + 1, x, acc =>
    let y := x * x / 2 ^ 255
    if 2 ^ 256 ≤ y then logBits n (y / 2) (2 * acc + 1) else logBits n y (2 * acc)

/-- LOG0, log₂ a (03 R101). The result is irrational unless `a` is a power of two. -/
def log0 (a : W32) : W32 :=
  match f32 a with
  | .nan => 0x7FC00000#32
  | .inf n => if n then 0x7FC00000#32 else step12 (.inf false)
  | .fin _ 0 _ => step12 (.inf true)
  | .fin true _ _ => 0x7FC00000#32
  | .fin false m e =>
    let ip : Int := e + bitLen m - 1
    if m = 2 ^ (bitLen m - 1) then step12 (.fin (decide (ip < 0)) ip.natAbs 0)
    else
      let t := logBits 96 (m * 2 ^ (256 - bitLen m)) 0
      let s : Int := ip * 2 ^ 96 + t
      if 0 ≤ s then step12 (.fin false (sticky s.toNat true) (-97))
      else step12 (.fin true (sticky ((-s).toNat - 1) true) (-97))

/-- LDEXP: `a · 2^(b - 127)`, `b = 255` gives NaN (03 Table 3.11). -/
def ldexp (a b : W32) : W32 :=
  if b = 255#32 then 0x7FC00000#32 else toF32 ((f32 a).scale (b.toInt - 127))

/-- Integer nearest to a value, ties to even. -/
def rneInt (neg : Bool) (m : Nat) (e : Int) : Int :=
  let t : Int := (rneAt m e 0 : Nat)
  if neg then -t else t

/-- Clamp an integer. -/
def clampInt (lo hi x : Int) : Int := if x < lo then lo else if hi < x then hi else x

/-- CVTI: nearest-even, saturating; NaN gives 0. -/
def cvti (a : W32) : W32 :=
  match f32 a with
  | .nan => 0#32
  | .inf n => if n then 0x80000000#32 else 0x7FFFFFFF#32
  | .fin n m e => BitVec.ofInt 32 (clampInt (-(2 ^ 31)) (2 ^ 31 - 1) (rneInt n m e))

/-- CVTF: INT32 to FP32. -/
def cvtf (a : W32) : W32 := toF32 (.fin (decide (a.toInt < 0)) a.toInt.natAbs 0)

/-- SRND16 (04 R124). -/
def srnd16 (a b : W32) : W32 :=
  match f32 a with
  | .nan => 0x7FC00000#32
  | .inf _ => a
  | .fin n m e =>
    if m = 0 then a
    else if (Val.fin false 65504 0).lt (.fin false m e) then a
    else
      let q := gridAt 11 fp16.qmin m e
      if q ≤ e then a
      else
        let d := 2 ^ (q - e).toNat
        let t := m / d
        let r := m % d
        let u := bfld b 8 24
        if r = 0 then a
        else
          -- lo < a < hi: of a negative value lo is the larger magnitude
          let up := if n then !decide (u * d < (d - r) * 2 ^ 24) else decide (u * d < r * 2 ^ 24)
          toF32 (.fin n (if up then t + 1 else t) q)

/-- Element format codes (03 Table 3.4): the floating-point ones. -/
def floatFmt : Nat → Option FloatFmt
  | 0 => some fp4e2m1
  | 1 => some fp6e2m3
  | 2 => some fp6e3m2
  | 3 => some fp8e4m3
  | 4 => some fp8e5m2
  | 7 => some bf16
  | 8 => some fp16
  | 9 => some fp32
  | _ => none

/-- Stored width of an element in bits in the pocket (03 R77): FP6 takes a byte. -/
def pocketBits : Nat → Nat
  | 0 => 4
  | 5 => 4
  | 1 => 8
  | 2 => 8
  | 3 => 8
  | 4 => 8
  | 6 => 8
  | 11 => 8
  | 7 => 16
  | 8 => 16
  | 12 => 16
  | _ => 32

/-- Formats that take a block scale (04 Table 4.3). -/
def takesScale (fmt : Nat) : Bool := fmt ≤ 6

/-- Formats for which the block scale is required (04 Table 4.3). -/
def needsScale (fmt : Nat) : Bool := fmt ≤ 2

/-- The four counts of a write (04 R128). -/
structure Counts where
  written : Nat
  overflowed : Nat
  vanished : Nat
  nonfinite : Nat
deriving DecidableEq, Repr

def Counts.zero : Counts := { written := 0, overflowed := 0, vanished := 0, nonfinite := 0 }

def Counts.add (a b : Counts) : Counts :=
  { written := a.written + b.written, overflowed := a.overflowed + b.overflowed,
    vanished := a.vanished + b.vanished, nonfinite := a.nonfinite + b.nonfinite }

/-- A converted element: its code and what Table 4.4 counts. -/
structure Conv where
  code : Nat
  cnt : Counts
deriving DecidableEq, Repr

def Conv.mk1 (code : Nat) (ovf van nonf : Bool) : Conv :=
  { code := code
    cnt := { written := 1, overflowed := ovf.toNat, vanished := van.toNat, nonfinite := nonf.toNat } }

/-- Integer targets: nearest-even within `[lo, hi]`, as a `w`-bit code. -/
def convInt (w : Nat) (lo hi : Int) (onNan : Nat) (onInf : Bool → Nat) : Val → Conv
  | .nan => Conv.mk1 onNan false false true
  | .inf n => Conv.mk1 (onInf n) false false true
  | .fin n m e =>
    let x := rneInt n m e
    let y := clampInt lo hi x
    Conv.mk1 (wrapInt y w) (decide (x ≠ y)) (decide (m ≠ 0 ∧ x = 0)) false

/-- One element converted on write, by target format code (04 R118, Table 4.4). `v` is the lane's value after any
block scale; a scaled integer element is `v · 2^2` or `v · 2^6` (R111). -/
def convert (fmt : Nat) (blk : Bool) (lane : W32) (v : Val) : Conv :=
  match fmt with
  | 5 => if blk then convInt 4 (-7) 7 0 (fun _ => 0) (v.scale 2)
         else convInt 4 (-8) 7 0 (fun n => if n then 8 else 7) v
  | 6 => if blk then convInt 8 (-127) 127 0 (fun _ => 0) (v.scale 6)
         else convInt 8 (-128) 127 0 (fun n => if n then 128 else 127) v
  | 12 => convInt 16 (-32767) 32767 0x8000 (fun _ => 0x8000) v
  | 13 => convInt 32 (-2147483647) 2147483647 0x80000000 (fun _ => 0x80000000) v
  | 10 => Conv.mk1 lane.toNat false false false
  | 11 => Conv.mk1 (lane.toNat % 256) false false false
  | 9 => match v with
    | .nan => Conv.mk1 0x7FC00000 false false true
    | .inf _ => Conv.mk1 lane.toNat false false true
    | .fin _ _ _ => Conv.mk1 lane.toNat false false false
  | k => match floatFmt k with
    | none => Conv.mk1 0 false false false
    | some f => match v with
      | .nan => Conv.mk1 (if k = 3 then 0x7F else if k = 4 then 0x7E else if k = 7 then 0x7FC0
                  else if k = 8 then 0x7E00 else 0) false false true
      | .inf n => Conv.mk1 (if k = 3 then 0x7F else if f.top = .ieee then f.code n f.infMag else 0) false false true
      | .fin n m e =>
        let c := if m = 0 then 0 else f.mag m e
        Conv.mk1 (f.code n (min c f.maxCode)) (decide (f.maxCode < c)) (decide (m ≠ 0 ∧ c = 0)) false

/-- 04 Table 4.5: `emax` and `mmax` as a fraction `n / 64`. -/
def scaleConst : Nat → Int × Nat
  | 0 => (2, 96)
  | 1 => (2, 120)
  | 2 => (4, 112)
  | 3 => (8, 112)
  | 4 => (15, 112)
  | 5 => (0, 112)
  | _ => (0, 127)

/-- Magnitude comparison key: the larger of two finite magnitudes. -/
def maxMag : List Val → Nat × Int
  | [] => (0, 0)
  | .fin _ m e :: vs =>
    let r := maxMag vs
    if (Val.fin false r.1 r.2).lt (.fin false m e) then (m, e) else r
  | _ :: vs => maxMag vs

/-- The block's scale code (04 R119). -/
def chooseScale (fmt : Nat) (vs : List Val) : Nat :=
  let a := maxMag vs
  if a.1 = 0 then 127
  else
    let e : Int := a.2 + bitLen a.1 - 1
    let x := e - (scaleConst fmt).1
    -- f = m / 2^(len-1) above n / 64
    let y := if (scaleConst fmt).2 * 2 ^ (bitLen a.1 - 1) < 64 * a.1 then x + 1 else x
    (clampInt 0 254 (y + 127)).toNat

/-- A block converted with its scale (04 R118, R119): scale code, element codes, counts. -/
def convBlock (fmt : Nat) (lanes : List W32) : Nat × List Conv :=
  let vs := lanes.map f32
  let bad := (needsScale fmt || decide (fmt = 5) || decide (fmt = 6)) && vs.any fun v => !v.isFinite
  if bad then (0xFF, lanes.map fun _ => Conv.mk1 0 false false true)
  else
    let c := chooseScale fmt vs
    (c, lanes.map fun l => convert fmt true l ((f32 l).scale (127 - (c : Int))))

/-- An element's value in the array, without its block scale (04 R111, R115): a scaled integer carries its fixed
implicit factor, an unscaled one does not. -/
def elemVal (fmt : Nat) (scaled : Bool) (c : Nat) : Val :=
  match fmt with
  | 5 => let x := sext c 4
         .fin (decide (x < 0)) x.natAbs (if scaled then -2 else 0)
  | 6 => let x := sext c 8
         .fin (decide (x < 0)) x.natAbs (if scaled then -6 else 0)
  | k => match floatFmt k with
    | some f => f.decode c
    | none => .fin false 0 0

/-- An element loaded by VLD, exactly, into a lane (03 R98). -/
def loadLane (fmt c : Nat) : W32 :=
  match fmt with
  | 5 => BitVec.ofInt 32 (sext c 4)
  | 6 => BitVec.ofInt 32 (sext c 8)
  | 10 => BitVec.ofNat 32 c
  | 11 => BitVec.ofNat 32 c
  | 12 => BitVec.ofInt 32 (sext c 16)
  | 13 => BitVec.ofNat 32 c
  | 9 => BitVec.ofNat 32 c
  | k => match floatFmt k with
    | some f => toF32 (f.decode c)
    | none => 0#32

/-- Largest scale code that is a number; 0xFF makes the block NaN (04 R113). -/
def scaleNan (c : Nat) : Bool := c == 255

/-- A cell's block partial over the in-range products of its group (04 R113). `none` stands for a group wholly beyond
the K length. -/
def blockPartial (ea eb : Option Nat) (ps : List (Val × Val)) : W32 :=
  if ps.isEmpty then 0#32
  else if ea = some 255 || eb = some 255 then 0x7FC00000#32
  else
    let prods := ps.map fun p => p.1.mul p.2
    if ps.any (fun p => p.1.isNan || p.2.isNan) || prods.any Val.isNan ||
        (prods.contains (.inf true) && prods.contains (.inf false)) then 0x7FC00000#32
    else if prods.contains (.inf true) then 0xFF800000#32
    else if prods.contains (.inf false) then 0x7F800000#32
    else
      match prods.foldl Val.add (.fin false 0 0) with
      | .fin _ 0 _ => 0#32
      | v =>
        let k : Int := (match ea with | some x => (x : Int) - 127 | none => 0) +
                       (match eb with | some x => (x : Int) - 127 | none => 0)
        toF32 (v.scale k)

end Sys2Proof.Machine
end

