-- ==== Sys2Proof/Machine/Ops.lean ====
section
/-! DEFINITION. The named operations over State that every meaning uses: raising a fault with its
class's effect (14 R385 to R387, R402; 16 R444; 03 R108), address checks (01 R29), tile-store and pocket access. -/

namespace Sys2Proof.Machine

/-! ### Raising a fault -/

/-- Class of a fault code (14 Table 14.1; the tables 16 R453 names). -/
def faultClass (code : Nat) : Nat :=
  if code ∈ [0x0005, 0x0210, 0x040B, 0x0907] then 3
  else if code ∈ [0x0002, 0x0131, 0x0508, 0x0509, 0x0804] then 2
  else if code ∈ [0x0120, 0x0132, 0x0201, 0x0202, 0x0203, 0x0204, 0x0205, 0x0206, 0x0207, 0x0208, 0x0211, 0x0301, 0x0304,
    0x0311, 0x0502, 0x0503, 0x0504, 0x090A, 0x090B] then 1
  else 0

/-- Doldrums cause that a domain-halting code names (01 Table 1.6). -/
def faultCause (code : Nat) : Nat :=
  match code with
  | 0x0002 => 5
  | 0x0405 => 3
  | 0x0508 => 4
  | 0x0804 => 6
  | _ => 1

/-- What a rule gives of a fault it raises. `cls` overrides the code's class where the code has two. -/
structure FaultArg where
  code : Nat
  plan : Option Nat := none
  unitk : Nat := 0
  unit : Nat := 0
  d0 : W64 := 0
  d1 : W64 := 0
  d2 : W64 := 0
  d3 : W64 := 0
  cls : Option Nat := none
deriving DecidableEq, Repr

def FaultArg.class (a : FaultArg) : Nat := a.cls.getD (faultClass a.code)

/-- Keys of `FaultUnit.last` whose LAST_FAULT an individual record updates (16 Table 16.9). -/
def lastKeys (a : FaultArg) : List Nat :=
  let b := a.code / 256
  if b = 3 then (if a.unitk = 3 then [256 * b + a.unit] else [])
  else if b = 2 then (if a.unitk = 1 ∨ a.unitk = 2 ∨ a.unitk = 8 then [256 * b + a.unit] else [])
  else if b = 6 then [256 * b + a.unit]
  else if b = 4 then
    (if a.unitk = 4 then [256 * b + a.unit] else if a.unitk = 5 then [256 * b + a.unit / 16]
     else (List.range 6).map (256 * b + ·))
  else if b = 5 then [256 * b + a.plan.getD 0]
  else [256 * b]

/-- Every collector has acknowledged record `n` (14 R402). -/
def FaultUnit.acked (f : FaultUnit) (n : Nat) : Bool := f.collectors.all fun c => decide (n < c.cum)

/-- Add one record and report it to every collector (14 R387, R402). The newest 65,536 are kept. -/
def FaultUnit.push (f : FaultUnit) (r : FaultRec) : FaultUnit :=
  let full := decide (65536 ≤ f.recs.length)
  let lost := full && !f.acked (f.next - 65536)
  { f with
    next := f.next + 1
    recs := { r with num := f.next } :: f.recs.take 65535
    rptDrop := if lost then satInc f.rptDrop else f.rptDrop
    reports := if f.mgmtUp then f.reports ++ (List.range f.collectors.length).map fun c =>
        { collector := c, seq := f.next, resend := false } else f.reports }

/-- Count a fault by class (14 R406). -/
def FaultUnit.count (f : FaultUnit) (cls : Nat) : FaultUnit :=
  match cls with
  | 0 => { f with corr := satInc f.corr }
  | 1 => { f with cont := satInc f.cont }
  | 2 => { f with halt := satInc f.halt }
  | _ => f

/-- An individual record's effect on LAST_FAULT, LAST_SEVERE and SEVCLASS (16 R444). -/
def FaultUnit.mark (f : FaultUnit) (a : FaultArg) : FaultUnit :=
  let f := { f with last := (lastKeys a).foldl (fun m k => Sparse.set 0#16 m k (BitVec.ofNat 16 a.code)) f.last }
  if 1 ≤ a.class then { f with lastSevere := BitVec.ofNat 16 a.code, sevClass := BitVec.ofNat 2 a.class } else f

/-- Detail words that Table 14.3 gives by block, from the state in which the fault is detected. SIT_, RED_, ITG_ and TIL_
faults carry theirs. -/
def State.details (s : State) (a : FaultArg) : W64 × W64 :=
  match a.code / 256 with
  | 0 => (s.devState, 0)
  | 1 => (s.frmState, 0)
  | 4 => if a.unitk = 4 then (s.xwpState a.unit, (s.port a.unit).peerSerial)
         else if a.unitk = 5 then (s.xwpState (a.unit / 16), (s.port (a.unit / 16)).peerSerial) else (0, 0)
  | 6 => (a.d0, s.inkLane a.unit)
  | 7 => (s.hstState, 0)
  | 9 => (s.botState, 0)
  | 10 => (s.jrnStat, 0)
  | _ => (a.d0, a.d1)

/-- The record of a fault detected now. -/
def State.mkRec (s : State) (a : FaultArg) (sum : Bool) : FaultRec :=
  let d := s.details a
  { num := 0, code := a.code, frame := s.frm.frame, time := s.ptpNow, cls := a.class, rank := s.dom.rank, plan := a.plan,
    sum := sum, step := match a.plan with
      | some p => if 0x0101 ≤ a.code && a.code ≤ 0x0119 then 0 else (s.plan p).step
      | none => 0,
    unitk := a.unitk, unit := a.unit, d0 := d.1, d1 := d.2, d2 := a.d2, d3 := a.d3 }

/-- One occurrence of a fault: counted by class; the first 16 of a code in a frame make records, later ones are counted
for the summary (14 R387, R402). -/
def FaultUnit.occur (f : FaultUnit) (a : FaultArg) (r : FaultRec) : FaultUnit :=
  let n := Sparse.get 0 f.perFrame a.code
  let f := { f.count a.class with perFrame := Sparse.set 0 f.perFrame a.code (n + 1) }
  if n < 16 then (f.push r).mark a
  else
    let k := 65536 * r.frame.toNat + a.code
    { f with unsummed := Sparse.set 0 f.unsummed k (Sparse.get 0 f.unsummed k + 1) }

/-- Record a fault, without its class's further effect. REPORT_OVERFLOW is raised once per full episode (14 R402). -/
def State.raise (s : State) (a : FaultArg) : State :=
  let f := s.flt.occur a (s.mkRec a false)
  if f.rptDrop ≠ s.flt.rptDrop ∧ f.overflowed = false then
    let o : FaultArg := { code := 0x080A }
    { s with flt := { f with overflowed := true }.occur o (s.mkRec o false) }
  else { s with flt := f }

/-! ### Effects of the classes -/

/-- Every slot of the frame has completed. -/
def State.allDone (s : State) : Bool := s.frm.slots.all (·.done)

/-- In FINISH a rank reports completion to the leader, once every slot has completed (01 R40). -/
def State.reportDone (s : State) : State :=
  if s.frm.state = .finish ∧ s.allDone ∧ s.sends then
    if s.frm.leader = s.dom.rank then
      s.modFrm fun f => { f with completed := f.completed ||| BitVec.ofNat 64 (2 ^ s.dom.rank) }
    else s.send (.doneReport s.frm.frame)
  else s

/-- A core that a plan's stop ends: nothing of its program remains under way. -/
def Core.stopped (c : Core) : Core :=
  { c with active := false, ended := true, held := none, atStep := false, fenced := [], twin := [] }

/-- The cores of plan `p` stop. -/
def State.stopCores (s : State) (p : Nat) : State :=
  { s with cores := s.cores.map fun e => (e.1, if e.2.active && e.2.plan == p then e.2.stopped else e.2) }

/-- Steps 2 to 5 of 03 R108 on this rank: cores and movers of the plan stop, its running slots count as complete, its
token waits are released. -/
def State.stopPlan (s : State) (p : Nat) : State :=
  let unended := s.frm.slots.any fun r => r.entry.plan == p && !r.done
  let s := (s.modPlan p fun x => { x with stopped := true }).stopCores p
  let s := s.modFrm fun f => { f with slots := mapIf (fun r => r.entry.plan == p) (fun r => { r with done := true }) f.slots }
  if unended then s.reportDone else s

/-- A contained fault stops its plan at once and goes into the next vote (03 R108, 14 Table 14.1). -/
def State.contain (s : State) (p code : Nat) : State :=
  let s := s.stopPlan p
  let s := s.modPlan p fun x => { x with terminating := some (x.terminating.getD code) }
  { s with frm := { s.frm with faultsOut := s.frm.faultsOut ++ [{ plan := p, code := code }] } }

/-- A domain-halting fault goes into the next vote with its cause (14 R385). -/
def State.halting (s : State) (cause : Nat) : State :=
  { s with frm := { s.frm with causesOut := s.frm.causesOut ++ [cause] } }

/-- A device-fatal fault: every plan stops, crosswind sending stops, no further frames (14 Table 14.1). -/
def State.fatal (s : State) : State :=
  let s := { s with flt := { s.flt with fatal := true }, dom := { s.dom with splitStop := true } }
  (List.range 4).foldl State.stopPlan s

/-- Raise a fault and take its class's effect (14 R385). -/
def State.fault (s : State) (a : FaultArg) : State :=
  let s := s.raise a
  match a.class, a.plan with
  | 1, some p => s.contain p a.code
  | 2, _ => s.halting (faultCause a.code)
  | 3, _ => s.fatal
  | _, _ => s

/-! ### Addresses (01 R29, 02 R57, 09 R230) -/

/-- Where a device address lies. -/
inductive Place where
  | store (tile off : Nat)
  | site (site off : Nat)
  | badStore
  | badSite
deriving DecidableEq, Repr

def storeBase : Nat := 0xF00000000000

/-- Addressable bytes of a site by tier (09 R230). -/
def siteCap (tier : Nat) : Nat := if tier = 1 then 0x1E00000000 else if tier = 2 then 0x3C00000000 else 0

def place (tier : Nat → Nat) (a : Nat) : Place :=
  if storeBase ≤ a then
    let x := a - storeBase
    if x / 0x10000000 < 16 ∧ x % 0x10000000 < 0x8000000 then .store (x / 0x10000000) (x % 0x10000000) else .badStore
  else if a < 0x060000000000 then
    let i := a / 0x4000000000
    if a % 0x4000000000 < siteCap (tier i) then .site i (a % 0x4000000000) else .badSite
  else .badSite

def State.place (s : State) (a : Nat) : Place := Sys2Proof.Machine.place (fun i => (s.site i).tier) a

/-- The fault an access of plan `p` to device address `a` raises: range before region (01 R29). -/
def State.accessFault (s : State) (p a : Nat) : Option Nat :=
  match s.place a with
  | .badStore => some 0x0201
  | .badSite => some 0x0301
  | .store t _ => if ((s.img? p).map (·.hasTile t)).getD false then none else some 0x0120
  | .site i _ => if ((s.img? p).map (·.hasSite i)).getD false then none else some 0x0120

/-! ### Byte storage -/

def tileAddr (t off : Nat) : Nat := storeBase + t * 0x10000000 + off

/-- Numbers of the 32-byte words that the bytes `[a, a + n)` touch. -/
def wordsOf (a n : Nat) : List Nat := if n = 0 then [] else (List.range ((a + n - 1) / 32 - a / 32 + 1)).map (a / 32 + ·)

/-- Does any word of the range carry a mark? -/
def anyMark (m : Sparse Bool) (a n : Nat) : Bool := (wordsOf a n).any fun w => Sparse.get false m w

/-- Marks after a write of `[a, a + n)`: a poisoned write marks every word it touches; an unmarked write clears the words it
covers wholly (03 R107). -/
def putMark (m : Sparse Bool) (a n : Nat) (poison : Bool) : Sparse Bool :=
  (wordsOf a n).foldl (fun m w =>
    if poison then Sparse.set false m w true
    else if a ≤ 32 * w ∧ 32 * w + 32 ≤ a + n then Sparse.set false m w false else m) m

/-- Write bytes into a tile store with one mark for all of them. -/
def State.putStore (s : State) (a : Nat) (bs : List Byte) (poison : Bool) : State :=
  { s with store := Mem.put s.store a bs, storePoison := putMark s.storePoison a bs.length poison }

/-- Mark a whole line of a tile store (03 R107). -/
def State.poisonLine (s : State) (a : Nat) : State := { s with storePoison := putMark s.storePoison a 256 true }

/-- The 256 bytes of a vector, byte 0 first. -/
def lineBytes (d : BitVec 2048) : List Byte := (List.range 256).map fun i => d.extractLsb' (8 * i) 8
def lineOf (bs : List Byte) : BitVec 2048 := BitVec.ofNat 2048 (leNat bs)

/-! ### Cores and tokens -/

/-- Global core number (14 R388). -/
def coreKey (k : CoreId) : Nat := 5184 * k.tile.val + 72 * k.row.val + k.col.val
def keyTile (k : Nat) : Nat := k / 5184
def keyRow (k : Nat) : Nat := k % 5184 / 72
def keyCol (k : Nat) : Nat := k % 72
/-- Global logical row and column on the 288 × 288 grid (02 R51). -/
def globalRow (k : Nat) : Nat := 72 * (keyTile k / 4) + keyRow k
def globalCol (k : Nat) : Nat := 72 * (keyTile k % 4) + keyCol k
def keyAt (row col : Nat) : Nat := 5184 * (4 * (row / 72) + col / 72) + 72 * (row % 72) + col % 72

/-- Physical index of logical index `l` (02 R59). -/
def physIdx (retired : List Nat) (l : Nat) : Nat :=
  (((List.range 74).filter fun k => !retired.contains k).drop l).headD 74

/-- TIL_FAULT holds the first contained fault since VALID was cleared (03 R109), with the instruction's index. -/
def State.tilFaultAt (s : State) (k code pc : Nat) : State :=
  let c := s.core k
  s.modTile (keyTile k) fun t =>
    { t with
      cfault := satInc t.cfault
      fault := if t.fault.valid then t.fault
        else { pc := pc, lrow := keyRow k, lcol := keyCol k, plan := c.plan, valid := true, code := code } }

/-- The fault of the instruction at the core's pc. -/
def State.tilFault (s : State) (k code : Nat) : State := s.tilFaultAt k code (s.core k).pc

/-- A contained fault raised by core `k` at instruction `pc` (03 R108). -/
def State.coreFaultAt (s : State) (k code pc : Nat) : State :=
  let s := s.tilFaultAt k code pc
  let t := s.tile (keyTile k)
  s.fault { code := code, plan := some (s.core k).plan, unitk := 2, unit := keyTile k, d0 := t.fault.word,
            d1 := BitVec.ofNat 64 (physIdx t.rows (keyRow k) * 256 + physIdx t.cols (keyCol k)) }

/-- A contained fault raised by core `k` at the instruction it has reached. -/
def State.coreFault (s : State) (k code : Nat) : State := s.coreFaultAt k code (s.core k).pc

/-- SITE_RANGE of plan `p` at device address `a`: the record names the site in whose window the address lies, if any
(14 Table 14.3). -/
def State.siteRange (s : State) (p a : Nat) : State :=
  let i := a / 0x4000000000
  s.fault { code := 0x0301, plan := some p, unitk := if i < 24 then 3 else 0, unit := if i < 24 then i else 0,
            d0 := BitVec.ofNat 64 (a / 256 * 256), d1 := if i < 24 then s.sitState i else 0 }

/-- An address fault of plan `p` made by unit `unit` of kind `unitk` (01 R29). -/
def State.accessRaise (s : State) (p code a unitk unit : Nat) : State :=
  if code = 0x0301 then s.siteRange p a
  else s.fault { code := code, plan := some p, unitk := unitk, unit := unit,
                 d0 := if code = 0x0201 then (s.tile unit).fault.word else 0 }

/-- An address fault made by core `k`. -/
def State.coreAccess (s : State) (k code a : Nat) : State :=
  if code = 0x0301 then (s.tilFault k code).siteRange (s.core k).plan a else s.coreFault k code

/-- Add to token counter `tok` of tile `t`; none where it would pass 16,777,215 (03 R102). The increments applied enter
ledger equation 5 (14 R398). -/
def State.addToken (s : State) (p t tok inc : Nat) : Option State :=
  let v := Sparse.get 0#24 (s.tile t).tok tok
  if v.toNat + inc < 2 ^ 24 then
    let s := s.modTile t fun x => { x with tok := Sparse.set 0#24 x.tok tok (BitVec.ofNat 24 (v.toNat + inc)) }
    some (s.modPlan p fun x => { x with applied := x.applied + inc })
  else none

/-- Count increments issued toward this rank's counters (14 R398 equation 5). -/
def State.issueToken (s : State) (p inc : Nat) : State := s.modPlan p fun x => { x with issued := x.issued + inc }

/-- In the lull: the phases after the work window (01 Table 1.1). -/
def State.inLull (s : State) : Bool := s.frm.phase != .work

/-! ### Spare-map deltas (14 R397) -/

/-- Records the eMMC delta area holds. -/
def deltaMax : Nat := 1048576

/-- A spare-map delta of the present frame. -/
def State.mkDelta (s : State) (kind unit spare index cause : Nat) : Delta :=
  { kind := kind, unit := unit, frame := s.frm.frame.toNat, spare := spare, index := index, cause := cause, crcOk := true }

/-- Append a delta to the eMMC area; with the area full, DELTA_FULL is raised once and the record is lost. -/
def State.appendDelta (s : State) (d : Delta) : State :=
  if deltaMax ≤ s.emmc.deltaCount then
    (if s.itg.deltaFull then s
     else { s.fault { code := 0x0808 } with itg := { s.itg with deltaFull := true } })
  else { s with emmc := { s.emmc with deltas := s.emmc.deltas ++ [d], deltaCount := s.emmc.deltaCount + 1 } }

/-- The delta of a pending retirement has been written (14 R397). -/
def State.deltaDone (s : State) (kind t index : Nat) : Bool :=
  !s.itg.deltas.any fun d => d.kind == kind && d.unit == t && d.index == index

/-- Queue a delta for DELTA_RECORD_WRITE. -/
def State.queueDelta (s : State) (d : Delta) : State := { s with itg := { s.itg with deltas := s.itg.deltas ++ [d] } }

end Sys2Proof.Machine
end

