-- ==== Sys2Proof/Machine/Line.lean ====
section
/-! DEFINITION. A line of a memory site: outer code (09 R234), residue (R235), class (R236), the stages of a read (R237, R238), EDC and
holds (R249), row retirement candidates (R252). -/

namespace Sys2Proof.Machine

/-! ### GF(2^8), generator x^8 + x^4 + x^3 + x^2 + 1, α = 2 -/

def gfDouble (a : Nat) : Nat := if 128 ≤ a then (2 * a) ^^^ 0x11D else 2 * a

def gfMulAux : Nat → Nat → Nat → Nat → Nat
  | 0, _, _, acc => acc
  | n + 1, a, b, acc => gfMulAux n (gfDouble a) (b / 2) (if b % 2 = 1 then acc ^^^ a else acc)

def gfMul (a b : Nat) : Nat := gfMulAux 8 a b 0

/-- α to the power `n`. -/
def gfPow : Nat → Nat
  | 0 => 1
  | n + 1 => gfDouble (gfPow n)

def gfPowOf (a : Nat) : Nat → Nat
  | 0 => 1
  | n + 1 => gfMul a (gfPowOf a n)

/-- Inverse: `a^254`. -/
def gfInv (a : Nat) : Nat := gfPowOf a 254

/-- Generator polynomial `(x - α^0) … (x - α^5)`, coefficients of x^5 down to x^0 (monic). -/
def rsGen : List Nat :=
  ((List.range 6).foldl (fun p i =>
    let a := gfPow i
    (List.range (p.length + 1)).map fun j => (p.getD j 0) ^^^ (if j = 0 then 0 else gfMul a (p.getD (j - 1) 0))) [1]).tail

/-- Six check symbols of the data symbols, highest degree first (09 R234). -/
def rsEncode (data : List Nat) : List Nat :=
  data.foldl (fun r d =>
    let f := d ^^^ r.headD 0
    (r.tail ++ [0]).zipWith (fun x g => x ^^^ gfMul f g) rsGen) [0, 0, 0, 0, 0, 0]

/-- Syndromes of a codeword: its values at α^0 to α^5. -/
def rsSyndromes (cw : List Nat) : List Nat :=
  (List.range 6).map fun i => let a := gfPow i; cw.foldl (fun x c => gfMul x a ^^^ c) 0

/-- Value of a polynomial with the constant term first. -/
def gfEval (p : List Nat) (x : Nat) : Nat := p.foldr (fun c acc => c ^^^ gfMul acc x) 0

def gfAddPoly (p q : List Nat) : List Nat :=
  (List.range (max p.length q.length)).map fun i => p.getD i 0 ^^^ q.getD i 0

/-- One step of the shortest-register search over the syndromes: locator, previous locator, its discrepancy, length and
shift. -/
structure BmState where
  loc : List Nat
  prev : List Nat
  disc : Nat
  len : Nat
  shift : Nat

def bmStep (syn : List Nat) (b : BmState) (n : Nat) : BmState :=
  let d := (List.range (b.len + 1)).foldl (fun x i => x ^^^ gfMul (b.loc.getD i 0) (syn.getD (n - i) 0)) 0
  if d = 0 then { b with shift := b.shift + 1 }
  else
    let k := gfMul d (gfInv b.disc)
    let upd := gfAddPoly b.loc (List.replicate b.shift 0 ++ b.prev.map (gfMul k))
    if 2 * b.len ≤ n then { loc := upd, prev := b.loc, disc := d, len := n + 1 - b.len, shift := 1 }
    else { b with loc := upd, shift := b.shift + 1 }

/-- Decode a codeword of at most 134 symbols: the corrected word and the number of symbols corrected; none when it holds
more errors than three (09 R234, R237). -/
def rsDecode (cw : List Nat) : Option (List Nat × Nat) :=
  let syn := rsSyndromes cw
  if syn.all (· == 0) then some (cw, 0)
  else
    let b := (List.range 6).foldl (bmStep syn) { loc := [1], prev := [1], disc := 1, len := 0, shift := 1 }
    let n := cw.length
    -- degree of a position counted from the last symbol
    let degs := (List.range n).filter fun j => gfEval b.loc (gfInv (gfPow j)) == 0
    if 3 < b.len ∨ degs.length ≠ b.len then none
    else
      let omega := (List.range b.len).map fun i =>
        (List.range (i + 1)).foldl (fun x j => x ^^^ gfMul (syn.getD j 0) (b.loc.getD (i - j) 0)) 0
      let dloc := (List.range b.len).map fun i => if i % 2 = 0 then b.loc.getD (i + 1) 0 else 0
      let fixed := degs.foldl (fun w j =>
        let xi := gfInv (gfPow j)
        let e := gfMul (gfPow j) (gfMul (gfEval omega xi) (gfInv (gfEval dloc xi)))
        w.modify (n - 1 - j) (· ^^^ e)) cw
      if (rsSyndromes fixed).all (· == 0) then some (fixed, degs.length) else none

/-! ### Lines -/

/-- Data symbols of codeword `h` (0 even bytes, 1 odd bytes). -/
def halfOf (d : BitVec 2048) (h : Nat) : List Nat := (List.range 128).map fun i => bfld d (8 * (2 * i + h)) 8
def joinHalves (a b : List Nat) : BitVec 2048 :=
  BitVec.ofNat 2048 ((a.zip b).foldr (fun p x => p.1 + 256 * p.2 + 65536 * x) 0)
/-- Metadata bytes, first byte lowest (09 Table 9.5). -/
def symsOf (c : W48) : List Nat := (List.range 6).map fun i => bfld c (8 * i) 8
def packSyms (l : List Nat) : W48 := BitVec.ofNat 48 (l.foldr (fun x a => x + 256 * a) 0)

def resMod : Nat := 2 ^ 30 - 1

/-- Residue of a line (09 R235). -/
def residue (d : BitVec 2048) : Nat :=
  let x := (List.range 64).foldl (fun x i => x + sext (bfld d (32 * i) 32) 32) (0 : Int)
  (x % (resMod : Int)).toNat

def Line.cls (l : Line) : Nat := bfld l.tag 30 2
def Line.res (l : Line) : Nat := bfld l.tag 0 30

/-- A line as written: checks from the data, the class and the residue given. -/
def mkLine (d : BitVec 2048) (cls res : Nat) : Line :=
  { data := d, chk0 := packSyms (rsEncode (halfOf d 0)), chk1 := packSyms (rsEncode (halfOf d 1)),
    tag := BitVec.ofNat 32 (cls * 2 ^ 30 + res) }

/-- What stages 2 and 3 of a read give (09 R237, R238). -/
structure ReadOut where
  line : Line
  corrected : Bool
  poisoned : Bool
  invalid : Bool
  poison : Bool
deriving DecidableEq, Repr

/-- Outer code, tag and residue of a line as transferred. -/
def readLine (l : Line) (x : Xfer) : ReadOut :=
  let d := l.data ^^^ x.err
  let tag := l.tag ^^^ x.terr
  let c0 := halfOf d 0 ++ symsOf (l.chk0 ^^^ x.cerr0)
  let c1 := halfOf d 1 ++ symsOf (l.chk1 ^^^ x.cerr1)
  let r0 := rsDecode c0
  let r1 := rsDecode c1
  let d' := joinHalves ((r0.map (·.1)).getD c0 |>.take 128) ((r1.map (·.1)).getD c1 |>.take 128)
  let cls := bfld tag 30 2
  let res := bfld tag 0 30
  let bad := r0.isNone || r1.isNone || residue d' != res || res == 0x3FFFFFFF || cls == 3
  let n := (r0.map (·.2)).getD 0 + (r1.map (·.2)).getD 0
  if bad then
    { line := mkLine d' 2 (residue d'), corrected := decide (0 < n), poisoned := true, invalid := (cls == 3), poison := true }
  else
    if n = 0 then { line := { l with tag := tag }, corrected := false, poisoned := false, invalid := false, poison := cls == 2 }
    else { line := mkLine d' cls res, corrected := true, poisoned := false, invalid := false, poison := cls == 2 }

def Xfer.clean : Xfer := { edcFails := 0, err := 0, cerr0 := 0, cerr1 := 0, terr := 0 }

def Site.line (x : Site) (i : Nat) : Line := Sparse.get Line.zero x.lines i
def Site.putLine (x : Site) (i : Nat) (l : Line) : Site := { x with lines := Sparse.set Line.zero x.lines i l }

/-- Device address of a line of a site. -/
def siteAddr (i line : Nat) : Nat := i * 0x4000000000 + 256 * line
def siteLines (tier : Nat) : Nat := siteCap tier / 256

/-- A SIT_ fault with its detail words (14 Table 14.3). -/
def State.siteFault (s : State) (code i line : Nat) (plan : Option Nat) (cls : Option Nat) : State :=
  s.fault { code := code, plan := plan, unitk := 3, unit := i, d0 := BitVec.ofNat 64 (siteAddr i line),
            d1 := s.sitState i, cls := cls }

/-! ### EDC and holds (09 R237, R249) -/

/-- Start an unscheduled retrain: only this site is held. -/
def State.holdSite (s : State) (i : Nat) : State :=
  if (s.site i).state = .retrainUnsched then s
  else
    let s := s.modSite i fun x => { x with state := .retrainUnsched, retrains := satInc x.retrains, edcTimes := [] }
    s.siteFault 0x0310 i 0 none none

/-- Count `n` EDC retries; 16 within 1,000 µs start a retrain (R249). -/
def State.edcRetries (s : State) (i line n : Nat) : State :=
  let s := (List.range n).foldl (fun s _ =>
    let s := s.modSite i fun x =>
      { x with
        edc := satInc x.edc
        edcTimes := (s.clk.now :: x.edcTimes).filter fun t => decide (s.clk.now < t + 1000000) }
    s.siteFault 0x0305 i line none none) s
  if 16 ≤ (s.site i).edcTimes.length then s.holdSite i else s

/-- The transfer's EDC: at most two retries; a third failure holds the site, and the request waits before all others, to run again
from its start (R237). -/
def State.edc (s : State) (i line : Nat) (x : Xfer) (req : SiteReq) : State × Bool :=
  let s := s.edcRetries i line (min x.edcFails 2)
  if 3 ≤ x.edcFails then ((s.holdSite i).modSite i fun t => { t with queue := req :: t.queue }, false) else (s, true)

/-- What the devices hold in store for a line's next transfer (log 47). -/
def Site.upset (x : Site) (line : Nat) : Xfer := ((x.upsets.find? fun e => e.1 == line).map (·.2)).getD Xfer.clean

def Xfer.join (x y : Xfer) : Xfer :=
  { edcFails := x.edcFails + y.edcFails, err := x.err ^^^ y.err, cerr0 := x.cerr0 ^^^ y.cerr0, cerr1 := x.cerr1 ^^^ y.cerr1,
    terr := x.terr ^^^ y.terr }

/-- The list without its first entry for a line. -/
def dropUpset (line : Nat) : List (Nat × Xfer) → List (Nat × Xfer)
  | [] => []
  | e :: l => if e.1 = line then l else e :: dropUpset line l

/-- The errors that a transfer of a line meets: what the command brings and what the devices hold for it, which it takes away. -/
def State.meets (s : State) (i line : Nat) (x : Xfer) : State × Xfer :=
  (s.modSite i fun z => { z with upsets := dropUpset line z.upsets }, x.join ((s.site i).upset line))

/-- A transfer begins: it meets its errors and passes its EDC, or its request waits for a retrain (R237). -/
def State.gate (s : State) (i line : Nat) (x : Xfer) (req : SiteReq) : State × Option Xfer :=
  let m := s.meets i line x
  let e := m.1.edc i line m.2 req
  (e.1, if e.2 then some m.2 else none)

/-- The transfers of several lines that a request makes in turn, each with its EDC (R237); false where one fails a third time. -/
def State.gates (s : State) (i : Nat) (req : SiteReq) : List Nat → State × Bool
  | [] => (s, true)
  | l :: ls =>
    let g := s.gate i l Xfer.clean req
    if g.2.isNone then (g.1, false) else g.1.gates i req ls

/-! ### Row retirement candidates (09 R252) -/

def State.candidate (s : State) (i grp : Nat) : State :=
  s.modSite i fun x =>
    if x.retq.contains grp then x
    else if 64 ≤ x.retq.length then { x with retDropped := x.retDropped + 1 }
    else { x with retq := x.retq ++ [grp] }

/-- A correction of a line: eight of one line, or three distinct lines of its group, within 65,536 frames. -/
def State.corrected (s : State) (i line : Nat) : State :=
  let f := s.frm.frame.toNat
  let s := s.modSite i fun x =>
    { x with corr := satInc x.corr,
             corrHist := (line, f) :: x.corrHist.filter fun e => decide (f < e.2 + 65536) }
  let h := (s.site i).corrHist
  let same := (h.filter fun e => e.1 == line).length
  let grp := ((h.map (·.1)).filter fun l => l / 64 == line / 64).eraseDups.length
  if 8 ≤ same ∨ 3 ≤ grp then s.candidate i (line / 64) else s

/-! ### Service -/

/-- Write a line, as one write. One that becomes poison counts in SIT_UNCORR, and SIT_PADDR names it (R256). -/
def State.storeLine (s : State) (i line : Nat) (l : Line) : State :=
  s.modSite i fun x =>
    if l.cls = 2 then { x.putLine line l with uncorr := satInc x.uncorr, paddr := BitVec.ofNat 48 (siteAddr i line) } else x.putLine line l

/-- Stages 2 and 3 of a read with their write-back and logs (09 R237, R238). -/
def State.fetchLine (s : State) (i line : Nat) (x : Xfer) : State × ReadOut :=
  let r := readLine ((s.site i).line line) x
  let s := if r.corrected then
      (((s.modSite i fun z => z.putLine line r.line)).siteFault 0x0302 i line none none).corrected i line else s
  let s := if r.poisoned then
      let s := (s.storeLine i line r.line).siteFault 0x0303 i line none none
      (if r.invalid then s.siteFault 0x0306 i line none none else s).candidate i (line / 64) else s
  (s, r)

/-- Bytes of an entry laid over a line. -/
def overlay (base data : BitVec 2048) (valid : BitVec 256) : BitVec 2048 :=
  lineOf ((List.range 256).map fun i =>
    if valid.getLsbD i then data.extractLsb' (8 * i) 8 else base.extractLsb' (8 * i) 8)

end Sys2Proof.Machine
end

