-- ==== Sys2Proof/Machine/Seal.lean ====
section
/-! DEFINITION. The areas of a reduction record (11 R294), the check lines (R306) and the comparison of a seal (R308, R310, R312,
R315). -/

namespace Sys2Proof.Machine

/-- Areas of a reduction record (11 R294): accumulation or round area of a round, count area, digest area. -/
inductive RedArea where
  | sum (rec : Rec) (round : Nat)
  | count (rec : Rec) (round : Nat)
deriving DecidableEq, Repr

def redLayer (r : Rec) : Nat := rf r 0 48 16
def redPolicy (r : Rec) : Nat := rf r 0 47 1
def redRounds (r : Rec) : Nat := rf r 0 45 2
def redRword (r : Rec) : Nat := rf r 0 37 8
def redCword (r : Rec) : Nat := rf r 0 29 8
def redUframe (r : Rec) : Nat := rf r 0 0 16
def redDigest (r : Rec) : Nat := rf r 5 0 48

/-- Base of the sums of round `k`. -/
def redSumBase (p : Plan) (r : Rec) (k : Nat) : Nat :=
  if k = 0 then rf r 1 0 48 else rf r 2 0 48 + (k - 1) * (512 * p.blocks (redLayer r))
/-- Base and bytes of the count lines of round `k`. -/
def redCountBytes (p : Plan) (r : Rec) : Nat := 256 * ((p.blocks (redLayer r) + 63) / 64)
def redCountBase (p : Plan) (r : Rec) (k : Nat) : Nat := rf r 3 0 48 + k * redCountBytes p r

/-- The area of plan `p` that holds address `a` (11 R299): accumulation, round and count areas, into which adds go. The digest areas and
the exponent table count as no area here (log 68). -/
def Plan.redArea (p : Plan) (a : Nat) : Option RedArea :=
  p.reds.findSome? fun r =>
    (List.range (redRounds r + 1)).findSome? fun k =>
      let b := redSumBase p r k
      let c := redCountBase p r k
      if b ≤ a ∧ a < b + 512 * p.blocks (redLayer r) then some (.sum r k)
      else if c ≤ a ∧ a < c + redCountBytes p r then some (.count r k)
      else none

def mersenne61 : Nat := 2 ^ 61 - 1

/-- Write 8 bytes at a device address that lies in a site, keeping the rest of the line (the controller's check line). -/
def State.pokeSite (s : State) (a : Nat) (v : W64) : State :=
  match s.place a with
  | .site i off =>
    let line := off / 256
    let d := overlay ((s.site i).line line).data (BitVec.ofNat 2048 (v.toNat * 2 ^ (8 * (off % 256))))
      (BitVec.ofNat 256 ((2 ^ 8 - 1) * 2 ^ (off % 256)))
    s.storeLine i line (mkLine d 0 (residue d))
  | _ => s

/-- Word at a device address in a site. -/
def State.peekSite (s : State) (a : Nat) : Nat :=
  match s.place a with
  | .site i off => bfld ((s.site i).line (off / 256)).data (8 * (off % 256)) 64
  | _ => 0

def PlanSt.layer (x : PlanSt) (l : Nat) : RedLayer := Sparse.get RedLayer.reset x.layers l
def State.modLayer (s : State) (p l : Nat) (f : RedLayer → RedLayer) : State :=
  s.modPlan p fun x => { x with layers := Sparse.set RedLayer.reset x.layers l (f (x.layer l)) }
def State.modRed (s : State) (p : Nat) (f : RedWords → RedWords) : State := s.modPlan p fun x => { x with red := f x.red }

/-- A RED_ fault (14 Table 14.3). -/
def State.redFault (s : State) (code p layer round : Nat) (d1 : W64) : State :=
  s.fault { code := code, plan := some p, d0 := BitVec.ofNat 64 (layer * 2 ^ 48 + round), d1 := d1 }

/-! ### Seals (11 R306 to R308, R312, R315) -/

/-- The reduction record and round whose seal line is at `a`. -/
def Plan.sealAt (p : Plan) (a : Nat) : Option (Rec × Nat) :=
  p.reds.findSome? fun r =>
    (List.range (redRounds r + 1)).findSome? fun k =>
      if a = redDigest r + 0x500 * k + 0x300 then some (r, k) else none

/-- Saturate to 32 bits. -/
def sat32 (n : Nat) : Nat := min n (2 ^ 32 - 1)

/-- The root's report of a seal that stands (11 R310, R315). -/
def sealReport (p : Nat) (owner : Nat) (r : Rec) (k : Nat) (d : BitVec 2048) : RootReport :=
  let clip := bfld d 63 1 == 1
  let noRound := redPolicy r == 1 && decide (redRounds r ≤ k)
  { plan := p, layer := redLayer r, owner := owner, round := bfld d 190 2, mark := bfld d 62 1 == 1 || decide (0 < bfld d 256 48), clip := clip,
    exh := clip && noRound, clipped := sat32 (bfld d 192 48), markers := sat32 (bfld d 256 48) }

/-- A seal stands: at a root its report goes into the next vote; RESCALE_EXHAUSTED is logged where no round is left. -/
def State.sealStands (s : State) (p : Nat) (r : Rec) (k : Nat) (d : BitVec 2048) : State :=
  if bfld d 189 1 = 1 then
    let rep := sealReport p s.dom.rank r k d
    let s := s.modFrm fun f => { f with reportsOut := f.reportsOut ++ [rep] }
    let s := s.modLayer p (redLayer r) fun l =>
      { l with sealLines := bfld d 64 48, rootClip := bfld d 192 48, rootMark := bfld d 256 48 }
    let s := s.modRed p fun w => { w with clip := satAdd w.clip (bfld d 192 48), mark := satAdd w.mark (bfld d 256 48) }
    if rep.exh then s.redFault 0x0506 p (redLayer r) k 0 else s
  else s

/-- The comparison of a seal just written (11 R308). -/
def State.sealCheck (s : State) (a : Nat) (d : BitVec 2048) : State :=
  match (List.range 4).findSome? fun p => ((s.img? p).bind fun q => q.sealAt a).map fun x => (p, x) with
  | none => s
  | some (p, r, k) =>
    if bfld d 62 1 = 1 then
      (s.modRed p fun w => { w with waive := satInc w.waive }).sealStands p r k d
    else
      let s := s.modRed p fun w => { w with seals := satInc w.seals }
      let rs := s.peekSite (redDigest r + 0x500 * k + 0x400) % 2 ^ 61
      if bfld d 0 61 = (rs + 2 ^ 40 * bfld d 64 48) % mersenne61 then s.sealStands p r k d
      else s.redFault 0x0503 p (redLayer r) k (BitVec.ofNat 64 (bfld d 0 64))

end Sys2Proof.Machine
end

