-- ==== Sys2Proof/Machine/Sites.lean ====
section
/-! DEFINITION. The service of a memory site: reads, writes, write combining (09 R237, R240, R243 to R245), sinks (R241, R242). -/

namespace Sys2Proof.Machine

/-- Entries of the write-combining buffer, and the number at which its oldest is merged (09 R244). -/
def wcbSize : Nat := 8192
def wcbMark : Nat := 7168

def Site.entry? (x : Site) (line : Nat) : Option WcbEntry := x.wcb.find? fun e => e.line == line

/-! ### Sinks (09 R241, R242) -/

/-- The sink range of the owning plan that holds the line (09 R241). -/
def Plan.isSink (p : Plan) (a : Nat) : Bool :=
  p.sinks.any fun r => rf r 0 0 48 ≤ a && decide (a < rf r 0 0 48 + rf r 1 0 48)

def State.sinkOwner (s : State) (i line : Nat) : Option Nat :=
  (List.range 4).find? fun p => ((s.img? p).map fun q => q.hasSite i && q.isSink (siteAddr i line)).getD false

/-- A poisoned write into a sink range is not written and ends its owner (09 Table 9.7, R242). The result says whether the
write goes on. -/
def State.sinkCheck (s : State) (i line : Nat) (marks : BitVec 8) : State × Bool :=
  if marks = 0 then (s, true)
  else
    match s.sinkOwner i line with
    | some p => (s.siteFault 0x0304 i line (some p) none, false)
    | none => (s, true)

/-- The line lies in a sink range of a plan that has stopped: none of its writes reaches it (09 R242, 03 R108). -/
def State.sinkBarred (s : State) (i line : Nat) : Bool := ((s.sinkOwner i line).map fun p => (s.plan p).stopped).getD false

/-! ### Writes and merges -/

/-- Write a line's data, checks computed from it; a line with a mark becomes poison (09 R237, R240), a seal line is compared
(11 R308). -/
def State.putData (s : State) (i line : Nat) (d : BitVec 2048) (poison : Bool) : State :=
  (s.storeLine i line (mkLine d (if poison then 2 else 0) (residue d))).sealCheck (siteAddr i line) d

/-- A line's entry leaves the buffer. -/
def State.dropEntry (s : State) (i line : Nat) : State := s.modSite i fun z => { z with wcb := z.wcb.filter fun w => w.line != line }

/-- A pending entry leaves the buffer into its line by read, merge and write (09 R244, R240); a full mask needs no read. `x` is what its
first transfer, which has passed its EDC, meets. A write that fails its EDC a third time leaves the entry pending, and the request waits
(R237): false. -/
def State.mergeEntry (s : State) (i : Nat) (e : WcbEntry) (x : Xfer) (req : SiteReq) : State × Bool :=
  if s.sinkBarred i e.line then (s.dropEntry i e.line, true)
  else if e.valid = BitVec.allOnes 256 then ((s.dropEntry i e.line).putData i e.line e.data (e.marks != 0), true)
  else
    let r := s.fetchLine i e.line x
    let g := r.1.gates i req [e.line]
    if g.2 then ((g.1.dropEntry i e.line).putData i e.line (overlay r.2.line.data e.data e.valid) (e.marks != 0 || r.2.poison), true)
    else (g.1, false)

/-- A request's first transfer of a line, after the merge of the line's pending entry (09 R245). What the request's own transfer meets;
none when the request waits. -/
def State.open (s : State) (i line : Nat) (x : Xfer) (req : SiteReq) : State × Option Xfer :=
  let g := s.gate i line x req
  match g.2 with
  | none => (g.1, none)
  | some x =>
    match (g.1.site i).entry? line with
    | some e =>
      let m := g.1.mergeEntry i e x req
      if m.2 then m.1.gate i line Xfer.clean req else (m.1, none)
    | none => (g.1, some x)

/-- A line's pending entry is merged as a request of its own (09 R244). -/
def State.merge (s : State) (i line : Nat) (x : Xfer) : State :=
  match (s.site i).entry? line with
  | none => s
  | some e =>
    let g := s.gate i line x (.merge line)
    match g.2 with
    | none => g.1
    | some x => (g.1.mergeEntry i e x (.merge line)).1

/-- A read that the site serves (09 R237, R245). -/
def State.serveRead (s : State) (i line : Nat) (x : Xfer) : State × Option ReadOut :=
  let e := s.open i line x (.read line)
  match e.2 with
  | none => (e.1, none)
  | some x =>
    let r := e.1.fetchLine i line x
    let s := if r.2.poison then r.1.modSite i fun z => { z with pread := satInc z.pread } else r.1
    (s.send (.lineData i line r.2.line.data r.2.poison), some r.2)

/-- A whole-line write that the site serves (09 R237, R240, R245): a pending entry of the line is discarded. -/
def State.serveFull (s : State) (i line : Nat) (d : BitVec 2048) (marks : BitVec 8) (plan : Option Nat) (x : Xfer) : State :=
  let e := s.gate i line x (.full line d marks plan)
  if e.2.isNone || e.1.sinkBarred i line then e.1
  else
    let k := e.1.sinkCheck i line marks
    if !k.2 then k.1
    else (k.1.dropEntry i line).putData i line d (marks != 0)

/-- A partial write that the site serves goes into the line's entry, or opens one (09 R244); one for which the buffer has no entry left
waits (`State.canStart`). -/
def State.servePart (s : State) (i line : Nat) (d : BitVec 2048) (valid : BitVec 256) (marks : BitVec 8) (plan : Option Nat) : State :=
  let k := s.sinkCheck i line marks
  if !k.2 || k.1.sinkBarred i line then k.1
  else
    let s := k.1
    match (s.site i).entry? line with
    | some e =>
      let e' : WcbEntry := { e with data := overlay e.data d valid, valid := e.valid ||| valid, marks := e.marks ||| marks }
      let s := s.modSite i fun z => { z with wcb := mapIf (fun w => w.line == line) (fun _ => e') z.wcb }
      if e'.valid = BitVec.allOnes 256 then s.merge i line Xfer.clean else s
    | none =>
      if valid = BitVec.allOnes 256 then s.serveFull i line d marks plan Xfer.clean
      else
        s.modSite i fun z =>
          let w := z.wcb ++ [{ line := line, data := d, valid := valid, marks := marks }]
          { z with wcb := w, wcbPeak := max z.wcbPeak w.length }

/-- The site takes requests now. -/
def Site.serves (x : Site) : Bool := x.state == .ready
/-- Requests to it wait (09 R248, R249). -/
def Site.holds (x : Site) : Bool := x.state == .retrainSched || x.state == .retrainUnsched

end Sys2Proof.Machine
end

