-- ==== Sys2Proof/Machine/Eddy.lean ====
section
/-! DEFINITION. The eddy adders (11 R299, R302, R303), their check lines (R306). -/

namespace Sys2Proof.Machine

/-- One element of an add: result, and whether the sum left the range (11 R299). `m` is the operand's marker. -/
def addElem (t x m : Int) : Int × Bool :=
  if t = -(2 ^ 31) ∨ x = m then (-(2 ^ 31), false)
  else if 2147483647 < (t + x).natAbs then (-(2 ^ 31), true) else (t + x, false)

/-- The exact result of an add into one line: elements, sum-range flag, residue prediction (11 R302). -/
structure AddOut where
  line : BitVec 2048
  range : Bool
  pred : Nat
  /-- operand's element sum, markers as 0 (R306). -/
  sum : Int
deriving DecidableEq, Repr

def packElems (l : List Int) : BitVec 2048 :=
  BitVec.ofNat 2048 (l.foldr (fun x a => wrapInt x 32 + 2 ^ 32 * a) 0)

def addLine (target : BitVec 2048) (stored : Nat) (xs : List Int) (marker : Int) : AddOut :=
  let ts := (List.range 64).map fun i => sext (bfld target (32 * i) 32) 32
  let rs := (ts.zip xs).map fun p => addElem p.1 p.2 marker
  let val (x : Int) : Int := if x = marker then 0 else x
  let sum := xs.foldl (fun a x => a + val x) 0
  let adj := ((ts.zip xs).zip rs).foldl (fun a p =>
    if p.2.1 = -(2 ^ 31) then a - (p.1.1 + val p.1.2) + -(2 ^ 31) else a) 0
  { line := packElems (rs.map (·.1)), range := rs.any (·.2),
    pred := (((stored : Int) + sum + adj) % (resMod : Int)).toNat, sum := sum }

/-- The controller adds an operand's sum into the check line of its round (11 R306). -/
def State.checkAdd (s : State) (area : RedArea) (sum : Int) : State :=
  match area with
  | .sum r k =>
    let a := redDigest r + 0x500 * k + 0x400
    let v := (((s.peekSite a % 2 ^ 61 : Nat) : Int) + sum) % (mersenne61 : Int)
    s.pokeSite a (BitVec.ofNat 64 v.toNat)
  | .count _ _ => s

def areaLayer : RedArea → Nat × Nat
  | .sum r k => (redLayer r, k)
  | .count r k => (redLayer r, k)

/-- A computed line passes its residue check: it is stored with its predicted residue (11 R306). -/
def State.addGood (s : State) (p i line : Nat) (area : RedArea) (a : AddOut) (d : BitVec 2048) : State :=
  let s := (s.storeLine i line (mkLine d 1 a.pred)).checkAdd area a.sum
  if a.range then s.redFault 0x050A p (areaLayer area).1 (areaLayer area).2 0 else s

/-- Add one line of operand elements into the line at `line` of site `i` (11 R299, R301 to R303, R306; 09 Table 9.7).
`e1`, `e2` are what the first and the second computation differ by from the exact result. -/
def State.addInto (s : State) (p i line : Nat) (area : RedArea) (xs : List Int) (marker : Int) (poison : Bool)
    (e1 e2 : BitVec 2048) (x : Xfer) : State :=
  let r := s.fetchLine i line x
  let s := r.1
  let old := r.2.line
  if poison || r.2.poison then
    let owner := (s.siteClaim i).getD p
    (s.storeLine i line (mkLine old.data 2 (residue old.data))).siteFault 0x0304 i line (some owner) none
  else
    let a := addLine old.data old.res xs marker
    let s := s.modRed p fun w => { w with adds := satInc w.adds }
    let lay := areaLayer area
    let d1 := a.line ^^^ e1
    let d2 := a.line ^^^ e2
    if residue d1 = a.pred then s.addGood p i line area a d1
    else if residue d2 = a.pred then
      let s := s.modRed p fun w => { w with rretry := satInc w.rretry }
      (s.addGood p i line area a d2).redFault 0x0501 p lay.1 lay.2 0
    else (s.storeLine i line (mkLine old.data 2 (residue old.data))).redFault 0x0502 p lay.1 lay.2 0

/-- Elements of a G16 line (11 R298). -/
def g16Elems (d : BitVec 2048) : List Int := (List.range 128).map fun i => sext (bfld d (16 * i) 16) 16
/-- Elements of a G32 line. -/
def g32Elems (d : BitVec 2048) : List Int := (List.range 64).map fun i => sext (bfld d (32 * i) 32) 32

/-- ACC16 served by the site: a pair of lines (11 R299). Every transfer of the request passes its EDC before a sum is written, since a
request that waits for a retrain runs again from its start (09 R237). A plan that has stopped adds nothing more (09 R242). -/
def State.serveAcc16 (s : State) (p i line : Nat) (d : BitVec 2048) (poison : Bool) (a : AddIn) : State :=
  if (s.plan p).stopped then s
  else
    match (if line % 2 = 0 then (s.img? p).bind fun q => q.redArea (siteAddr i line) else none) with
    | none => s.redFault 0x0504 p 0 0 0
    | some area =>
      let e1 := s.open i line a.xfer (.acc16 line d poison p)
      match e1.2 with
      | none => e1.1
      | some x1 =>
        let e2 := e1.1.open i (line + 1) Xfer.clean (.acc16 line d poison p)
        match e2.2 with
        | none => e2.1
        | some x2 =>
          let g := e2.1.gates i (.acc16 line d poison p) [line, line + 1]
          if !g.2 then g.1
          else
          let s := g.1.addInto p i line area ((g16Elems d).take 64) (-32768) poison (a.first.getD 0 0) (a.second.getD 0 0) x1
          s.addInto p i (line + 1) area ((g16Elems d).drop 64) (-32768) poison (a.first.getD 1 0) (a.second.getD 1 0) x2

/-- ACC32 served by the site: one line. -/
def State.serveAcc32 (s : State) (p i line : Nat) (d : BitVec 2048) (poison : Bool) (a : AddIn) : State :=
  if (s.plan p).stopped then s
  else
    match ((s.img? p).bind fun q => q.redArea (siteAddr i line)) with
    | none => s.redFault 0x0504 p 0 0 0
    | some area =>
      let e := s.open i line a.xfer (.acc32 line d poison p)
      match e.2 with
      | none => e.1
      | some x =>
        let g := e.1.gates i (.acc32 line d poison p) [line]
        if !g.2 then g.1 else g.1.addInto p i line area (g32Elems d) (-(2 ^ 31)) poison (a.first.getD 0 0) (a.second.getD 0 0) x

end Sys2Proof.Machine
end

