-- ==== Sys2Proof/Machine/SiteCmds.lean ====
section
/-! DEFINITION. The commands of the memory sites (09 R237, R244, R246, R248 to R250) and the service of waiting requests. -/

namespace Sys2Proof.Machine

/-- Request queue entries of a held site (09 R249). -/
def siteQueueMax : Nat := 2048

def AddIn.clean : AddIn := { first := [], second := [], xfer := Xfer.clean }

/-- Serve one request in full (09 R243). -/
def State.serveReq (s : State) (i : Nat) (q : SiteReq) (a : AddIn) : State :=
  match q with
  | .read line => (s.serveRead i line a.xfer).1
  | .full line d marks plan => s.serveFull i line d marks plan a.xfer
  | .part line d valid marks plan _ => s.servePart i line d valid marks plan
  | .acc16 line d poison p => s.serveAcc16 p i line d poison a
  | .acc32 line d poison p => s.serveAcc32 p i line d poison a
  | .merge line => s.merge i line a.xfer
  | .unit _ _ _ => s

/-- Lines that a request accesses. -/
def SiteReq.lines : SiteReq → List Nat
  | .read l | .full l _ _ _ | .part l _ _ _ _ _ | .acc32 l _ _ _ | .merge l => [l]
  | .acc16 l _ _ _ => [l, l + 1]
  | .unit _ _ ls => ls

/-- Two requests that access one line: they take effect in arrival order (09 R243). -/
def SiteReq.meets (q r : SiteReq) : Bool := q.lines.any r.lines.contains

/-- A waiting request that the site can start: a partial write needs an entry (09 R244), a transfer's place its unit (log 48), unless
its plan has stopped (03 R108). -/
def State.canStart (s : State) (i : Nat) : SiteReq → Bool
  | .part line _ valid _ _ _ =>
    ((s.site i).entry? line).isSome || valid == BitVec.allOnes 256 || decide ((s.site i).wcb.length < wcbSize)
  | .unit _ p _ => !(s.plan p).executes
  | _ => true

/-- The oldest waiting request that can start and that no older one to its lines holds back, and those left (09 R243). -/
def nextReq (start : SiteReq → Bool) (kept : List SiteReq) : List SiteReq → Option (SiteReq × List SiteReq)
  | [] => none
  | q :: qs => if start q && !kept.any q.meets then some (q, kept ++ qs) else nextReq start (kept ++ [q]) qs

/-- Waiting requests are served oldest first while the site serves, at most `n` of them (09 R249). -/
def State.drain (s : State) (i : Nat) : Nat → State
  | 0 => s
  | n + 1 =>
    if !(s.site i).serves then s
    else
      match nextReq (s.canStart i) [] (s.site i).queue with
      | none => s
      | some (q, rest) => ((s.modSite i fun z => { z with queue := rest }).serveReq i q AddIn.clean).drain i n

/-- The wait of partial writes on a full buffer ends: its controller cycles are counted at the controller's clock, 1/32 of the site data
rate (09 R244, 02 Table 2.7). -/
def State.stallEnd (s : State) (i : Nat) : State :=
  match (s.site i).waitFrom with
  | none => s
  | some t => s.modSite i fun z => { z with waitFrom := none, wstall := satAdd z.wstall ((s.clk.now - t) * z.rate / 32) }

/-- A partial write waits in the queue for an entry of a full buffer. -/
def State.bufferWait (s : State) (i : Nat) : Bool :=
  (s.site i).queue.any fun q => match q with
    | .part _ _ _ _ _ _ => !s.canStart i q
    | _ => false

/-- The wait on a full buffer begins once the site serves, and ends when no partial write waits for an entry any more; a hold meanwhile
belongs to it. -/
def State.stallNow (s : State) (i : Nat) : State :=
  if !s.bufferWait i then s.stallEnd i
  else if (s.site i).serves then s.modSite i fun z => { z with waitFrom := some (z.waitFrom.getD s.clk.now) }
  else s

/-- Serve what waits at a site and can start. -/
def State.drainSite (s : State) (i : Nat) : State := (s.drain i (s.site i).queue.length).stallNow i
def State.drainSites (s : State) : State := (List.range 24).foldl State.drainSite s

def SiteReq.isUnit (u : Nat) : SiteReq → Bool
  | .unit v _ _ => v == u
  | _ => false

/-- What waits at a site ahead of a request of unit `u`: all of it, or what is ahead of the unit's place (09 R243). -/
def Site.ahead (z : Site) (u : Option Nat) : List SiteReq :=
  match u with
  | some v => if z.queue.any (SiteReq.isUnit v) then z.queue.takeWhile fun q => !q.isUnit v else z.queue
  | none => z.queue

/-- A request takes its turn in the queue: behind all others, or at its unit's place. -/
def State.enqueue (s : State) (i : Nat) (q : SiteReq) (u : Option Nat) : State :=
  s.modSite i fun z => { z with queue := z.ahead u ++ q :: z.queue.drop (z.ahead u).length }

/-- A request reaches a site, from unit `u` where it is part of a transfer that has its turn: served, or waiting while the site is held, an
older request to its lines waits, or the buffer has no entry for it (09 R243, R244, R249; the entries beyond the queue's 2,048 wait at their
sources, log 48); a failed site returns poison for every access (R250); a site not yet written under R239 serves no access; an absent site
has no addresses (R230). -/
def State.request (s : State) (i : Nat) (q : SiteReq) (line : Nat) (plan : Option Nat) (a : AddIn) (u : Option Nat) : State :=
  let z := s.site i
  if z.state = .absent ∨ siteLines z.tier ≤ line then
    (match plan with
     | some p => s.siteFault 0x0301 i line (some p) none
     | none => s)
  else if z.holds || (z.ahead u).any q.meets then (s.enqueue i q u).drainSite i
  else if z.state = .failed then
    (match q with
     | .read line => (s.modSite i fun z => { z with pread := satInc z.pread }).send (.lineData i line 0 true)
     | .acc16 line _ _ p => s.siteFault 0x0304 i line (some p) none
     | .acc32 line _ _ p => s.siteFault 0x0304 i line (some p) none
     | _ => s)
  else if z.serves then (if s.canStart i q then s.serveReq i q a else s.enqueue i q u).drainSite i
  else s

/-- What a command's operand says of its transfer. -/
def AddIn.ofXfer (x : Xfer) : AddIn := { AddIn.clean with xfer := x }

/-- LINE_READ (09 R237). -/
def execLineRead (i : Fin 24) (line : Nat) (x : Xfer) (s : State) : R :=
  .next (if s.live then s.request i.val (.read line) line none (AddIn.ofXfer x) none else s)

/-- FULL_LINE_WRITE (09 R237, R240, R245). -/
def execFullLineWrite (i : Fin 24) (line : Nat) (d : BitVec 2048) (marks : BitVec 8) (plan : Option (Fin 4)) (x : Xfer)
    (s : State) : R :=
  .next (if s.live then s.request i.val (.full line d marks (plan.map (·.val))) line (plan.map (·.val)) (AddIn.ofXfer x) none else s)

/-- PARTIAL_WRITE (09 R244). -/
def execPartialWrite (i : Fin 24) (line : Nat) (d : BitVec 2048) (valid : BitVec 256) (marks : BitVec 8)
    (plan : Option (Fin 4)) (s : State) : R :=
  .next (if s.live then
      s.request i.val (.part line d valid marks (plan.map (·.val)) none) line (plan.map (·.val)) AddIn.clean none
    else s)

/-- WCB_MERGE (09 R244): in a buffer that holds 7,168 entries the oldest is merged by read, merge and write. -/
def wcbMerge (i line : Nat) (x : Xfer) (s : State) : State :=
  let z := s.site i
  if z.serves && decide (wcbMark ≤ z.wcb.length) && (z.wcb.head?.map (·.line)) == some line then
    (s.merge i line x).drainSite i
  else s

def execWcbMerge (i : Fin 24) (line : Nat) (x : Xfer) (s : State) : R :=
  .next (if s.live then wcbMerge i.val line x s else s)

/-- PACED_REFRESH (09 R246): per-bank refresh is issued. It goes on in every state of a present, trained site. The operand is what the
devices hold in store for transfers to come (log 47). -/
def execPacedRefresh (u : Fin 24 × List (Nat × Xfer)) (s : State) : R :=
  let i := u.1.val
  .next (if s.live && (s.site i).state != .absent && (s.site i).state != .training then
      s.modSite i fun z => { z with refreshes := z.refreshes + 1, upsets := z.upsets ++ u.2 }
    else s)

/-- SCHEDULED_RETRAIN_OVERRUN (09 R248): the retrain continues as an unscheduled one. -/
def execScheduledRetrainOverrun (i : Fin 24) (s : State) : R :=
  .next (if s.live && (s.site i.val).state == .retrainSched then s.holdSite i.val else s)

end Sys2Proof.Machine
end

