-- ==== Sys2Proof/Machine/Desc.lean ====
section
/-! DEFINITION. Tensor descriptors and storage forms (05 R131 to R154): fields, fold and split of indices, element and scale
addresses, stripe groups (09 R232), reading a block into element codes, writing a block, and the window gather's positions
(07 R179 to R181). -/

namespace Sys2Proof.Machine

/-- A tensor descriptor, byte 0 lowest (05 Table 5.1). -/
abbrev Desc := BitVec 1024

/-- Bits of 64-bit word `k` (offset `8 k`). -/
def Desc.f (d : Desc) (k lo len : Nat) : Nat := bfld d (64 * k + lo) len

def Desc.stripe (d : Desc) : Nat := d.f 0 48 8
def Desc.base (d : Desc) : Nat := d.f 0 0 48
def Desc.scaleBase (d : Desc) : Nat := d.f 1 0 48
def Desc.rank (d : Desc) : Nat := d.f 2 58 3 + 1
def Desc.form (d : Desc) : Nat := d.f 2 56 2
def Desc.etype (d : Desc) : Nat := d.f 2 51 5
def Desc.scaled (d : Desc) : Bool := d.f 2 50 1 == 1
def Desc.gsz (d : Desc) : Nat := 16 * 2 ^ d.f 2 48 2
def Desc.f2 (d : Desc) : Nat := d.f 2 44 4
def Desc.f1 (d : Desc) : Nat := d.f 2 40 4
def Desc.vplanes (d : Desc) : Nat := d.f 2 36 4
def Desc.chax (d : Desc) : Nat := d.f 2 32 4
def Desc.fill (d : Desc) : Nat := d.f 2 0 32
def Desc.size (d : Desc) (k : Nat) : Nat := d.f (3 + k / 2) (32 * (k % 2)) 32
/-- Stride of axis `k`, 1 to 7; axis 0 has none. -/
def Desc.stride (d : Desc) (k : Nat) : Nat := if k = 0 then 0 else d.f (6 + k) 0 48
/-- Block extent along tiled axis `a`. -/
def Desc.ext (d : Desc) (a : Nat) : Nat := d.f 15 (16 * a) 16

/-- Native width (05 Table 5.2), 0 for a reserved type. -/
def nativeBits (etype : Nat) : Nat :=
  if etype = 0 ∨ etype = 5 then 4 else if etype = 1 ∨ etype = 2 then 6
  else if etype = 3 ∨ etype = 4 ∨ etype = 6 ∨ etype = 0x0B then 8
  else if etype = 7 ∨ etype = 8 ∨ etype = 0x0C then 16
  else if etype = 9 ∨ etype = 0x0A ∨ etype = 0x0D then 32
  else if etype = 0x10 then 3 else if etype = 0x11 then 5 else if etype = 0x12 then 6 else 0

/-- Pocket width after PLD (05 Table 5.2). -/
def pocketWidth (etype : Nat) : Nat :=
  let w := nativeBits etype
  if w = 3 then 4 else if w = 5 ∨ w = 6 then 8 else w

def Desc.w (d : Desc) : Nat := nativeBits d.etype
def Desc.pw (d : Desc) : Nat := pocketWidth d.etype

/-- Sizes of the axes. -/
def Desc.sizes (d : Desc) : List Nat := (List.range d.rank).map d.size
def prod (l : List Nat) : Nat := l.foldl (· * ·) 1
/-- Axes of fold group `a` (05 R135). -/
def Desc.group (d : Desc) (a : Nat) : List Nat :=
  match a with
  | 0 => d.sizes.take d.f1
  | 1 => (d.sizes.take d.f2).drop d.f1
  | _ => d.sizes.drop d.f2
/-- Logical size of tiled axis `a`. -/
def Desc.tiled (d : Desc) (a : Nat) : Nat := prod (d.group a)
/-- Every size is non-zero (05 R154). -/
def Desc.empty (d : Desc) : Bool := d.sizes.any (· == 0)

/-- Split a logical index into axis indices, lowest axis first (05 R135). -/
def splitIdx : List Nat → Nat → List Nat
  | [], _ => []
  | n :: ns, x => (x % n) :: splitIdx ns (x / n)

/-- Linear index of axis indices, axis 0 fastest. -/
def linear : List Nat → List Nat → Nat
  | n :: ns, i :: is => i + n * linear ns is
  | _, _ => 0

/-- Axis indices of a logical position, none where it is out of range (05 R151). -/
def Desc.at (d : Desc) (x0 x1 x2 : Nat) : Option (List Nat) :=
  if x0 < d.tiled 0 ∧ x1 < d.tiled 1 ∧ x2 < d.tiled 2 then
    some (splitIdx (d.group 0) x0 ++ splitIdx (d.group 1) x1 ++ splitIdx (d.group 2) x2)
  else none

/-- The positions of a block, axis 0 fastest (05 R136). -/
def Desc.block (d : Desc) (o0 o1 o2 : Nat) : List (Option (List Nat)) :=
  (List.range (d.ext 2)).flatMap fun i2 => (List.range (d.ext 1)).flatMap fun i1 => (List.range (d.ext 0)).map fun i0 =>
    d.at (o0 + i0) (o1 + i1) (o2 + i2)

/-- The first positions of the scale blocks of a block (05 R137, R151). A scale block of the pocket that spans two of the tensor takes
the scale of its first element (log 46). -/
def Desc.scaleBlock (d : Desc) (o0 o1 o2 : Nat) : List (Option (List Nat)) :=
  if d.scaled then
    (List.range (d.ext 2)).flatMap fun i2 => (List.range (d.ext 1)).flatMap fun i1 =>
      (List.range (d.ext 0 / d.gsz)).map fun j => d.at (o0 + j * d.gsz) (o1 + i1) (o2 + i2)
  else []

/-! ### Addresses -/

/-- Device address of offset `o` of a stripe group (09 R232). -/
def stripeAddr (r : Rec) (o : Nat) : Nat :=
  let u := 2 ^ rf r 0 43 5
  let n := rf r 0 48 8
  let k := o / u
  let site := rf r (3 + k % n / 8) (8 * (k % n % 8)) 8
  site * 0x4000000000 + rf r 1 0 40 + k / n * u + o % u

/-- Device address of an address or stripe offset of the descriptor. -/
def Desc.resolve (d : Desc) (p : Plan) (x : Nat) : Nat :=
  if d.stripe = 0 then x
  else match p.stripes.find? fun r => rf r 0 56 8 == d.stripe with
    | some r => stripeAddr r x
    | none => x

/-- Byte offset of an element in dense and planar form, from BASE on (05 R136). -/
def Desc.elemOff (d : Desc) (idx : List Nat) : Nat :=
  d.base + idx.zipIdx.foldl (fun a e => a + e.1 * d.stride e.2) 0 + idx.headD 0 * d.w / 8

/-- Byte offset of an element's scale (05 R137). -/
def Desc.scaleOff (d : Desc) (idx : List Nat) : Nat :=
  let n0 := d.size 0
  d.scaleBase + linear d.sizes.tail idx.tail * ceilDiv n0 d.gsz + idx.headD 0 / d.gsz

/-- Plane segments a reader takes (05 R140). -/
def Desc.planes (d : Desc) : Nat := if d.vplanes = 0 then d.w else d.vplanes

/-- Byte offset of bit `k` of linear element `x` in bit-planed form (05 R139). -/
def Desc.planeOff (d : Desc) (x k : Nat) : Nat :=
  d.base + x / 2048 * d.w * 256 + (d.w - 1 - k) * 256 + x % 2048 / 8

/-- Zero-compressed geometry (05 R141): groups per row, slot bytes, group of an element. -/
def Desc.rowGroups (d : Desc) : Nat := ceilDiv (d.size 0) 256
def Desc.slotBytes (d : Desc) : Nat := 256 + 64 * 256 * d.w / 8
def Desc.groupOf (d : Desc) (idx : List Nat) : Nat := linear d.sizes.tail idx.tail * d.rowGroups + idx.headD 0 / 256
def Desc.groupCount (d : Desc) : Nat := prod d.sizes.tail * d.rowGroups
/-- Elements in range of group `g`. -/
def Desc.groupLen (d : Desc) (g : Nat) : Nat := min 256 (d.size 0 - g % d.rowGroups * 256)
def Desc.slotOff (d : Desc) (seg : Nat) : Nat := d.base + seg * d.slotBytes

/-! ### Lines read -/

/-- A line that a transfer has read: its line number (address divided by 256), data and word marks. -/
structure DevLine where
  num : Nat
  data : BitVec 2048
  marks : BitVec 8
deriving DecidableEq, Repr

abbrev Lines := List DevLine

def Lines.byte (c : Lines) (a : Nat) : Byte × Bool :=
  match c.find? fun l => l.num == a / 256 with
  | some l => (l.data.extractLsb' (8 * (a % 256)) 8, l.marks.getLsbD (a % 256 / 32))
  | none => (0, false)

/-- Little-endian number of `n` bytes and whether any lies in a marked word. -/
def Lines.num (c : Lines) (a n : Nat) : Nat × Bool :=
  let bs := (List.range n).map fun i => c.byte (a + i)
  (leNat (bs.map (·.1)), bs.any (·.2))

/-- Read one line for a transfer that has its turn: a site's line after its pending merge, poisoned lines counted (09 R237, R245); a
failed site returns poison (09 R250). -/
def State.takeLine (s : State) (n : Nat) : State × DevLine :=
  match s.place (256 * n) with
  | .store t off =>
    let a := tileAddr t off
    (s, { num := n, data := lineOf (Mem.bytes s.store a 256),
          marks := BitVec.ofNat 8 ((List.range 8).foldl (fun x i =>
            if Sparse.get false s.storePoison (a / 32 + i) then x + 2 ^ i else x) 0) })
  | .site i off =>
    let e := if (s.site i).serves then s.open i (off / 256) Xfer.clean (.read (off / 256)) else (s, none)
    match e.2 with
    | some x =>
      let r := e.1.fetchLine i (off / 256) x
      let s := if r.2.poison then r.1.modSite i fun z => { z with pread := satInc z.pread } else r.1
      (s, { num := n, data := r.2.line.data, marks := if r.2.poison then 255 else 0 })
    | none => (e.1.modSite i fun z => { z with pread := satInc z.pread }, { num := n, data := 0, marks := 255 })
  | _ => (s, { num := n, data := 0, marks := 0 })

def State.takeLines (s : State) (ns : List Nat) : State × Lines :=
  ns.foldl (fun x n => let r := x.1.takeLine n; (r.1, x.2 ++ [r.2])) (s, [])

/-- Line numbers of byte addresses, ascending, each once. -/
def lineNums (as : List Nat) : List Nat := as.foldl (fun l a =>
  if l.contains (a / 256) then l else insertBy id (a / 256) l) []

/-- What the lines of a transfer allow: a fault (01 R29), a wait at a site (09 R243, R249), or the access. -/
inductive Access where
  | fault (code addr : Nat)
  | wait (s : State)
  | ok (s : State)

/-- Number of a mover slot's and of a core's place in a site's queue. -/
def moverUnit (i : Nat) : Nat := 2 * i
def coreUnit (k : Nat) : Nat := 2 * k + 1

/-- The lines of a transfer that lie in site `i`. -/
def State.linesIn (s : State) (i : Nat) (ns : List Nat) : List Nat :=
  ns.filterMap fun n => match s.place (256 * n) with
    | .site j off => if j = i then some (off / 256) else none
    | _ => none

/-- Unit `u` waits at a site: the site is held, or a request that arrived before it to one of its lines waits still. -/
def State.mustWait (s : State) (u : Nat) (ns : List Nat) (i : Nat) : Bool :=
  let ls := s.linesIn i ns
  let older := ((s.site i).queue.takeWhile fun q => !q.isUnit u).filter fun q => match q with
    | .unit _ p _ => (s.plan p).executes
    | _ => true
  !ls.isEmpty && ((s.site i).holds || older.any fun q => q.lines.any ls.contains)

/-- Unit `u` of plan `p` takes its place in the queue of every site that it accesses, where it has none yet (log 48). -/
def State.takePlace (s : State) (u p : Nat) (ns : List Nat) : State :=
  (List.range 24).foldl (fun s i =>
    let ls := s.linesIn i ns
    if ls.isEmpty then s
    else if (s.site i).queue.any (SiteReq.isUnit u) then
      s.modSite i fun z => { z with queue := mapIf (SiteReq.isUnit u) (fun _ => .unit u p ls) z.queue }
    else s.modSite i fun z => { z with queue := z.queue ++ [.unit u p ls] }) s

/-- Unit `u` leaves its places. -/
def State.leavePlace (s : State) (u : Nat) : State :=
  (List.range 24).foldl (fun s i =>
    if (s.site i).queue.any (SiteReq.isUnit u) then
      s.modSite i fun z => { z with queue := z.queue.filter fun q => !q.isUnit u }
    else s) s

/-- Upsets with the EDC failures of a line's next `k` transfers taken out, and how often each of these fails. -/
def calmUpsets (line : Nat) : Nat → List (Nat × Xfer) → List (Nat × Xfer) × List Nat
  | 0, l => (l, [])
  | _, [] => ([], [])
  | k + 1, e :: l =>
    if e.1 = line then
      let r := calmUpsets line k l
      ((e.1, { e.2 with edcFails := 0 }) :: r.1, e.2.edcFails :: r.2)
    else
      let r := calmUpsets line (k + 1) l
      (e :: r.1, r.2)

/-- Transfers of a line that an access makes: its own, and those of the merge of the line's pending entry before it (09 R244, R245). -/
def Site.transfers (z : Site) (line : Nat) : Nat :=
  match z.entry? line with
  | none => 1
  | some e => if e.valid = BitVec.allOnes 256 then 2 else 3

/-- The EDC of every transfer of an access's lines, `more` of each beyond the access itself: the retries count, a third failure or the
sixteenth retry holds the site (09 R237, R249). -/
def State.edcLines (s : State) (ns : List Nat) (more : Nat) : State :=
  ns.foldl (fun s n => match s.place (256 * n) with
    | .site i off =>
      let z := s.site i
      let r := calmUpsets (off / 256) (z.transfers (off / 256) + more) z.upsets
      if r.2.all (· == 0) then s
      else
        let s := s.modSite i fun z => { z with upsets := r.1 }
        let s := s.edcRetries i (off / 256) ((r.2.map (min · 2)).foldl (· + ·) 0)
        if r.2.any fun k => decide (3 ≤ k) then s.holdSite i else s
    | _ => s) s

/-- The lines `ns` of a transfer, of which those in `es` go over a site's devices. -/
def State.access (s : State) (u plan : Nat) (ns es : List Nat) : Access :=
  match ns.findSome? fun n => (s.accessFault plan (256 * n)).map fun c => (c, 256 * n) with
  | some c => .fault c.1 c.2
  | none =>
    if (List.range 24).any (s.mustWait u ns) then .wait (s.takePlace u plan ns)
    else
      let t := s.edcLines es 0
      if (List.range 24).any (t.mustWait u ns) then .wait (t.takePlace u plan ns) else .ok t

/-! ### Reading a block -/

/-- Offsets of the bytes that an element in range needs, in dense, planar and bit-planed form. -/
def Desc.needs (d : Desc) (idx : List Nat) : List Nat :=
  if d.form = 2 then
    let x := linear d.sizes idx
    (List.range d.planes).map fun j => d.planeOff x (d.w - 1 - j)
  else (List.range (max 1 (d.w / 8))).map fun i => d.elemOff idx + i

/-- Offset of a group's record, whether it is dense, and whether its header entry lies in a marked word (05 R142, R143, R150). -/
structure RecordAt where
  off : Nat
  dense : Bool
  mark : Bool
deriving DecidableEq, Repr

def recordAt (d : Desc) (p : Plan) (c : Lines) (g : Nat) : RecordAt :=
  let slot := d.slotOff (g / 64)
  let lo := c.num (d.resolve p (slot + 2 * (g % 64))) 1
  let hi := c.num (d.resolve p (slot + 2 * (g % 64) + 1)) 1
  let e := lo.1 + 256 * hi.1
  { off := slot + e % 4096 * 32, dense := e / 32768 == 1, mark := lo.2 || hi.2 }

/-- Number at `n` byte offsets of a descriptor. -/
def Desc.numAt (d : Desc) (p : Plan) (c : Lines) (off n : Nat) : Nat × Bool :=
  let bs := (List.range n).map fun i => c.byte (d.resolve p (off + i))
  (leNat (bs.map (·.1)), bs.any (·.2))

/-- Element code at native width, with a truncated view's lower bits 0 (05 R139, R140, R142). -/
def Desc.elemCode (d : Desc) (p : Plan) (c : Lines) (idx : List Nat) : Nat × Bool :=
  match d.form with
  | 2 =>
    let x := linear d.sizes idx
    (List.range d.planes).foldl (fun r j =>
      let b := c.byte (d.resolve p (d.planeOff x (d.w - 1 - j)))
      (r.1 + fld b.1.toNat (x % 8) 1 * 2 ^ (d.w - 1 - j), r.2 || b.2)) (0, false)
  | 3 =>
    let g := d.groupOf idx
    let r := recordAt d p c g
    let i := idx.headD 0 % 256
    if r.dense then
      let v := d.numAt p c (r.off + i * (d.w / 8)) (d.w / 8)
      (v.1, v.2 || r.mark)
    else
      let bm := d.numAt p c r.off 32
      if bm.1.testBit i then
        let k := ((List.range i).filter bm.1.testBit).length
        let v := d.numAt p c (r.off + 32 + k * (d.w / 8)) (d.w / 8)
        (v.1, v.2 || bm.2 || r.mark)
      else (0, bm.2 || r.mark)
  | _ =>
    let v := d.numAt p c (d.elemOff idx) (max 1 (d.w / 8))
    if d.w = 4 then (fld v.1 (idx.headD 0 % 2 * 4) 4, v.2) else v

/-- A block as read: codes of positions in range (native width) and scale codes. -/
structure BlockIn where
  elems : List (Option (Nat × Bool))
  scales : List (Option (Nat × Bool))
  /-- tile-store byte addresses read. -/
  bytes : List Nat
deriving DecidableEq, Repr

/-- Outcome of reading a block. -/
inductive BlockRead where
  | fault (code addr : Nat)
  | wait (s : State)
  | ok (s : State) (b : BlockIn)

/-- Offsets of a record's bytes once its header and bitmap are known. -/
def recordBytes (d : Desc) (p : Plan) (c : Lines) (g : Nat) : List Nat :=
  let r := recordAt d p c g
  let n := d.groupLen g * (d.w / 8)
  let len := if r.dense then n
    else 32 + ((List.range 256).filter (d.numAt p c r.off 32).1.testBit).length * (d.w / 8)
  (List.range len).map (r.off + ·)

/-- Read the positions and scale positions of a block (05 R144: a zero-compressed tensor by its headers, then its records). -/
def State.readBlock (s : State) (u plan : Nat) (p : Plan) (d : Desc) (ps ss : List (Option (List Nat))) : BlockRead :=
  let idx := ps.filterMap id
  let sc := (ss.filterMap id).map fun i => d.resolve p (d.scaleOff i)
  let groups := if d.form = 3 then (idx.map d.groupOf).eraseDups else []
  let heads := (groups.map (· / 64)).eraseDups.flatMap fun g =>
    (List.range 256).map fun i => d.resolve p (d.slotOff g + i)
  let body := if d.form = 3 then heads else idx.flatMap fun i => (d.needs i).map (d.resolve p)
  let first := lineNums (body ++ sc)
  match s.access u plan first first with
  | .fault c a => .fault c a
  | .wait s => .wait s
  | .ok s =>
    let r := s.takeLines first
    if d.form = 3 then
      -- the bitmap lies in the record's first 32 bytes, one line; the elements follow
      let bm := lineNums (groups.flatMap fun g => [d.resolve p (recordAt d p r.2 g).off])
      match r.1.access u plan bm bm with
      | .fault c a => .fault c a
      | .wait s => .wait s
      | .ok s =>
        let r2 := s.takeLines (bm.filter fun n => !(r.2.any fun l => l.num == n))
        let c2 := r.2 ++ r2.2
        let recs := groups.flatMap fun g => (recordBytes d p c2 g).map (d.resolve p)
        let more := lineNums recs
        match r2.1.access u plan more more with
        | .fault c a => .fault c a
        | .wait s => .wait s
        | .ok s =>
          let r3 := s.takeLines (more.filter fun n => !(c2.any fun l => l.num == n))
          let c := c2 ++ r3.2
          .ok r3.1 { elems := ps.map (Option.map (d.elemCode p c)),
                     scales := ss.map (Option.map fun i => d.numAt p c (d.scaleOff i) 1),
                     bytes := (heads ++ recs ++ sc).filter fun a => decide (storeBase ≤ a) }
    else
      .ok r.1 { elems := ps.map (Option.map (d.elemCode p r.2)),
                scales := ss.map (Option.map fun i => d.numAt p r.2 (d.scaleOff i) 1),
                bytes := (body ++ sc).filter fun a => decide (storeBase ≤ a) }

/-! ### Writing a block -/

/-- A byte that a transfer writes: device address, which bits of it, the byte, the mark. -/
structure ByteOut where
  addr : Nat
  mask : Nat
  byte : Nat
  poison : Bool
deriving DecidableEq, Repr

/-- Bytes of a dense or planar element. -/
def Desc.denseOut (d : Desc) (p : Plan) (idx : List Nat) (code : Nat) (poison : Bool) : List ByteOut :=
  if d.w = 4 then
    let h := idx.headD 0 % 2 * 4
    [{ addr := d.resolve p (d.elemOff idx), mask := 15 * 2 ^ h, byte := code % 16 * 2 ^ h, poison := poison }]
  else (List.range (d.w / 8)).map fun i =>
    { addr := d.resolve p (d.elemOff idx + i), mask := 255, byte := code / 256 ^ i % 256, poison := poison }

/-- The code that a block gives linear element `x`, if any. -/
def givenAt (es : List (Nat × Nat × Bool)) (x : Nat) : Option (Nat × Bool) := (es.find? fun e => e.1 == x).map (·.2)

/-- Bytes of a bit-planed chunk; bits of positions that the tensor does not have are 0 (05 R139, R152). -/
def Desc.chunkOut (d : Desc) (p : Plan) (es : List (Nat × Nat × Bool)) (c : Nat) : List ByteOut :=
  (List.range d.w).flatMap fun seg => (List.range 256).map fun b =>
    let bits := (List.range 8).map fun i => givenAt es (2048 * c + 8 * b + i)
    { addr := d.resolve p (d.base + c * d.w * 256 + seg * 256 + b), mask := 255,
      byte := bits.zipIdx.foldl (fun x e => x + (fld ((e.1.map (·.1)).getD 0) (d.w - 1 - seg) 1) * 2 ^ e.2) 0,
      poison := bits.any fun e => (e.map (·.2)).getD false }

/-- Pad to a multiple of 32 bytes, with zeros (log 46). -/
def pad32 (l : List (Nat × Bool)) : List (Nat × Bool) :=
  l ++ List.replicate ((32 - l.length % 32) % 32) (0, false)

/-- A group's record: dense or not, and its bytes (05 R142). A tie goes to the dense record, for an all-zero group too (log 46). -/
def groupRecord (d : Desc) (codes : List (Nat × Bool)) : Bool × List (Nat × Bool) :=
  let bytesOf (e : Nat × Bool) : List (Nat × Bool) := (List.range (d.w / 8)).map fun i => (e.1 / 256 ^ i % 256, e.2)
  let nz := codes.filter fun e => e.1 != 0
  let any := codes.any (·.2)
  let bitmap := (List.range 32).map fun b =>
    ((List.range 8).foldl (fun x i => if ((codes[8 * b + i]?).map (·.1)).getD 0 != 0 then x + 2 ^ i else x) 0, any)
  let sparse := pad32 (bitmap ++ nz.flatMap bytesOf)
  let dense := pad32 (codes.flatMap bytesOf)
  if sparse.length < dense.length then (false, sparse) else (true, dense)

/-- Bytes of a segment: records first, header line last (05 R143, R144). Bytes after the last record are not written (log 46). -/
def Desc.segmentOut (d : Desc) (p : Plan) (es : List (Nat × Nat × Bool)) (seg : Nat) : List ByteOut :=
  let slot := d.slotOff seg
  let groups := ((List.range 64).map (64 * seg + ·)).filter fun g => decide (g < d.groupCount)
  let n0 := d.size 0
  let recs := groups.map fun g =>
    groupRecord d ((List.range (d.groupLen g)).map fun i =>
      (givenAt es (g / d.rowGroups * n0 + g % d.rowGroups * 256 + i)).getD (0, false))
  let placed := recs.foldl (fun x r => (x.1 ++ [(x.2, r)], x.2 + r.2.length)) (([] : List (Nat × Bool × List (Nat × Bool))), 256)
  let used := ceilDiv placed.2 256
  let entries := (List.range 64).flatMap fun i =>
    let e := match placed.1[i]? with
      | some x => (if x.2.1 then 32768 else 0) + x.1 / 32
      | none => 0
    [e % 256, e / 256]
  let head := entries ++ [used % 256, used / 256] ++ List.replicate 126 0
  let out (o b : Nat) (m : Bool) : ByteOut := { addr := d.resolve p (slot + o), mask := 255, byte := b, poison := m }
  (placed.1.flatMap fun x => x.2.2.zipIdx.map fun e => out (x.1 + e.2) e.1.1 e.1.2) ++
    head.zipIdx.map fun e => out e.2 e.1 false

/-- Bytes that a block write makes. -/
def Desc.blockOut (d : Desc) (p : Plan) (es : List (List Nat × Nat × Bool)) (ss : List (List Nat × Nat × Bool)) :
    List ByteOut :=
  let lin := es.map fun e => (linear d.sizes e.1, e.2)
  let body := match d.form with
    | 2 => (lin.map fun e => e.1 / 2048).eraseDups.flatMap (d.chunkOut p lin)
    | 3 => (es.map fun e => d.groupOf e.1 / 64).eraseDups.flatMap (d.segmentOut p lin)
    | _ => es.flatMap fun e => d.denseOut p e.1 e.2.1 e.2.2
  body ++ ss.map fun e =>
    { addr := d.resolve p (d.scaleOff e.1), mask := 255, byte := e.2.1 % 256, poison := e.2.2 }

/-- A line to be written: data, byte-valid mask and word marks. -/
structure LineOut where
  num : Nat
  data : BitVec 2048
  valid : BitVec 256
  marks : BitVec 8
deriving DecidableEq, Repr

/-- The bytes of one line, a half byte laid over what the line holds, a pending write of it included (09 R245); the byte stays lost where the
half that it keeps was (05 R150). -/
def State.lineOut (s : State) (n : Nat) (bs : List ByteOut) : LineOut :=
  let old (a : Nat) : Nat := match s.place a with
    | .store t off => (Sparse.get 0#8 s.store (tileAddr t off)).toNat
    | .site i off =>
      let held := match (s.site i).entry? (off / 256) with
        | some e => overlay ((s.site i).line (off / 256)).data e.data e.valid
        | none => ((s.site i).line (off / 256)).data
      bfld held (8 * (off % 256)) 8
    | _ => 0
  let lost (a : Nat) : Bool := match s.place a with
    | .store t off => Sparse.get false s.storePoison (tileAddr t off / 32)
    | .site i off =>
      decide (2 ≤ ((s.site i).line (off / 256)).cls) || (((s.site i).entry? (off / 256)).map fun e => e.marks != 0).getD false
    | _ => false
  let byteAt (i : Nat) : Option (Nat × Bool) :=
    match bs.filter fun b => b.addr == 256 * n + i with
    | [] => none
    | b :: more =>
      let all := b :: more
      let mask := all.foldl (fun m b => m ||| b.mask) 0
      some (all.foldl (fun x b => x / 256 * 256 + (x - (x &&& b.mask)) % 256 + b.byte) (old (256 * n + i)),
        all.any (·.poison) || (mask != 255 && lost (256 * n + i)))
  let xs := (List.range 256).map byteAt
  { num := n, data := lineOf (xs.map fun x => BitVec.ofNat 8 ((x.map (·.1)).getD 0)),
    valid := BitVec.ofNat 256 (xs.zipIdx.foldl (fun a e => if e.1.isSome then a + 2 ^ e.2 else a) 0),
    marks := BitVec.ofNat 8 (xs.zipIdx.foldl (fun a e =>
      if (e.1.map (·.2)).getD false && !a.testBit (e.2 / 32) then a + 2 ^ (e.2 / 32) else a) 0) }

/-- Write a line into a tile store: bytes and marks (03 R107), or send it to its site (09 R243). -/
def State.putLine (s : State) (u : Option Nat) (plan : Nat) (l : LineOut) : State :=
  match s.place (256 * l.num) with
  | .store t off =>
    let a := tileAddr t off
    (List.range 8).foldl (fun s w =>
      let v := bfld l.valid (32 * w) 32
      if v = 0 then s
      else
        let m := if l.marks.getLsbD w then Sparse.set false s.storePoison (a / 32 + w) true
          else if v = 2 ^ 32 - 1 then Sparse.set false s.storePoison (a / 32 + w) false else s.storePoison
        { s with
          storePoison := m
          store := (List.range 32).foldl (fun m i =>
            if v.testBit i then Sparse.set 0#8 m (a + 32 * w + i) (l.data.extractLsb' (8 * (32 * w + i)) 8) else m) s.store }) s
  | .site i off =>
    s.request i (if l.valid = BitVec.allOnes 256 then .full (off / 256) l.data l.marks (some plan)
      else .part (off / 256) l.data l.valid l.marks (some plan) u) (off / 256) (some plan) AddIn.clean u
  | _ => s

/-- Lines of a byte list, in the order in which each is last written. -/
def outLines (bs : List ByteOut) : List Nat :=
  (bs.foldl (fun l b => if l.head? = some (b.addr / 256) then l else (b.addr / 256) :: l.filter (· != b.addr / 256)) []).reverse

/-- Write the bytes, line by line, for the mover or core `u`. -/
def State.putBytes (s : State) (u : Option Nat) (plan : Nat) (bs : List ByteOut) : State :=
  (outLines bs).foldl (fun s n => s.putLine u plan (s.lineOut n (bs.filter fun b => b.addr / 256 == n))) s

/-- An access check of a write: the lines that it covers whole go over the devices, the others into the write-combining buffer. -/
def State.writable (s : State) (u plan : Nat) (bs : List ByteOut) : Access :=
  let ns := lineNums (bs.map (·.addr))
  s.access u plan ns (ns.filter fun n => ((bs.filter fun b => b.addr / 256 == n).map (·.addr)).eraseDups.length == 256)

/-- A unit's transfer has its turn at every site: what it writes is written at its places, which it then leaves, and what waited behind it
goes on (09 R243). -/
def State.finishXfer (s : State) (u plan : Nat) (bs : List ByteOut) : State :=
  ((s.putBytes (some u) plan bs).leavePlace u).drainSites

/-- A partial write of unit `u` waits on a full buffer, and so does the unit (09 R244). -/
def State.stalled (s : State) (u : Nat) : Bool :=
  s.sites.any fun e => e.2.queue.any fun q => match q with
    | .part _ _ _ _ _ v => v == some u
    | _ => false

/-! ### Unpacking (05 Table 5.2, R140; 03 R74) -/

/-- Native code to the code at pocket width: odd widths are sign-extended. -/
def unpack (etype code : Nat) : Nat :=
  let w := nativeBits etype
  if 0x10 ≤ etype then wrapInt (sext (code % 2 ^ w) w) (pocketWidth etype) else code

/-! ### Window gather (07 R179 to R181) -/

def winOh (m : Desc) (w : Rec) : Int :=
  ((m.size 1 : Int) + rf w 1 56 8 + rf w 1 48 8 - (rf w 0 8 8 * (rf w 0 32 8 - 1 : Int)) - 1) / (rf w 0 20 4 : Int) + 1
def winOw (m : Desc) (w : Rec) : Int :=
  ((m.size 0 : Int) + rf w 1 40 8 + rf w 1 32 8 - (rf w 0 0 8 * (rf w 0 24 8 - 1 : Int)) - 1) / (rf w 0 16 4 : Int) + 1

/-- Map element of column `n` and K position `k0 + j`, none where the gather writes FILL. -/
def gatherAt (m : Desc) (w : Rec) (cinp b p k : Nat) : Option (List Nat) :=
  let oh := winOh m w
  let ow := winOw m w
  if oh ≤ 0 ∨ ow ≤ 0 ∨ oh * ow ≤ (p : Int) ∨ cinp = 0 then none
  else
    let t := k / cinp
    let c := k % cinp
    let kw := rf w 0 24 8
    let oy := (p : Int) / ow
    let ox := (p : Int) % ow
    let iy := oy * rf w 0 20 4 - rf w 1 56 8 + (t / kw : Nat) * (rf w 0 8 8 : Int)
    let ix := ox * rf w 0 16 4 - rf w 1 40 8 + (t % kw : Nat) * (rf w 0 0 8 : Int)
    let nb := if m.rank = 4 then m.size 3 else 1
    if m.size 2 ≤ c ∨ nb ≤ b ∨ iy < 0 ∨ (m.size 1 : Int) ≤ iy ∨ ix < 0 ∨ (m.size 0 : Int) ≤ ix then none
    else some ([ix.toNat, iy.toNat, c] ++ (if m.rank = 4 then [b] else []))

/-- Chain length and group length of the nest that a window record names (06 Table 6.2). A record with no nest takes chain
length 1 and the map's GSZ (log 17). -/
def Plan.nestOf (p : Plan) (m : Desc) (w : Rec) : Nat × Nat :=
  match p.nests[rf w 0 48 16]? with
  | some n => (rf n 0 24 3 + 1, 16 * 2 ^ rf n 0 22 2)
  | none => (1, m.gsz)

/-- Input channels rounded up to a multiple of `8 · L · G` (07 R180). -/
def cinpOf (c l g : Nat) : Nat := ceilDiv c (8 * l * g) * (8 * l * g)

/-- The window record whose map is descriptor `n`. -/
def Plan.windowOf (p : Plan) (n : Nat) : Option Rec := p.windows.find? fun w => rf w 1 16 16 == n

/-- Positions of a window gather's panel: 32 columns of `8 · G` rows of K, whatever the descriptor's extents (log 46). -/
def gatherBlock (p : Plan) (m : Desc) (w : Rec) (p0 b k0 : Nat) : List (Option (List Nat)) :=
  let lg := p.nestOf m w
  let cinp := cinpOf (m.size 2) lg.1 lg.2
  (List.range 32).flatMap fun n => (List.range (8 * lg.2)).map fun j =>
    -- the pass lies within one tap: channels beyond the tap are out of range
    if cinp ≤ k0 % max 1 cinp + j then none else gatherAt m w cinp b (p0 + n) (k0 + j)

end Sys2Proof.Machine
end

