-- ==== Sys2Proof/Machine/Journal.lean ====
section
/-! DEFINITION. The journal (13 R377 to R379, R477) and its writes to the eMMC. -/

namespace Sys2Proof.Machine

/-- Records of the hub buffer (13 R378). -/
def jrnBufMax : Nat := 4096
/-- Records of the eMMC ring (13 R378). -/
def jrnRingMax : Nat := 8388608

/-- Append a record: it takes the next INDEX. -/
def State.journal (s : State) (r : JrnRec) : State :=
  { s with jrn := { s.jrn with next := s.jrn.next + 1, buf := s.jrn.buf ++ [{ r with index := s.jrn.next }] } }

/-- A directive's record, or a count of it while the buffer is full (13 R378). -/
def State.journalDir (s : State) (r : JrnRec) : State :=
  if jrnBufMax ≤ s.jrn.buf.length then
    { s with jrn := { s.jrn with lost := satInc s.jrn.lost, lostPend := s.jrn.lostPend + 1 } }
  else s.journal r

/-- Body of a device entry (13 Table 13.15). -/
def State.devEntry (s : State) (body : Rec) : State :=
  s.journal { index := 0, kind := 1, outcome := 0, arrivalFrame := s.frm.frame, reason := 0, port := 0,
              effectFrame := s.frm.frame, time := s.ptpNow, src := 0, wseq := 0, wrank := 0, wport := 0, udp := 0, body := body }

/-- Entry 1: a resume point (10 R283, 14 R392). `gen` is coded as BOT_CKPT codes it. -/
def State.resumePoint (s : State) (p gen : Nat) (g : Gen) (rewind : Bool) : State :=
  s.devEntry [word64 [(bit rewind, 12), (gen, 10), (p, 8), (1, 0)], g.step.setWidth 64, g.frame.setWidth 64,
    BitVec.ofNat 64 (g.variant % 16)]

/-- Entries 2 and 3: an image write ended (13 R376). -/
def State.imageEntry (s : State) (valid : Bool) (slot len : Nat) (version : W64) : State :=
  s.devEntry [word64 [(slot, 8), (if valid then 2 else 3, 0)], BitVec.ofNat 64 (len % 2 ^ 48), if valid then version else 0, 0]

/-- The packs that wait are stored once neither a delta nor a journal record waits for the eMMC (15 R411). -/
def State.storePacks (s : State) : State :=
  if s.itg.deltas.isEmpty && s.jrn.buf.isEmpty && !s.itg.packStores.isEmpty then
    let put (l : List Pack) (p : Pack) : List Pack := (l.filter fun q => q.packId != p.packId) ++ [p]
    { s with emmc := { s.emmc with packs := s.itg.packStores.foldl put s.emmc.packs }, itg := { s.itg with packStores := [] } }
  else s

/-- The oldest buffered record is written. The entry that counts lost directives is the next record created once the buffer has room. -/
def State.journalNext (s : State) (ok : Bool) : State :=
  match s.jrn.buf with
  | [] => s
  | r :: rs =>
    if !ok then s.fault { code := 0x0A01 }
    else
      let s := { s with jrn := { s.jrn with buf := rs, ring := r :: s.jrn.ring.take (jrnRingMax - 1) } }
      let s := if r.kind = 1 ∧ bfld (r.body.getD 0 0) 0 8 = 4 then s.fault { code := 0x0A02 } else s
      if 0 < s.jrn.lostPend then
        let n := s.jrn.lostPend
        { s with jrn := { s.jrn with lostPend := 0 } }.devEntry [4, BitVec.ofNat 64 n, 0, 0]
      else s

/-- JOURNAL_RECORD_WRITE (13 R378): the oldest buffered record goes to the ring; a failed write is logged and retried. Delta records go
before it (15 R411). -/
def journalWrite (ok : Bool) (s : State) : State := if s.itg.deltas.isEmpty then (s.journalNext ok).storePacks else s

def execJournalRecordWrite (ok : Bool) (s : State) : R :=
  .next (if s.live && decide (5 ≤ s.boot.stage) then journalWrite ok s else s)

/-- The record with an INDEX, in the ring or the buffer. -/
def State.jrnRec? (s : State) (i : W48) : Option JrnRec :=
  (s.jrn.buf.find? fun r => r.index == i) <|> (s.jrn.ring.find? fun r => r.crcOk && r.index == i)

end Sys2Proof.Machine
end

