-- ==== Sys2Proof/Machine/Crypto.lean ====
section
/-! DEFINITION. The cryptographic functions that the spec names by their standards: SHA-384 (15 R416, R418, R425, R434) and ECDSA of
FIPS 186-5 on the curve brainpoolP384r1 of RFC 5639 (15 R416, R433, R434; 14 R395). The constants are those of the standards, which the
spec does not restate (PRESUMED, log 5). -/

namespace Sys2Proof.Machine

/-! ### SHA-384 -/

/-- Round constants of SHA-512 and SHA-384. -/
def shaK : List W64 :=
  [0x428A2F98D728AE22, 0x7137449123EF65CD, 0xB5C0FBCFEC4D3B2F, 0xE9B5DBA58189DBBC,
   0x3956C25BF348B538, 0x59F111F1B605D019, 0x923F82A4AF194F9B, 0xAB1C5ED5DA6D8118,
   0xD807AA98A3030242, 0x12835B0145706FBE, 0x243185BE4EE4B28C, 0x550C7DC3D5FFB4E2,
   0x72BE5D74F27B896F, 0x80DEB1FE3B1696B1, 0x9BDC06A725C71235, 0xC19BF174CF692694,
   0xE49B69C19EF14AD2, 0xEFBE4786384F25E3, 0x0FC19DC68B8CD5B5, 0x240CA1CC77AC9C65,
   0x2DE92C6F592B0275, 0x4A7484AA6EA6E483, 0x5CB0A9DCBD41FBD4, 0x76F988DA831153B5,
   0x983E5152EE66DFAB, 0xA831C66D2DB43210, 0xB00327C898FB213F, 0xBF597FC7BEEF0EE4,
   0xC6E00BF33DA88FC2, 0xD5A79147930AA725, 0x06CA6351E003826F, 0x142929670A0E6E70,
   0x27B70A8546D22FFC, 0x2E1B21385C26C926, 0x4D2C6DFC5AC42AED, 0x53380D139D95B3DF,
   0x650A73548BAF63DE, 0x766A0ABB3C77B2A8, 0x81C2C92E47EDAEE6, 0x92722C851482353B] ++
  [0xA2BFE8A14CF10364, 0xA81A664BBC423001, 0xC24B8B70D0F89791, 0xC76C51A30654BE30,
   0xD192E819D6EF5218, 0xD69906245565A910, 0xF40E35855771202A, 0x106AA07032BBD1B8,
   0x19A4C116B8D2D0C8, 0x1E376C085141AB53, 0x2748774CDF8EEB99, 0x34B0BCB5E19B48A8,
   0x391C0CB3C5C95A63, 0x4ED8AA4AE3418ACB, 0x5B9CCA4F7763E373, 0x682E6FF3D6B2B8A3,
   0x748F82EE5DEFB2FC, 0x78A5636F43172F60, 0x84C87814A1F0AB72, 0x8CC702081A6439EC,
   0x90BEFFFA23631E28, 0xA4506CEBDE82BDE9, 0xBEF9A3F7B2C67915, 0xC67178F2E372532B,
   0xCA273ECEEA26619C, 0xD186B8C721C0C207, 0xEADA7DD6CDE0EB1E, 0xF57D4F7FEE6ED178,
   0x06F067AA72176FBA, 0x0A637DC5A2C898A6, 0x113F9804BEF90DAE, 0x1B710B35131C471B,
   0x28DB77F523047D84, 0x32CAAB7B40C72493, 0x3C9EBE0A15C9BEBC, 0x431D67C49C100D4C,
   0x4CC5D4BECB3E42B6, 0x597F299CFC657E2A, 0x5FCB6FAB3AD6FAEC, 0x6C44198C4A475817]

/-- The eight working words. -/
structure Sha where
  a : W64
  b : W64
  c : W64
  d : W64
  e : W64
  f : W64
  g : W64
  h : W64
deriving DecidableEq, Repr

/-- Initial words of SHA-384. -/
def Sha.init : Sha :=
  { a := 0xCBBB9D5DC1059ED8, b := 0x629A292A367CD507, c := 0x9159015A3070DD17, d := 0x152FECD8F70E5939,
    e := 0x67332667FFC00B31, f := 0x8EB44A8768581511, g := 0xDB0C2E0D64F98FA7, h := 0x47B5481DBEFA4FA4 }

/-- The message with its padding: a one bit, zeros, and its length in bits as 16 bytes, big-endian. -/
def shaPad (bs : List Byte) : List Byte :=
  bs ++ 0x80#8 :: List.replicate ((239 - bs.length % 128) % 128) 0 ++ (leBytes 16 (8 * bs.length)).reverse

/-- A block as 16 big-endian words, the last one first. -/
def shaWords (block : List Byte) : List W64 :=
  ((List.range 16).map fun i => BitVec.ofNat 64 (beNat ((block.drop (8 * i)).take 8))).reverse

/-- Extend the schedule by `n` words; the newest stands first. -/
def shaSchedule : Nat → List W64 → List W64
  | 0, ws => ws
  | n + 1, ws =>
    let x := ws.getD 14 0
    let y := ws.getD 1 0
    let s0 := x.rotateRight 1 ^^^ x.rotateRight 8 ^^^ x >>> (7 : Nat)
    let s1 := y.rotateRight 19 ^^^ y.rotateRight 61 ^^^ y >>> (6 : Nat)
    shaSchedule n ((ws.getD 15 0 + s0 + ws.getD 6 0 + s1) :: ws)

/-- One round with a constant and a schedule word. -/
def Sha.round (x : Sha) (kw : W64 × W64) : Sha :=
  let s1 := x.e.rotateRight 14 ^^^ x.e.rotateRight 18 ^^^ x.e.rotateRight 41
  let t1 := x.h + s1 + ((x.e &&& x.f) ^^^ (~~~x.e &&& x.g)) + kw.1 + kw.2
  let s0 := x.a.rotateRight 28 ^^^ x.a.rotateRight 34 ^^^ x.a.rotateRight 39
  let t2 := s0 + ((x.a &&& x.b) ^^^ (x.a &&& x.c) ^^^ (x.b &&& x.c))
  { a := t1 + t2, b := x.a, c := x.b, d := x.c, e := x.d + t1, f := x.e, g := x.f, h := x.g }

/-- One block of 128 bytes. -/
def Sha.block (x : Sha) (block : List Byte) : Sha :=
  let y := (shaK.zip (shaSchedule 64 (shaWords block)).reverse).foldl Sha.round x
  { a := x.a + y.a, b := x.b + y.b, c := x.c + y.c, d := x.d + y.d, e := x.e + y.e, f := x.f + y.f, g := x.g + y.g, h := x.h + y.h }

/-- SHA-384 of a byte string; its first byte is the most significant. -/
def sha384 (bs : List Byte) : BitVec 384 :=
  let p := shaPad bs
  let x := (chunks 128 p.length p).foldl Sha.block Sha.init
  x.a ++ x.b ++ x.c ++ x.d ++ x.e ++ x.f

/-! ### The curve brainpoolP384r1 -/

def ecP : Nat := 0x8CB91E82A3386D280F5D6F7E50E641DF152F7109ED5456B412B1DA197FB71123ACD3A729901D1A71874700133107EC53
def ecA : Nat := 0x7BC382C63D8C150C3C72080ACE05AFA0C2BEA28E4FB22787139165EFBA91F90F8AA5814A503AD4EB04A8C7DD22CE2826
def ecB : Nat := 0x04A8C7DD22CE28268B39B55416F0447C2FB77DE107DCD2A62E880EA53EEB62D57CB4390295DBC9943AB78696FA504C11
def ecN : Nat := 0x8CB91E82A3386D280F5D6F7E50E641DF152F7109ED5456B31F166E6CAC0425A7CF3AB6AF6B7FC3103B883202E9046565
/-- The base point. -/
def ecG : Nat × Nat :=
  (0x1D1C64F068CF45FFA2A63A81B7C13F6B8847A3E77EF14FE3DB7FCAFE0CBD10E8E826E03436D646AAEF87B2E247D4AF1E,
   0x8ABE1D7520F9C2A45CB1EB8E95CFD55262B70B29FEEC5864E19C054FF99129280E4646217791811142820341263C5315)

/-- `b ^ e mod m`, for an exponent of at most `k` bits. -/
def powMod (m : Nat) : Nat → Nat → Nat → Nat
  | 0, _, _ => 1 % m
  | k + 1, b, e =>
    let r := powMod m k (b * b % m) (e / 2)
    if e % 2 = 1 then b * r % m else r

/-- Inverse modulo a prime of 384 bits. -/
def invMod (m x : Nat) : Nat := powMod m 384 (x % m) (m - 2)

/-- A point of the curve; none is the point at infinity. -/
abbrev EcPoint := Option (Nat × Nat)

/-- Two coordinates below the field prime on the curve. -/
def onCurve (q : Nat × Nat) : Bool :=
  decide (q.1 < ecP) && decide (q.2 < ecP) && q.2 * q.2 % ecP == (q.1 * q.1 * q.1 + ecA * q.1 + ecB) % ecP

/-- The third point of the line of slope `l` through `a` and a point with abscissa `x`, mirrored. -/
def ecChord (l : Nat) (a : Nat × Nat) (x : Nat) : EcPoint :=
  let x3 := (l * l + 2 * ecP - a.1 - x) % ecP
  some (x3, (l * (a.1 + ecP - x3) + ecP - a.2) % ecP)

/-- Sum of two points. -/
def ecAdd (p q : EcPoint) : EcPoint :=
  match p, q with
  | none, q => q
  | p, none => p
  | some a, some b =>
    if a.1 = b.1 then
      if (a.2 + b.2) % ecP = 0 then none
      else ecChord ((3 * a.1 * a.1 + ecA) * invMod ecP (2 * a.2) % ecP) a b.1
    else ecChord ((b.2 + ecP - a.2) * invMod ecP (b.1 + ecP - a.1) % ecP) a b.1

/-- Multiple of a point by a scalar of at most `n` bits. -/
def ecMul : Nat → Nat → EcPoint → EcPoint
  | 0, _, _ => none
  | n + 1, k, p =>
    let r := ecMul n (k / 2) (ecAdd p p)
    if k % 2 = 1 then ecAdd p r else r

/-! ### ECDSA -/

/-- r and s of a signature: 48 bytes each, big-endian. -/
def sigPair (sig : List Byte) : Nat × Nat := (beNat (sig.take 48), beNat ((sig.drop 48).take 48))

/-- r and s lie in [1, n − 1]. -/
def sigRange (rs : Nat × Nat) : Bool := decide (0 < rs.1) && decide (rs.1 < ecN) && decide (0 < rs.2) && decide (rs.2 < ecN)

/-- The signature verifies for a digest under a point (15 R416). -/
def ecdsaOk (q : Nat × Nat) (z : BitVec 384) (rs : Nat × Nat) : Bool :=
  let w := invMod ecN rs.2
  let x := ecAdd (ecMul 384 (z.toNat * w % ecN) (some ecG)) (ecMul 384 (rs.1 * w % ecN) (some q))
  sigRange rs && onCurve q && ((x.map fun e => e.1 % ecN == rs.1).getD false)

/-- The signature of bytes verifies under a public key: X, then Y, 48 bytes each, big-endian (15 Table 15.4). -/
def signatureOk (key bs sig : List Byte) : Bool := ecdsaOk (sigPair key) (sha384 bs) (sigPair sig)

/-- A public key as the 96 bytes that an OTP slot holds the SHA-384 of. -/
def keyBytes (q : Nat × Nat) : List Byte := (leBytes 48 q.1).reverse ++ (leBytes 48 q.2).reverse

/-- The points under which a signature of a digest can verify: those that its r admits. -/
def signers (z : BitVec 384) (rs : Nat × Nat) : List (Nat × Nat) :=
  let w := invMod ecN rs.1
  let xs := [rs.1, rs.1 + ecN].filter fun x => decide (x < ecP)
  let pts := xs.flatMap fun x =>
    let y := powMod ecP 384 ((x * x * x + ecA * x + ecB) % ecP) ((ecP + 1) / 4)
    [(x, y), (x, (ecP - y) % ecP)].filter onCurve
  pts.filterMap fun r =>
    ecAdd (ecMul 384 (rs.2 * w % ecN) (some r)) (ecMul 384 ((ecN - z.toNat % ecN) * w % ecN) (some ecG))

/-- The signature of bytes verifies under the key whose SHA-384 is given (14 R395): the key itself stands nowhere in a pack, so each key
that the signature admits is tried. -/
def keyedSignatureOk (digest : BitVec 384) (bs sig : List Byte) : Bool :=
  let z := sha384 bs
  let rs := sigPair sig
  sigRange rs && (signers z rs).any fun q => sha384 (keyBytes q) == digest && ecdsaOk q z rs

/-- Signature of a digest by a private key with the secret number `k` (15 R433, R434). -/
def ecdsaSign (d k : Nat) (z : BitVec 384) : BitVec 768 :=
  let r := ((ecMul 384 k (some ecG)).map fun e => e.1 % ecN).getD 0
  let s := invMod ecN k * (z.toNat + r * d) % ecN
  BitVec.ofNat 384 r ++ BitVec.ofNat 384 s

end Sys2Proof.Machine
end

