-- ==== Sys2Proof/Machine/Parse.lean ====
section
/-! DEFINITION. The bytes of an Evoux image, of its sections and of a pattern pack as the device reads them (15 R415 to R421, Tables
15.4 to 15.8; 14 R395, Table 14.4). The parts whose layout the spec does not state (slot entries, mover command lists, twin maps,
engine programs, the firmware) are free functions of the bytes (log 4). -/

namespace Sys2Proof.Machine

/-! ### Fields of a byte string -/

/-- `n` bytes from offset `o`; fewer where the string ends. -/
def part (bs : List Byte) (o n : Nat) : List Byte := (bs.drop o).take n
/-- A little-endian number of `n` bytes (00 R8); bytes beyond the string read 0. -/
def numAt (bs : List Byte) (o n : Nat) : Nat := leNat (part bs o n)
def wordAt (bs : List Byte) (o : Nat) : W64 := BitVec.ofNat 64 (numAt bs o 8)
/-- `n` 64-bit words from offset `o`. -/
def wordsAt (bs : List Byte) (o n : Nat) : Rec := (List.range n).map fun i => wordAt bs (o + 8 * i)
/-- A table of `n` numbers of `k` bytes each; no longer than the string can hold. -/
def numsAt (bs : List Byte) (o n k : Nat) : List Nat := (List.range (min n bs.length)).map fun i => numAt bs (o + k * i) k
/-- A table of `n` 32-bit words. -/
def w32sAt (bs : List Byte) (o n : Nat) : List W32 := (numsAt bs o n 4).map (BitVec.ofNat 32)
/-- A table of `n` records of `k` words each. -/
def recsAt (bs : List Byte) (o n k : Nat) : List Rec := (List.range (min n bs.length)).map fun i => wordsAt bs (o + 8 * k * i) k
/-- A big-endian number (00 R8, 15 R415). -/
def bigAt (bs : List Byte) (o n : Nat) : Nat := beNat (part bs o n)

/-! ### Pattern packs (14 R395) -/

/-- The slot program at an offset, up to and with its first END, in at most `n` instructions; none where there is no END (14 R389). -/
def sliceCode : Nat → List Byte → Option (List W128)
  | 0, _ => none
  | n + 1, bs =>
    let w := BitVec.ofNat 128 (numAt bs 0 16)
    if bs.length < 16 then none
    else if bfld w 120 8 = 0x0F then some [w]
    else (sliceCode n (bs.drop 16)).map (w :: ·)

/-- The slice of record `i` of a pack: a program of at most 256 instructions, and inputs whose first 64 bytes give their length, at most 4
KB, both within the body (14 R389, R395; log 15). -/
def parseSlice (bs : List Byte) (i : Nat) : Option Slice :=
  let body := bs.take (bs.length - 96)
  let r := 64 + 16 * i
  let input := 16 * numAt bs r 2
  let len := numAt body input 64
  match sliceCode 256 (body.drop (16 * numAt bs (r + 2) 2)) with
  | some c =>
    if input + 64 ≤ body.length ∧ len ≤ 4096 ∧ input + len ≤ body.length then
      some { cycles := numAt bs (r + 4) 4, prog := numAt bs (r + 2) 2, input := numAt bs r 2, crc := wordAt bs (r + 8), code := c,
             data := part body input len }
    else none
  | none => none

/-- Every element, or none. -/
def allSome {α : Type} : List (Option α) → Option (List α)
  | [] => some []
  | none :: _ => none
  | some x :: xs => (allSome xs).map (x :: ·)

/-- A pack in form: the tag "NKPP", PACKID and NSLICE in range, LENGTH the bytes received, the rest of the header 0, room for the slice
records and the signature, and every slice in form. -/
def parsePack (bs : List Byte) : Option Pack :=
  let n := numAt bs 6 2
  if part bs 0 4 = [0x4E, 0x4B, 0x50, 0x50] ∧ numAt bs 4 2 ≠ 0 ∧ 1 ≤ n ∧ n ≤ 1024 ∧ numAt bs 12 4 = bs.length ∧ bs.length ≤ 4194304 ∧
      (part bs 16 48).all (· == 0) = true ∧ 64 + 16 * n + 96 ≤ bs.length then
    (allSome ((List.range n).map (parseSlice bs))).map fun l =>
      { packId := numAt bs 4 2, version := numAt bs 8 4, length := bs.length, slices := l, active := false, bytes := bs }
  else none

/-- The signature of a pack verifies under some key slot that is not revoked (14 R395, 15 R416). -/
def packSigned (o : Otp) (bs : List Byte) : Bool :=
  let body := bs.take (bs.length - 96)
  (List.range 4).any fun k => !o.revoked.getLsbD k && keyedSignatureOk (o.keys.getD k 0) body (bs.drop (bs.length - 96))

/-! ### The plan section (15 Table 15.8) -/

/-- The pointer word at offset `o`: plan offset and count. -/
def pointerAt (bs : List Byte) (o : Nat) : Nat × Nat := (numAt bs (o + 4) 4, numAt bs o 4)

/-- Frames of a step table: 18 frame-table numbers of 16 bits each (01 R19), one frame after another. A last row cut short shows it. -/
def parseRows : Nat → List Byte → List (List Nat)
  | 0, _ => []
  | n + 1, bs => if bs.isEmpty then [] else numsAt bs 0 (min 18 (bs.length / 2)) 2 :: parseRows n (bs.drop 36)

/-- Further step tables, each with its header and UFRAME values (01 R25), as many as the bytes hold. -/
def parseSteps : Nat → List Byte → List StepTable
  | 0, _ => []
  | n + 1, bs =>
    if bs.isEmpty then []
    else
      let len := numAt bs 6 2
      let nuf := numAt bs 4 2
      let rest := bs.drop (8 + 2 * nuf)
      { stepLen := len, uframes := numsAt bs 8 nuf 2, frames := parseRows len (rest.take (36 * len)) } :: parseSteps n (rest.drop (36 * len))

/-- A topology variant and the bytes it takes: record (10 R276), tree table (11 R296) and twin map (14 R393). -/
def parseVariant (bs : List Byte) : Variant × Nat :=
  let m := Config.twinMap (bs.drop (2128 + 4096))
  ({ head := wordAt bs 0
     ranks := wordAt bs 8
     links := numsAt bs 16 64 1
     routes := (List.range 64).map fun r => (List.range 64).map fun k => fld (numAt bs (80 + 32 * r + k / 2) 1) (4 * (k % 2)) 4
     trees := (List.range 64).map fun o => (List.range 64).map fun r => numAt bs (2128 + 64 * o + r) 1
     twins := m.1 }, 2128 + 4096 + m.2)

def parseVariants : Nat → List Byte → List Variant
  | 0, _ => []
  | n + 1, bs => if bs.isEmpty then [] else let v := parseVariant bs; v.1 :: parseVariants n (bs.drop v.2)

/-- Delivery tables of a lane, one for each step table (12 R343). -/
def parseDtab : Nat → List Byte → List (List W32)
  | 0, _ => []
  | n + 1, bs => let k := min (numAt bs 0 4) bs.length; w32sAt bs 4 k :: parseDtab n (bs.drop (4 + 4 * k))

/-- The tables of a plan that a lane record names (12 Table 12.2, R326, R337, R339, R340, R343, R349). -/
def parseLaneTab (bs : List Byte) (nsteps : Nat) (r : Rec) : LaneTab :=
  let kind := rf r 0 55 3
  let ppm := rf r 1 16 16
  let rs := rf r 7 0 32
  { lane := rf r 0 60 4
    norm := if kind = 0 ∨ kind = 1 then
        (recsAt bs (rf r 6 0 32) (if kind = 0 then rf r 6 57 2 else rf r 6 40 4) 1).map fun e =>
          (BitVec.ofNat 32 (rf e 0 0 32), BitVec.ofNat 32 (rf e 0 32 32))
      else []
    filter := if kind = 1 then (List.range 64).map fun i => w32sAt bs (rs + 128 * i) 32 else []
    window := if kind = 1 then w32sAt bs (rs + 8192) (rf r 7 48 16) else []
    merges := if kind = 2 then
        (recsAt bs (rf r 6 0 32) (rf r 6 32 19 - 256) 1).map fun e => (rf e 0 0 32, rf e 0 32 32)
      else []
    slist := if kind = 3 then numsAt bs rs ppm 2 else []
    dtab := parseDtab nsteps (bs.drop (rf r 5 32 32))
    pattern := numsAt bs (rf r 5 0 32) ppm 1 }

/-- Bytes of `n` variants with their tree tables and twin maps; one more where the bytes end before. -/
def variantBytes : Nat → List Byte → Nat
  | 0, _ => 0
  | n + 1, bs => if bs.isEmpty then 1 else let v := parseVariant bs; v.2 + variantBytes n (bs.drop v.2)

/-- The pointers of a fixed count hold it (15 Table 15.8); the breach has no code of its own (log 38). -/
def countsOk (bs : List Byte) : Bool :=
  decide ((pointerAt bs 0x60).2 ≤ 1) && (pointerAt bs 0x70).2 == 1 && decide ((pointerAt bs 0x78).2 ≤ 1) && (pointerAt bs 0xA8).2 == 6

/-- Spans of the tables of a plan section: offset, bytes. A frame table, whose layout is not stated, counts as one byte (log 38). -/
def planSpans (bs : List Byte) (q : Plan) : List (Nat × Nat) :=
  let ptr (o k : Nat) : List (Nat × Nat) := let p := pointerAt bs o; if p.2 = 0 then [] else [(p.1, k * p.2)]
  let sub (o n : Nat) : List (Nat × Nat) := if n = 0 then [] else [(o, n)]
  ptr 0x10 1 ++ ptr 0x18 1 ++ ptr 0x20 1 ++ ptr 0x28 128 ++ ptr 0x30 96 ++ ptr 0x38 4 ++ ptr 0x40 32 ++ ptr 0x48 48 ++ ptr 0x50 16 ++
  (let p := pointerAt bs 0x58; if p.2 = 0 then [] else [(p.1, variantBytes (min p.2 5) (bs.drop p.1))]) ++ ptr 0x60 64 ++ ptr 0x68 48 ++ ptr 0x70 8 ++ ptr 0x78 32 ++ ptr 0x80 8 ++ ptr 0x88 112 ++ ptr 0x90 2 ++ ptr 0x98 2 ++
  ptr 0xA0 8 ++ ptr 0xA8 2 ++
  (match q.training with
   | none => []
   | some r => sub (rf r 3 32 32) (16 * rf r 1 20 12) ++ sub (rf r 3 0 32) (256 * q.variants.length * rf r 1 56 8) ++
       sub (rf r 4 32 32) (16 * rf r 2 24 8) ++ sub (rf r 4 0 32) (4 * rf r 2 17 7) ++ sub (rf r 5 32 32) (16 * rf r 1 8 12) ++
       q.experts.flatMap fun e => sub (rf e 1 32 32) (256 * q.variants.length)) ++
  (match q.ckpt with
   | none => []
   | some r => sub (rf r 1 32 32) (8 * rf r 0 48 16))

/-- Spans of the tables that a lane record names. -/
def laneSpans (r : Rec) (t : LaneTab) : List (Nat × Nat) :=
  [(rf r 5 32 32, (t.dtab.map fun l => 4 + 4 * l.length).foldl (· + ·) 0), (rf r 5 0 32, rf r 1 16 16),
   (if rf r 0 55 3 = 3 then 0 else rf r 6 0 32, 8 * (t.norm.length + t.merges.length)),
   (if rf r 0 55 3 = 1 then (rf r 7 0 32, 8192 + 4 * rf r 7 48 16) else (0, 0)),
   (if rf r 0 55 3 = 3 then (rf r 7 0 32, 2 * rf r 1 16 16) else (0, 0))]

/-- A plan section. `lanes` are the plan's lane records, `pfp` the first 16 bytes of the section's digest (R418). -/
def parsePlan (bs : List Byte) (pfp : W128) (lanes : List Rec) : Plan :=
  let ptr := pointerAt bs
  let recs (o k : Nat) : List Rec := recsAt bs (ptr o).1 (ptr o).2 k
  let one (o k : Nat) : Option Rec := if (ptr o).2 = 0 then none else some (wordsAt bs (ptr o).1 k)
  let words (o : Nat) : List W64 := (recs o 1).map fun r => r.getD 0 0
  let len := numAt bs 14 2
  let st := part bs (ptr 0x10).1 (ptr 0x10).2
  let steps := if st.isEmpty then [] else
    { stepLen := len, uframes := [], frames := parseRows len (st.take (36 * len)) } :: parseSteps 4 (st.drop (36 * len))
  let nv := (ptr 0x58).2
  let vs := if nv = 0 then [] else parseVariants (min nv 5) (bs.drop (ptr 0x58).1)
  let tr := one 0x60 8
  let tab (o n k : Nat) : List Rec := recsAt bs o n k
  let q : Plan := {
    head0 := wordAt bs 0
    head1 := wordAt bs 8
    steps := steps
    tables := Config.frameTables bs
    programs := (numsAt bs (ptr 0x20).1 ((ptr 0x20).2 / 16) 16).map (BitVec.ofNat 128)
    moverLists := Config.moverLists bs
    descs := (numsAt bs (ptr 0x28).1 (ptr 0x28).2 128).map (BitVec.ofNat 1024)
    nests := recs 0x30 12
    nestProgs := Config.nestPrograms bs
    visits := w32sAt bs (ptr 0x38).1 (ptr 0x38).2
    windows := recs 0x40 4
    stripes := recs 0x48 6
    sinks := recs 0x50 2
    variants := vs
    training := tr
    layers := (tr.map fun r => tab (rf r 3 32 32) (rf r 1 20 12) 2).getD []
    mbmap := (tr.map fun r => w32sAt bs (rf r 3 0 32) (64 * vs.length * rf r 1 56 8)).getD []
    lrtab := (tr.map fun r => (tab (rf r 4 32 32) (rf r 2 24 8) 2).map fun e =>
      (BitVec.ofNat 48 (rf e 0 0 48), BitVec.ofNat 32 (rf e 1 0 32))).getD []
    grpmul := (tr.map fun r => w32sAt bs (rf r 4 0 32) (rf r 2 17 7)).getD []
    experts := (tr.map fun r => tab (rf r 5 32 32) (rf r 1 8 12) 2).getD []
    hosts := ((tr.map fun r => tab (rf r 5 32 32) (rf r 1 8 12) 2).getD []).map fun e => (List.range vs.length).map fun v =>
      numsAt bs (rf e 1 32 32 + 256 * v) (rf e 0 40 8 + 1) 1
    reds := recs 0x68 6
    integrity := ((one 0x70 1).map fun r => r.getD 0 0).getD 0
    ckpt := one 0x78 4
    persist := ((one 0x78 4).map fun r => (tab (rf r 1 32 32) (rf r 0 48 16) 1).map fun e => e.getD 0 0).getD []
    watches := words 0x80
    portDecl := (recs 0x88 14).map fun r => r.map (·.toNat)
    initTab := numsAt bs (ptr 0x90).1 (ptr 0x90).2 2
    restoreTab := numsAt bs (ptr 0x98).1 (ptr 0x98).2 2
    carry := words 0xA0
    shares := numsAt bs (ptr 0xA8).1 (ptr 0xA8).2 2
    laneTabs := lanes.map (parseLaneTab bs steps.length)
    streams := (tr.map fun r => rf r 5 16 16).toList ++ (Config.planFacts bs).engines.flatMap fun e => e.jobs.filterMap EngineJob.stream?
    pfp := pfp
    beyond := false
    facts := Config.planFacts bs }
  { q with beyond := !countsOk bs || (planSpans bs q ++ (lanes.zip q.laneTabs).flatMap fun e => laneSpans e.1 e.2).any fun e =>
             e.2 != 0 && decide (bs.length < e.1 + e.2) }

/-! ### The image (15 Table 15.4) -/

/-- Entry `k` of the section table (Table 15.5). -/
def parseSection (bs : List Byte) (k : Nat) : Section :=
  let e := part bs (0x80 + 80 * k) 80
  { type := numAt e 0 2
    index := numAt e 2 2
    reserved := numAt e 4 4 + numAt e 0x18 8
    offset := numAt e 8 8
    length := numAt e 0x10 8
    digestOk := (sha384 (part bs (numAt e 8 8) (numAt e 0x10 8))).toNat == bigAt e 0x20 48 }

/-- A spare-map delta record (14 Table 14.4). -/
def parseDelta (r : Rec) : Delta :=
  { kind := rf r 0 56 8, unit := rf r 0 48 8, frame := rf r 0 0 48, spare := rf r 1 32 32, index := rf r 1 0 32, cause := rf r 2 48 16,
    crcOk := crc32 (wordsBytes (r.take 3)) == rf r 3 0 32 }

/-- Intake configuration (15 R420). -/
def parseIntake (bs : List Byte) : IntakeCfg :=
  { nlane := numAt bs 0 1 % 32
    lanes := (List.range 16).map fun i => wordsAt bs (0x40 + 64 * i) 8
    buckets := (List.range 4).map fun p => (List.range 16).map fun b => wordsAt bs (0x440 + 256 * p + 16 * b) 2 }

/-- The image that the bytes are. -/
def parseImage (bs : List Byte) : Image :=
  let n := numAt bs 6 2
  let secs := (List.range (min n 48)).map (parseSection bs)
  let bytesOf (x : Section) : List Byte := part bs x.offset x.length
  let first (t : Nat) : Option (List Byte) := (secs.find? fun x => x.type == t).map bytesOf
  let intake := (first 3).map parseIntake
  let lanesOf (p : Nat) : List Rec := ((intake.map fun c => c.lanes.take c.nlane).getD []).filter fun r => rf r 0 58 2 == p
  { magicOk := part bs 0 4 == [0x4E, 0x4B, 0x45, 0x56]
    format := numAt bs 4 2
    nsect := n
    version := numAt bs 8 8
    length := numAt bs 0x10 8
    stepping := numAt bs 0x18 1
    keyIdx := numAt bs 0x19 1
    keyDigest := sha384 (part bs 0x20 96)
    sigOk := signatureOk (part bs 0x20 96) (part bs 0 0xF80) (part bs 0xF80 96)
    hdrDigest := sha384 (part bs 0 0xFE0)
    sections := secs
    device := ((first 2).map fun b => wordsAt b 0 ((b.length + 7) / 8)).getD []
    intake := intake
    deltas := ((first 4).map fun b => (recsAt b 0 (b.length / 32) 4).map parseDelta).getD []
    packs := (secs.filter fun x => x.type == 5).map bytesOf
    builtin := ((first 1).map Config.builtinSlices).getD []
    plans := (List.range 4).map fun p => ((secs.zipIdx.find? fun e => e.1.type == 6 && e.1.index == p)).map fun e =>
      parsePlan (bytesOf e.1) (BitVec.ofNat 128 (numAt (part bs (0x80 + 80 * e.2) 80) 0x20 16)) (lanesOf p) }

end Sys2Proof.Machine
end

