-- ==== Sys2Proof/Machine/ImageCheck.lean ====
section
/-! DEFINITION. The checks of an Evoux image (15 R416 to R419; 01 R14, R15, R34), the image directory (15 R412), and the closing of
an image write (13 R376). -/

namespace Sys2Proof.Machine

/-- The period and lull obey 01 R14 and R15. -/
def lullOk (p l : Nat) : Bool :=
  decide (250 ≤ p) && decide (p ≤ 16000) && decide (20 ≤ l) && decide (ceilDiv p 50 ≤ l) && decide (l ≤ p / 2)

/-- Bytes of a slot (15 Table 15.2). -/
def slotSize : Nat := 6 * 2 ^ 30

/-- The header is valid but for its section table (15 R416). -/
def Image.headerOk (i : Image) (o : Otp) : Bool :=
  i.magicOk && i.format == 1 && i.stepping == 0xB0 && decide (1 ≤ i.nsect) && decide (i.nsect ≤ 48) &&
  decide (1 ≤ i.length) && decide (i.length ≤ slotSize) && decide (i.keyIdx < 4) &&
  o.keys.getD i.keyIdx 0 == i.keyDigest && !o.revoked.getLsbD i.keyIdx && i.sigOk

/-- An entry of the section table is in form (15 R415, R417, Table 15.6). -/
def Section.ok (x : Section) : Bool :=
  x.reserved == 0 && x.offset % 256 == 0 && decide (4096 ≤ x.offset) &&
  (match x.type with
   | 1 | 2 | 3 | 4 => x.index == 0
   | 5 => decide (x.index < 16)
   | 6 => decide (x.index < 4)
   | _ => false)

/-- Two sections do not overlap (15 R415). -/
def Section.apart (x y : Section) : Bool := decide (x.offset + x.length ≤ y.offset) || decide (y.offset + y.length ≤ x.offset)

def allApart : List Section → Bool
  | [] => true
  | x :: xs => xs.all x.apart && allApart xs

/-- Sections of a type. -/
def Image.ofType (i : Image) (t : Nat) : List Section := i.sections.filter fun x => x.type == t

/-- The section table is in form (15 R417). -/
def Image.sectionsOk (i : Image) : Bool :=
  i.sections.length == i.nsect && i.sections.all Section.ok && allApart i.sections &&
  (i.ofType 1).length == 1 && (i.ofType 2).length == 1 && decide ((i.ofType 3).length ≤ 1) &&
  decide ((i.ofType 4).length ≤ 1) && decide ((i.ofType 5).length ≤ 16) &&
  (List.range 4).all fun p => decide (((i.ofType 6).filter fun x => x.index == p).length ≤ 1)

/-- IDLEP and IDLEL of a device configuration, 0 standing for 1,000 and 20 (01 R34). -/
def idleP (r : Rec) : Nat := if rf r 0 48 16 = 0 then 1000 else rf r 0 48 16
def idleL (r : Rec) : Nat := if rf r 0 32 16 = 0 then 20 else rf r 0 32 16

/-- One word of the site table is in form (09 R227). -/
def siteWordOk (w : W64) : Bool :=
  let tier := bfld w 62 2
  let rate := bfld w 56 6
  bfld w 0 40 == 0 &&
  (if tier = 0 then rate == 0 && bfld w 40 16 == 0
   else decide (64 ≤ bfld w 40 16) && (if tier = 1 then [32, 36, 40, 44, 48].contains rate
     else tier == 2 && [32, 36, 40].contains rate))

/-- Site table of a configuration, site 0 first. -/
def siteWord (r : Rec) (i : Nat) : W64 := r.getD (1 + i) 0

/-- The host configuration breaks no range (13 R359): the last byte of V6BASE is byte 7 of its second word. -/
def hostCfgOk (r : Rec) : Bool :=
  rf r 45 56 6 == 0 && rf r 46 62 2 == 0 && rf r 46 44 1 == 0 && decide (rf r 47 48 16 ≤ 256)

/-- Lane records beyond NLANE are zero (15 R420). An NLANE above 16 is INTAKE_FORM at validation (12 R327). -/
def IntakeCfg.ok (c : IntakeCfg) : Bool := (c.lanes.drop c.nlane).all fun r => r.all (· == 0)

/-- The device configuration breaks no rule (15 R419, R438; 01 R34). -/
def Image.configOk (i : Image) : Bool :=
  let w := rf i.device 0 16 16
  decide (1 ≤ w) && decide (w ≤ 600) && lullOk (idleP i.device) (idleL i.device) &&
  !(rf i.device 0 8 4).testBit i.keyIdx && rf i.device 0 12 4 == 0 && rf i.device 0 6 2 == 0 &&
  (List.range 24).all (fun k => siteWordOk (siteWord i.device k)) && hostCfgOk i.device && (i.intake.map IntakeCfg.ok).getD true

/-- No token table names a token at or above its own number (12 R337). -/
def Image.tokensOk (i : Image) : Bool :=
  i.plans.all fun q => (q.map fun q => q.laneTabs.all fun t =>
    t.merges.zipIdx.all fun e => decide (e.1.1 < 256 + e.2 ∧ e.1.2 < 256 + e.2)).getD true

/-- The key slots as this start-up sees them: a revocation applies from the next one (15 R416). -/
def State.keyring (s : State) : Otp := { s.otp with revoked := s.boot.revoked }

/-- Header and configuration are valid. -/
def Image.valid (i : Image) (o : Otp) : Bool := i.headerOk o && i.sectionsOk && i.configOk && i.tokensOk

/-- Every section that satisfies `t` matches its digest (15 R418). -/
def Image.digestsOk (i : Image) (t : Nat → Bool) : Bool := i.sections.all fun x => !t x.type || x.digestOk

/-! ### The directory (15 R412) -/

/-- Bytes of a slot entry, HDIGEST's first byte first. -/
def DirSlot.toBytes (x : DirSlot) : List Byte :=
  leBytes 8 (x.state % 256) ++ leBytes 8 x.version ++ leBytes 8 x.length ++ (leBytes 40 x.hdigest.toNat).reverse

/-- Bytes 0x000 to 0xFFB of a copy (15 Table 15.3). -/
def DirCopy.toBytes (d : DirCopy) : List Byte :=
  leBytes 4 d.tag.toNat ++ leBytes 4 d.gen ++ leBytes 8 (d.select % 256) ++ d.slotA.toBytes ++ d.slotB.toBytes ++
  List.replicate (0xFFC - 0x90) 0

/-- The tag "NKID". -/
def dirTag : W32 := 0x44494B4E

/-- A copy is good when its TAG and CRC are correct. -/
def DirCopy.good (d : DirCopy) : Bool := d.tag == dirTag && crc32 d.toBytes == d.crc.toNat

/-- A copy with its TAG and CRC. -/
def DirCopy.sealed (d : DirCopy) : DirCopy :=
  let d := { d with tag := dirTag }
  { d with crc := BitVec.ofNat 32 (crc32 d.toBytes) }

/-- The copy the device uses: the good one with the higher GEN, copy 1 on equal GEN. -/
def Emmc.dir (e : Emmc) : Option DirCopy :=
  match e.dir1.good, e.dir2.good with
  | true, true => some (if e.dir1.gen < e.dir2.gen then e.dir2 else e.dir1)
  | true, false => some e.dir1
  | false, true => some e.dir2
  | false, false => none

/-- With neither copy good: SELECT 0 and both slots VALID. -/
def DirCopy.presumed : DirCopy :=
  { DirCopy.bad with slotA := { DirSlot.empty with state := 1 }, slotB := { DirSlot.empty with state := 1 } }

def DirCopy.slot (d : DirCopy) (k : Nat) : DirSlot := if k = 0 then d.slotA else d.slotB
def DirCopy.setSlot (d : DirCopy) (k : Nat) (x : DirSlot) : DirCopy :=
  if k = 0 then { d with slotA := x } else { d with slotB := x }

/-- Read the directory; DIR_INVALID when neither copy is good. -/
def State.readDir (s : State) : State × DirCopy :=
  match s.emmc.dir with
  | some d => (s, d)
  | none => (s.fault { code := 0x0901 }, DirCopy.presumed)

/-- The directory in use is copy 2. -/
def Emmc.usesTwo (e : Emmc) : Bool := e.dir2.good && (!e.dir1.good || decide (e.dir1.gen < e.dir2.gen))

/-- Write one copy. -/
def Emmc.putDir (e : Emmc) (two : Bool) (d : DirCopy) : Emmc := if two then { e with dir2 := d } else { e with dir1 := d }

/-- A directory with GEN + 1 goes into the copy that was not read, and then into the other; no command comes between the two writes
(log 57). -/
def State.saveDir (s : State) (d : DirCopy) : State :=
  let d := { d with gen := (d.gen + 1) % 2 ^ 32 }.sealed
  let two := s.emmc.usesTwo
  { s with emmc := (s.emmc.putDir (!two) d).putDir two d }

/-- Change the directory. -/
def State.writeDir (s : State) (f : DirCopy → DirCopy) : State := s.readDir.1.saveDir (f s.readDir.2)

/-- Image held in a slot. -/
def Emmc.slot (e : Emmc) (k : Nat) : Option Image := if k = 0 then e.slotA else e.slotB
def Emmc.setSlot (e : Emmc) (k : Nat) (i : Option Image) : Emmc := if k = 0 then { e with slotA := i } else { e with slotB := i }

/-! ### Image writes (13 R376) -/

/-- Bytes that an open write still takes. -/
def ImgWrite.room (w : ImgWrite) : Nat := w.length - w.bytes.length

/-- A STOP or RESTART abandons every open write; its slot stays invalid and a device entry closes it. -/
def State.abandonWrites (s : State) : State :=
  let ws := s.img
  ws.foldl (fun s w => s.imageEntry false w.slot w.bytes.length 0) { s with img := [] }

/-- Open a write: the slot is marked invalid, its bytes come in a new epoch (done by the caller where the stream is a host
stream). -/
def State.openWrite (s : State) (w : ImgWrite) : State :=
  let s := s.writeDir fun d => d.setSlot w.slot { d.slot w.slot with state := 2 }
  { s with emmc := s.emmc.setSlot w.slot none, img := s.img ++ [w] }

/-- The IMG_ACK that closes a write from the management port. -/
def State.ackWrite (s : State) (w : ImgWrite) (r : Nat) : State :=
  if w.port = 1 ∧ w.stream = 0xFFFF then s.send (.imgAck w.seq w.bytes.length r) else s

/-- Verify the bytes of a completed write and close it. -/
def State.closeWrite (s : State) (w : ImgWrite) : State :=
  let s := { s with img := s.img.filter fun x => x.slot != w.slot }
  let i := parseImage w.bytes
  if i.valid s.keyring && i.digestsOk (fun _ => true) then
    let s := s.writeDir fun d =>
      { d.setSlot w.slot { state := 1, version := i.version, length := i.length,
                           hdigest := (i.hdrDigest >>> (64 : Nat)).setWidth 320 } with select := w.slot }
    let s := { s with emmc := s.emmc.setSlot w.slot (some i) }
    (s.imageEntry true w.slot w.bytes.length (BitVec.ofNat 64 i.version)).ackWrite w 1
  else (s.imageEntry false w.slot w.bytes.length 0).ackWrite w 2

/-- No request waits for the eMMC before image data (15 R411). -/
def State.emmcIdle (s : State) : Bool := s.itg.deltas.isEmpty && s.jrn.buf.isEmpty && s.itg.packStores.isEmpty

/-- IMAGE_WRITE_COMPLETE: the last byte of the oldest complete write has been written, which deltas, journal records and packs precede
(15 R411). -/
def imageWriteComplete (s : State) : State :=
  if !s.emmcIdle then s
  else
  match s.img.find? fun w => w.length ≤ w.bytes.length with
  | some w => s.closeWrite w
  | none => s

def execImageWriteComplete (s : State) : R :=
  .next (if s.live && decide (5 ≤ s.boot.stage) then imageWriteComplete s else s)

end Sys2Proof.Machine
end

