-- ==== Sys2Proof/Machine/Ports.lean ====
section
/-! DEFINITION. The crosswind ports: credit accounts (10 R267, R268; 14 R400), sending and replay (10 R264, R269), routing (R276,
R288), receiving data frames (R265, R266), gust queues, relay datagrams. -/

namespace Sys2Proof.Machine

/-! ### Accounts -/

/-- Credited classes: plans 0 to 3 and relay. -/
def classes : List Nat := [0, 1, 2, 3, 4]
def Port.acct (x : Port) (c : Nat) : Acct := x.accts.getD c Acct.reset
def Port.modAcct (x : Port) (c : Nat) (f : Acct → Acct) : Port :=
  { x with accts := classes.map fun d => if d = c then f (x.acct d) else x.acct d }
def State.modAcct (s : State) (p c : Nat) (f : Acct → Acct) : State := s.modPort p fun x => x.modAcct c f

def Port.up (x : Port) : Bool := x.state == .up || x.state == .degraded

/-- The port takes link frames: it has trained and is not down. One that is excluded or not yet up takes them too (10 R274). -/
def Port.linked (x : Port) : Bool := x.up || x.state == .identify || x.state == .excluded

/-- Share of a class on a port: 1,024 lines for relay, the plan's declared share otherwise (10 R267). -/
def State.shareOf (s : State) (c p : Nat) : Nat :=
  if c = 4 then 1024 else ((s.img? c).map fun q => q.shares.getD p 0).getD 0

/-- The class may have an account: relay always, a plan while it is loaded and the peer runs the same plans (10 R274). -/
def State.classLive (s : State) (c p : Nat) : Bool :=
  c == 4 || (!(s.port p).foreign &&
    match (s.plan c).pstate with
    | .running | .held | .restoring => true
    | _ => false)

/-- Open an account with the receiver's whole share granted (10 R268, R283). Both ends hold the same image, so the far end
grants its own port's share. -/
def State.openAcct (s : State) (p c : Nat) : State :=
  if (s.port p).up && s.classLive c p && !((s.port p).acct c).isOpen then
    let g := s.shareOf c (s.port p).peerPort
    s.modPort p fun x =>
      let x := x.modAcct c fun _ => { Acct.reset with isOpen := true, share := s.shareOf c p, grant := g, held := g }
      { x with crGrant := satAdd x.crGrant (s.shareOf c p) }
  else s

def State.openAccts (s : State) : State :=
  (List.range 6).foldl (fun s p => classes.foldl (fun s c => s.openAcct p c) s) s

/-- Place of port and class in DETAIL2 [63:48] of a closure entry (log 18). -/
def closeTag (p c : Nat) : Nat := p * 2 ^ 56 + c * 2 ^ 52

/-- Book the entry of one end of a closed account (14 R400). -/
def State.closeEntry (s : State) (p c : Nat) (sending : Bool) (q u n : Nat) : State :=
  let t := s.fault { code := 0x0809, plan := if c < 4 then some c else none, unitk := 4, unit := p, d0 := s.xwpState p,
                     d1 := (s.port p).peerSerial, d2 := BitVec.ofNat 64 (closeTag p c + q % 2 ^ 48),
                     d3 := BitVec.ofNat 64 (n % 65536 * 2 ^ 48 + u % 2 ^ 48) }
  { t with itg := { t.itg with close := satInc t.itg.close },
           frm := { t.frm with closesOut := t.frm.closesOut ++ [{ port := p, cls := c, sending := sending, count := n }] } }

/-- Both ends of an open account are booked (14 R400). -/
def State.bookClose (s : State) (p c : Nat) : State :=
  let a := (s.port p).acct c
  if a.isOpen then
    (s.closeEntry p c true a.held (a.sent - a.acked) a.sent).closeEntry p c false a.queued a.unret a.accepted
  else s

/-- Close an account: each end books its entry and its side goes to zero (14 R400). -/
def State.closeAcct (s : State) (p c : Nat) : State :=
  let a := (s.port p).acct c
  if a.isOpen then
    let s := s.bookClose p c
    -- lines still queued belong to no account any more: their class is shifted by 8 (10 R280)
    s.modPort p fun x => { x with gust := mapIf (fun f => f.cls == c) (fun f => { f with cls := f.cls + 8 }) x.gust }.modAcct c
      fun _ => Acct.reset
  else s

/-! ### Sending -/

/-- Link frames since the last relay frame, once `f` has left (10 R269). -/
def nextRun (n : Nat) (f : LinkFrame) : Nat :=
  match f with
  | .data d => if d.cls = 4 then 0 else n + 1
  | _ => n + 1

/-- One link frame leaves a port: it takes its place in the replay buffer (10 R264). -/
def State.sendLink (s : State) (p : Nat) (f : LinkFrame) : State :=
  (s.modPort p fun x =>
    { x with txSeq := x.txSeq + 1, replay := x.replay ++ [(x.txSeq, f)], relayRun := nextRun x.relayRun f }).send (.link p f)

/-- A link frame with a good CRC reaches a port, which counts it (10 R264). The result says whether it is taken: one in flight behind
a frame that failed is not, since the sender sends it again (log 50). -/
def State.hear (s : State) (p : Nat) : State × Bool :=
  let x := s.port p
  if !x.linked then (s, false)
  else if 0 < x.stale then (s.modPort p fun x => { x with stale := x.stale - 1 }, false)
  else (s.modPort p fun x => { x with rxGood := x.rxGood + 1 }, true)

/-- Cumulative counts of lines freed, by class, as a control frame carries them (10 R268). -/
def Port.returns (x : Port) : List Nat := classes.map fun c => (x.acct c).freed % 2 ^ 32

/-- A control frame: ACK of the frames received and every credit return (10 R268, R280). -/
def State.sendControl (s : State) (p : Nat) : State :=
  let x := s.port p
  let n := (classes.map fun c => (x.acct c).unret).foldl (· + ·) 0
  let s := s.modPort p fun x =>
    { x with accts := classes.map (fun c => let a := x.acct c; { a with retOut := a.freed, unret := 0 }),
             crRet := satAdd x.crRet n, ackOut := x.rxGood }
  s.sendLink p (.control x.rxGood x.returns)

/-- The port may send what is no identity or probe frame: an excluded one and those of a module out of the domain do not (10 R272,
R274). -/
def State.converses (s : State) (p : Nat) : Bool := s.sends && ((s.port p).up || (!s.dom.out && (s.port p).state == .identify))

/-- The port owes an ACK or a credit return (10 R268, R269). -/
def Port.owes (x : Port) : Bool := x.ackOut != x.rxGood || classes.any fun c => decide (0 < (x.acct c).unret)

/-- One of the other control frames of R269: it leaves behind the ACK and the credit returns that its port owes. -/
def State.sendOther (s : State) (p : Nat) (f : LinkFrame) : State :=
  (if s.converses p && (s.port p).owes then s.sendControl p else s).sendLink p f

/-- Ticks and votes go before everything else (10 R269); a ready frame goes in place of a vote (15 R426). -/
def LinkFrame.first : LinkFrame → Bool
  | .tick _ _ _ _ => true
  | .vote _ => true
  | .ready _ _ => true
  | _ => false

/-- Send a frame on every port that is up but one. -/
def State.flood (s : State) (but : Option Nat) (f : LinkFrame) : State :=
  (List.range 6).foldl (fun s p =>
    if s.sends && (s.port p).up && some p != but then (if f.first then s.sendLink p f else s.sendOther p f) else s) s

/-- A notice that the rank makes goes to every rank, as a link report does (01 R38; log 50). -/
def State.notify (s : State) (m : Notice) : State :=
  { s with dom := { s.dom with heard := s.dom.heard ++ [m] } }.flood none (.notice m)

/-- A notice reaches a port: the first copy is passed on, and taken where the result says so (10 R264; 01 R38). -/
def State.hearNotice (s : State) (p : Nat) (m : Notice) : State × Bool :=
  let h := s.hear p
  if !h.2 || !(h.1.port p).up || h.1.dom.heard.contains m then (h.1, false)
  else ({ h.1 with dom := { h.1.dom with heard := h.1.dom.heard ++ [m] } }.flood (some p) (.notice m), true)

/-- Take a notice that a command brings, where its port hears the first copy of it. -/
def State.onNotice (s : State) (p : Nat) (m : Notice) (f : State → State) : State :=
  if s.sends then
    let h := s.hearNotice p m
    if h.2 then f h.1 else h.1
  else s

/-- Lines of the control class of a gust queue (10 Table 10.4). -/
def ctlMax : Nat := 64

/-- A frame enters the control class of the gust queue: always accepted, the oldest is dropped if it is full (10 R267). -/
def State.queueControl (s : State) (p : Nat) (f : LinkFrame) : State :=
  s.modPort p fun x =>
    let c := (x.ctl ++ [f]).drop (x.ctl.length + 1 - ctlMax)
    { x with ctl := c, gqPeak := max x.gqPeak (x.gust.length + c.length) }

/-- Index in a port's queue of the next data frame of a class. -/
def Port.frameOf (x : Port) (c : Nat) : Option Nat := x.outq.findIdx? fun f => f.cls == c

/-- Classes a port may send now: credit held and a frame waiting; relay at most once in ten link frames (10 R268, R269). -/
def Port.sendable (x : Port) (c : Nat) : Bool :=
  x.up && (x.frameOf c).isSome && decide (0 < (x.acct c).held) && (x.acct c).isOpen &&
    (c != 4 || decide (9 ≤ x.relayRun))

/-- The class served next: plans round-robin by plan number, then relay (10 R269). -/
def Port.nextClass (x : Port) : Option Nat :=
  (((List.range 4).map fun i => (x.rrNext + i) % 4) ++ [4]).find? x.sendable

/-! ### Routing -/

/-- Coordinates of a rank in a shape [5:4] X − 1, [3:2] Y − 1, [1:0] Z − 1 (10 R271). -/
def dims (shape : Nat) : List Nat := [fld shape 4 2 + 1, fld shape 2 2 + 1, fld shape 0 2 + 1]
def ranksOf (shape : Nat) : Nat := (dims shape).foldl (· * ·) 1
def coords (shape r : Nat) : List Nat :=
  match dims shape with
  | [x, y, _] => [r % x, r / x % y, r / (x * y)]
  | _ => []

/-- Rank and port at the far end of a port, none for a dimension of size 1 (10 R271). -/
def farEnd (shape rank p : Nat) : Option (Nat × Nat) :=
  let d := p % 3
  let n := (dims shape).getD d 1
  if n = 1 then none
  else
    let c := (coords shape rank).getD d 0
    let c' := if p < 3 then (c + 1) % n else (c + n - 1) % n
    let stride := ((dims shape).take d).foldl (· * ·) 1
    some (rank - c * stride + c' * stride, (p + 3) % 6)

/-- Dimension order: x, then y, then z, each the shorter way round, + on a tie; a link that is down is skipped (10 R288,
log 19). -/
def State.dimRoute (s : State) (dest : Nat) : Option Nat :=
  let sh := s.dom.shape
  let me := coords sh s.dom.rank
  let dst := coords sh dest
  let dirs := (List.range 3).flatMap fun d =>
    let n := (dims sh).getD d 1
    let up := (dst.getD d 0 + n - me.getD d 0) % n
    if up = 0 then [] else if up ≤ n - up then [(d, d + 3)] else [(d + 3, d)]
  (dirs.map (·.1) ++ dirs.map (·.2)).find? fun p => (s.port p).up

def Variant.route (v : Variant) (r dest : Nat) : Option Nat :=
  let p := (v.routes.getD r []).getD dest 15
  if p < 6 then some p else none

/-- Variant in force of a plan. -/
def State.variantOf (s : State) (p : Nat) : Option Variant := (s.img? p).bind fun q => q.variants[(s.plan p).variant]?

/-- Lowest-numbered running plan. -/
def State.firstPlan (s : State) : Option Nat := (List.range 4).find? fun p => (s.plan p).inPlans

/-- Port toward a rank for a class (10 R276, R288). -/
def State.routeOf (s : State) (c dest : Nat) : Option Nat :=
  if c < 4 then (s.variantOf c).bind fun v => v.route s.dom.rank dest
  else match s.firstPlan with
    | some p => (s.variantOf p).bind fun v => v.route s.dom.rank dest
    | none => s.dimRoute dest

/-! ### Receiving -/

/-- The class's plan takes lines here: it runs, is held or is being restored (10 R266, 11 R319). -/
def State.takesClass (s : State) (c : Nat) : Bool :=
  match (s.plan c).pstate with
  | .running | .held | .restoring => true
  | _ => false

/-- A request of plan `p` still waits at some site. -/
def SiteReq.ofPlan (p : Nat) : SiteReq → Bool
  | .full _ _ _ q => q == some p
  | .part _ _ _ _ q _ => q == some p
  | .acc16 _ _ _ q => q == p
  | .acc32 _ _ _ q => q == p
  | _ => false
def State.waitsAtSite (s : State) (p : Nat) : Bool := s.sites.any fun e => e.2.queue.any (SiteReq.ofPlan p)

/-- The site can take one more request (09 R249). -/
def Site.room (x : Site) : Bool := !x.holds || decide (x.queue.length < siteQueueMax)

/-- Write a line into a tile store with its word marks (10 R265, 03 R107). -/
def State.writeStore (s : State) (t off : Nat) (d : BitVec 2048) (marks : BitVec 8) : State :=
  let a := tileAddr t off
  { s with
    store := Mem.put s.store a (lineBytes d)
    storePoison := (List.range 8).foldl (fun m w => Sparse.set false m (a / 32 + w) (marks.getLsbD w)) s.storePoison }

/-- Unit of a fault that a crosswind frame raises: its port, or none for the rank's own lines. -/
def unitOfPort (p : Option Nat) : Nat × Nat :=
  match p with
  | some q => (4, q)
  | none => (0, 0)

/-- A write or an add of a stopped plan whose line lies in one of its sink ranges: it reaches none (03 R108, 09 R242). -/
def State.barredFrame (s : State) (f : DataFrame) : Bool :=
  decide (f.cls < 4) && decide (f.op < 3) && (s.plan f.cls).stopped &&
    ((s.img? f.cls).map fun q => q.isSink (256 * f.line.toNat)).getD false

/-- Effect at DEST of a data frame of plan `f.cls` (10 R265, R266); none when it must wait for its site. -/
def State.deliver (s : State) (p : Option Nat) (f : DataFrame) (a : AddIn) : Option State :=
  let c := f.cls
  let addr := 256 * f.line.toNat
  let u := unitOfPort p
  if f.op = 3 then
    let t := bfld f.line 36 4
    if !((s.img? c).map (·.hasTile t)).getD false then some (s.accessRaise c 0x0120 addr u.1 u.2)
    else if s.waitsAtSite c then none
    else
      let s := s.issueToken c (bfld f.line 0 24)
      match s.addToken c t (bfld f.line 24 12) (bfld f.line 0 24) with
      | some s => some s
      | none => some (s.fault { code := 0x0207, plan := some c, unitk := 1, unit := t, d0 := (s.tile t).fault.word })
  else
    match s.accessFault c addr with
    | some code => some (match s.place addr with
        | .store t _ => s.accessRaise c code addr 1 t
        | _ => s.accessRaise c code addr u.1 u.2)
    | none =>
      match s.place addr with
      | .store t off =>
        if f.op = 0 then some (s.writeStore t off f.body f.poison) else some (s.redFault 0x0504 c 0 0 0)
      | .site i off =>
        let line := off / 256
        if !(s.site i).room then none
        else
          some (s.request i (if f.op = 0 then .full line f.body f.poison (some c)
                             else if f.op = 1 then .acc16 line f.body (f.poison != 0) c
                             else .acc32 line f.body (f.poison != 0) c) line (some c) a none)
      | _ => some s

/-- A relay segment of a datagram for this rank (10 R288, Table 10.3): LINE [39] first, [38] last, [15:0] valid bytes. A port assembles one
datagram at a time (log 67). One of empty segments only is a keep-alive: it has been heard, and there is nothing to take (Table 10.12). -/
def State.relaySegment (s : State) (p : Nat) (f : DataFrame) : State :=
  let bytes := (lineBytes f.body).take (bfld f.line 0 16)
  let held := if bfld f.line 39 1 = 1 then some [] else (s.port p).reasm
  match held with
  | none => s
  | some h =>
    if bfld f.line 38 1 = 1 then
      let s := s.modPort p fun x => { x with reasm := none }
      if (h ++ bytes).isEmpty then s else { s with host := { s.host with inbox := s.host.inbox ++ [h ++ bytes] } }
    else s.modPort p fun x => { x with reasm := some (h ++ bytes) }

/-- Lines of a class that wait in an outgoing queue. -/
def Port.waiting (x : Port) (c : Nat) : Nat := (x.outq.filter fun f => f.cls == c).length

/-- Accept a line downstream: at this rank by its effect, in transit by the next hop's credit (10 R268). None: it stays. -/
def State.acceptLine (s : State) (p : Nat) (f : DataFrame) (a : AddIn) : Option State :=
  let f := { f with cls := f.cls % 8 }
  if f.dest = s.dom.rank then
    if f.op = 4 then some (s.relaySegment p f)
    else if s.takesClass f.cls then s.deliver (if p < 6 then some p else none) f a else some s
  else
    match s.routeOf f.cls f.dest with
    | none => some s
    | some q =>
      let x := s.port q
      if x.waiting f.cls < (x.acct f.cls).held then some (s.modPort q fun x => { x with outq := x.outq ++ [f] })
      else none

/-- Count a line out of the gust queue of its port and class. -/
def State.freeLine (s : State) (p c : Nat) : State :=
  s.modAcct p c fun a => if a.isOpen then { a with queued := a.queued - 1, freed := a.freed + 1, unret := a.unret + 1 } else a

/-- Serve a port's gust queue in order; a class whose head waits is passed over, the others keep flowing (10 R268). `rest` are
the lines not yet looked at, `kept` those that stay, `stuck` the classes that wait. -/
def State.serveGust (p : Nat) (a : AddIn) : List DataFrame → List DataFrame → List Nat → State → State
  | [], kept, _, s => s.modPort p fun x => { x with gust := kept.reverse }
  | f :: rest, kept, stuck, s =>
    if stuck.contains f.cls then State.serveGust p a rest (f :: kept) stuck s
    else
      match s.acceptLine p f (if rest.isEmpty then a else AddIn.clean) with
      | some s' => State.serveGust p a rest kept stuck (s'.freeLine p f.cls)
      | none => State.serveGust p a rest (f :: kept) (f.cls :: stuck) s

def State.drainGust (s : State) (p : Nat) (a : AddIn) : State := State.serveGust p a (s.port p).gust [] [] s
def State.drainAllGust (s : State) : State :=
  (List.range 7).foldl (fun s p => if (s.port p).gust.isEmpty then s else s.drainGust p AddIn.clean) s

/-- Lines of the gust queue that are not of the control class (10 Table 10.4). -/
def gustMax : Nat := 16384 - 64

/-- A line enters the gust queue (10 R267), which holds no more than its lines: a sender with credit never finds it full (log 51). -/
def State.enqueueGust (s : State) (p : Nat) (f : DataFrame) : State :=
  if gustMax ≤ (s.port p).gust.length then s
  else
    (s.modPort p fun x =>
      let g := x.gust ++ [f]
      { x with gust := g, gqPeak := max x.gqPeak g.length }).modAcct p f.cls fun a =>
        if a.isOpen then { a with accepted := a.accepted + 1, queued := a.queued + 1 } else a

def State.dropFrame (s : State) (p : Nat) : State := s.modPort p fun x => { x with rxDrop := satInc x.rxDrop }

/-- A data frame with a good CRC arrives at a port (10 R264 to R266, R274). -/
def State.arrive (s : State) (p : Nat) (f : DataFrame) (a : AddIn) : State :=
  let h := s.hear p
  let s := h.1
  let x := s.port p
  if !h.2 || !x.up then s
  else
    if 5 ≤ f.op ∨ 5 ≤ f.cls ∨ (f.cls = 4) ≠ (f.op = 4) then s.dropFrame p
    else if f.cls < 4 ∧ x.foreign then s
    else if f.cls < 4 ∧ !s.takesClass f.cls then
      (s.dropFrame p).fault { code := 0x040C, unitk := 4, unit := p }
    else (s.enqueueGust p f).drainGust p a

/-- A data frame that the rank itself forms: for another rank it waits on the port that the route gives; for itself it takes
effect, as its own ACC16 lines do (11 R299), or waits for its site beside the ports' queues, in the place of a port 6. -/
def State.originate (s : State) (f : DataFrame) (a : AddIn) : State :=
  if 5 ≤ f.op ∨ 5 ≤ f.cls ∨ (f.cls = 4) ≠ (f.op = 4) then s
  else if f.cls < 4 ∧ !(s.plan f.cls).executes then s
  else if f.dest = s.dom.rank then
    if f.op = 4 then s else (s.modPort 6 fun x => { x with gust := x.gust ++ [f] }).drainGust 6 a
  else
    match s.routeOf f.cls f.dest with
    | some q => s.modPort q fun x => { x with outq := x.outq ++ [f] }
    | none => s

/-- A WRITE frame of a copy or a restore, which runs in idle frames too (15 R428): a rank that the variant leaves out goes by dimension
order (log 35). -/
def State.convey (s : State) (v : Variant) (f : DataFrame) : State :=
  match (v.route s.dom.rank f.dest).or (s.dimRoute f.dest) with
  | some q => s.modPort q fun x => { x with outq := x.outq ++ [f] }
  | none => s

def dataFrame (op : Nat) (p : Option (Fin 6)) (f : DataFrame) (a : AddIn) (s : State) : State :=
  if !s.sends then s
  else if f.op ≠ op ∧ f.op < 5 then s
  else
    match p with
    | some p => s.arrive p.val f a
    | none => s.originate f a

/-- WRITE (10 R265, R266). -/
def execWrite (p : Option (Fin 6)) (f : DataFrame) (s : State) : R := .next (dataFrame 0 p f AddIn.clean s)
/-- ACC16 (11 R299). -/
def execAcc16 (p : Option (Fin 6)) (f : DataFrame) (a : AddIn) (s : State) : R := .next (dataFrame 1 p f a s)
/-- ACC32 (11 R299). -/
def execAcc32 (p : Option (Fin 6)) (f : DataFrame) (a : AddIn) (s : State) : R := .next (dataFrame 2 p f a s)
/-- TSIG frame (10 R265, R266). -/
def execTsigFrame (p : Option (Fin 6)) (f : DataFrame) (s : State) : R := .next (dataFrame 3 p f AddIn.clean s)

/-- CRC_FAIL: the frame is discarded and a NACK carries the count of good frames (10 R264). `behind` frames are already in flight
behind it; a frame that fails among them has been asked for. -/
def crcFail (p behind : Nat) (s : State) : State :=
  if 0 < (s.port p).stale then s.modPort p fun x => { x with stale := x.stale - 1 }
  else if s.converses p then (s.modPort p fun x => { x with stale := behind }).sendLink p (.nack (s.port p).rxGood)
  else s

def execCrcFail (f : AtPort Nat) (s : State) : R := .next (if s.sends then crcFail f.1.val f.2 s else s)

/-- One frame is sent again: it keeps its place in the replay buffer. -/
def State.resendLink (s : State) (p : Nat) (f : LinkFrame) : State :=
  (s.modPort p fun x => { x with relayRun := nextRun x.relayRun f, replayCnt := satInc x.replayCnt }).send (.link p f)

/-- NACK: every frame from that one onward is sent again out of the replay buffer (10 R264). -/
def nack (p count : Nat) (s : State) : State :=
  let h := s.hear p
  if !h.2 || !h.1.converses p then h.1
  else (((h.1.port p).replay.filter fun e => decide (count ≤ e.1)).map (·.2)).foldl (fun s f => s.resendLink p f) h.1

def execNack (p : Fin 6) (count : Nat) (s : State) : R := .next (if s.sends then nack p.val count s else s)

/-- Credit returned to a sender: the difference of the cumulative counts, modulo 2^32 (10 R268). -/
def Acct.takeReturn (a : Acct) (n : Nat) : Acct :=
  if a.isOpen then
    let d := (n + 2 ^ 32 - a.retIn % 2 ^ 32) % 2 ^ 32
    { a with held := a.held + d, retIn := a.retIn + d }
  else a

/-- An identity frame. -/
def LinkFrame.isIdentity : LinkFrame → Bool
  | .identity _ _ _ _ _ _ => true
  | _ => false

/-- CONTROL_FRAME: the cumulative ACK frees the replay buffer, an acknowledged identity frame is noted (R274) and credits return
(10 R264, R268). -/
def controlFrame (p ack : Nat) (returns : List Nat) (s : State) : State :=
  let h := s.hear p
  if !h.2 then h.1
  else
    let done := (h.1.port p).replay.filter fun e => decide (e.1 < ack)
    let s := h.1.modPort p fun x =>
      { x with replay := x.replay.filter fun e => !decide (e.1 < ack), idAcked := x.idAcked || done.any fun e => e.2.isIdentity }
    let s := done.foldl (fun s e => match e.2 with
      | .data f => s.modAcct p f.cls fun a => if a.isOpen then { a with acked := a.acked + 1 } else a
      | _ => s) s
    let s := (returns.take 5).zipIdx.foldl (fun s e => s.modAcct p e.2 fun a => a.takeReturn e.1) s
    s.drainAllGust

/-- Waiting frames that no longer go out leave the queue: those of a stopped plan into a sink range. -/
def State.purge (s : State) (p : Nat) : State := s.modPort p fun x => { x with outq := x.outq.filter fun f => !s.barredFrame f }

/-- The next data frame of class `c` leaves on its credit. -/
def State.sendClass (s : State) (p c : Nat) : State :=
  match (s.port p).outq.find? fun f => f.cls == c with
  | none => s
  | some f =>
    let s := s.modPort p fun x =>
      let x := { x with outq := x.outq.eraseIdx ((x.frameOf c).getD 0), rrNext := if c < 4 then (c + 1) % 4 else x.rrNext }
      x.modAcct c fun a => { a with held := a.held - 1, sent := a.sent + 1 }
    s.sendLink p (.data f)

/-- DATA_FRAME_SEND: the next data frame in priority order leaves; an ACK and the credit returns that are owed go before it (10 R268,
R269). -/
def dataSend (p : Nat) (s : State) : State :=
  let s := s.purge p
  match (s.port p).nextClass with
  | none => s
  | some c => if (s.port p).owes then (s.sendControl p).sendClass p c else s.sendClass p c

def execDataFrameSend (p : Fin 6) (s : State) : R := .next (if s.sends then dataSend p.val s else s)

/-- IDLE_CONTROL_FRAME: a port that has had nothing else to send for 500 ns (10 R280). -/
def execIdleControlFrame (p : Fin 6) (s : State) : R :=
  .next (if s.converses p.val && (s.port p.val).nextClass.isNone then s.sendControl p.val else s)

/-- RELAY_DROP: the entry's relay class has had no credit for 100 µs, so its oldest datagram is dropped (10 R288). -/
def dropDatagram : List DataFrame → List DataFrame
  | [] => []
  | f :: fs =>
    if f.cls ≠ 4 then f :: dropDatagram fs
    else if bfld f.line 38 1 = 1 then fs else dropRest fs
where
  /-- Drop up to the datagram's last segment. -/
  dropRest : List DataFrame → List DataFrame
    | [] => []
    | f :: fs => if f.cls ≠ 4 then f :: dropRest fs else if bfld f.line 38 1 = 1 then fs else dropRest fs

def execRelayDrop (p : Fin 6) (s : State) : R :=
  .next (if s.sends && (s.port p.val).outq.any (fun f => f.cls == 4) && ((s.port p.val).acct 4).held == 0 then
      s.modPort p.val fun x => { x with outq := dropDatagram x.outq, rDrop := satInc x.rDrop }
    else s)

end Sys2Proof.Machine
end

