-- ==== Sys2Proof/Machine/Relay.lean ====
section
/-! DEFINITION. Datagrams of the host protocol (13 R360, R361, Tables 13.3, 13.4) and their way between ranks: relay from the rank
where they arrive, and from a rank without a host link to the egress rank (10 R288). -/

namespace Sys2Proof.Machine

/-! ### Host configuration (13 Table 13.2), at 0x160 of the device configuration -/

def State.cfgw (s : State) (k lo len : Nat) : Nat := rf s.boot.cfg (44 + k) lo len
def State.egress (s : State) : Nat := s.cfgw 2 56 6
def State.v4on (s : State) : Bool := s.cfgw 2 0 32 != 0
/-- IPv4 address of this rank. -/
def State.v4addr (s : State) : Nat := s.cfgw 2 0 32 + s.dom.rank
/-- An address of two configuration words, in network byte order: Table 13.2's "last byte" says so of V6BASE, and no rule of the others
(log 53). -/
def State.cfgAddr (s : State) (w : Nat) : Nat := beNat (leBytes 8 (s.boot.cfg.getD w 0).toNat ++ leBytes 8 (s.boot.cfg.getD (w + 1) 0).toNat)
/-- IPv6 address of this rank. -/
def State.v6addr (s : State) : Nat := s.cfgAddr 44 + s.dom.rank
/-- UDP ports of the directive and the data protocol; 0 stands for 46,881 and 46,880. -/
def State.dirPort (s : State) : Nat := if s.cfgw 3 16 16 = 0 then 46881 else s.cfgw 3 16 16
def State.dataPort (s : State) : Nat := if s.cfgw 3 0 16 = 0 then 46880 else s.cfgw 3 0 16
/-- VLAN ID of the port's frames; none: untagged. -/
def State.vlan (s : State) : Option Nat := if s.cfgw 2 32 16 = 0 then none else some (s.cfgw 2 32 12)

/-! ### Management configuration (15 Table 15.7; 14 R401) -/

/-- The IPv6 link-local address formed from a MAC address, by the modified EUI-64 of RFC 4291 (15 R414; log 53). -/
def linkLocal (mac : Nat) : Nat :=
  let o := leBytes 6 mac
  let b (i : Nat) : Byte := o.getD i 0
  beNat ([0xFE, 0x80, 0, 0, 0, 0, 0, 0, b 0 ^^^ 2, b 1, b 2, 0xFF, 0xFE, b 3, b 4, b 5] : List Byte)

/-- IPv6 address and UDP port of the management port: in recovery the link-local address and 46,890 (15 R414). -/
def State.mgmtV6 (s : State) : Nat := if s.boot.recovery then linkLocal s.dev.mmac.toNat else s.cfgAddr 25 + s.dom.rank
def State.mport (s : State) : Nat := if s.boot.recovery ∨ rf s.boot.cfg 27 32 16 = 0 then 46890 else rf s.boot.cfg 27 32 16
/-- Its IPv4 address, where IPv4 is on. -/
def State.mgmtV4 (s : State) : Option Nat :=
  let b := rf s.boot.cfg 27 0 32
  if s.boot.recovery ∨ b = 0 then none else some (b + s.dom.rank)

/-! ### What the ports take (13 R357 to R360; 14 R401) -/

/-- IPv4 addresses stand as ::ffff:a.b.c.d (13 Table 13.2). -/
def v4mapped (a : Nat) : Nat := 0xFFFF * 2 ^ 32 + a
def isV4 (a : W128) : Bool := a.toNat / 2 ^ 32 == 0xFFFF

/-- The MAC takes the frame: at most 9,216 bytes, with the tag that the configuration names (13 R357). -/
def State.frameOk (s : State) (e : Eth) : Bool := decide (e.bytes ≤ 9216) && e.vlan == s.vlan

/-- The datagram is for one of the rank's host addresses and the UDP port, in form, and IPv4 is on if it is IPv4 (13 R358, R360). -/
def State.dgOk (s : State) (e : Eth) (src : W128) (port : Nat) : Bool :=
  e.headOk && e.dport == port && (!isV4 src || s.v4on) &&
    ((e.dst.map fun a => a.toNat == s.v6addr || (s.v4on && a.toNat == v4mapped s.v4addr)).getD true)

/-- A management address of this rank. -/
def State.mgmtAddr (s : State) (dst : Option W128) : Bool :=
  ((dst.map fun a => a.toNat == s.mgmtV6 || s.mgmtV4.map v4mapped == some a.toNat).getD true)

/-- A Goush message that carries a directive or a status request is in form and comes to the rank's address and port (14 R401). -/
def State.goushOk (s : State) (e : Eth) : Bool := e.headOk && e.dport == s.mport && s.mgmtAddr e.dst

/-! ### Bytes -/

/-- The bytes of a value, most significant first. -/
def beBytes (n x : Nat) : List Byte := (leBytes n x).reverse

def pagesOf (bs : List Byte) (n : Nat) : List (List Byte) := chunks n (bs.length + 1) bs

/-- A datagram's bytes: header (13 Table 13.3) and payload. -/
def dgBytes (type stream rank : Nat) (epoch : W32) (seq : W48) (body : List Byte) : List Byte :=
  wordsBytes [word64 [(1, 56), (type, 48), (stream % 65536, 32), (rank % 64, 26)],
    word64 [(body.length % 65536, 48), (seq.toNat, 0)], word64 [(epoch.toNat, 0)], 0] ++ body

/-- A datagram as it crosses the domain: its sender's address and UDP port in front, which a directive's receipt needs (13 R370; log
52). -/
def fromSender (src : W128) (udp : BitVec 16) (dg : List Byte) : List Byte := beBytes 16 src.toNat ++ beBytes 2 udp.toNat ++ dg

/-! ### Relay -/

/-- Cut a datagram into RELAY frames of class 4 toward a rank (10 R288, Table 10.3). -/
def relayFrames (dest : Nat) (bs : List Byte) : List DataFrame :=
  let segs := if bs.isEmpty then [[]] else pagesOf bs 256
  segs.zipIdx.map fun e =>
    { cls := 4, dest := dest, op := 4, poison := 0,
      line := BitVec.ofNat 40 (bit (e.2 == 0) * 2 ^ 39 + bit (e.2 + 1 == segs.length) * 2 ^ 38 + e.1.length),
      body := lineOf e.1 }

def State.relayOut (s : State) (dest : Nat) (bs : List Byte) : State :=
  if s.sends then (relayFrames dest bs).foldl (fun s f => s.originate f AddIn.clean) s else s

def State.discardDg (s : State) : State := { s with host := { s.host with discard := satInc s.host.discard } }

/-- A datagram that arrives on the host port for another rank is relayed to it, unchanged (13 R361). -/
def State.forOther (s : State) (port rank : Nat) : Bool := port == 0 && rank != s.dom.rank

/-! ### Sending -/

/-- The host port counts its datagrams (13 R382). -/
def State.rxdg (s : State) (port : Nat) : State :=
  if port = 0 then { s with host := { s.host with rxdg := satInc s.host.rxdg } } else s
def State.txdg (s : State) (port : Nat) : State :=
  if port = 0 then { s with host := { s.host with txdg := satInc s.host.txdg } } else s

/-- A datagram of this rank leaves: by its own link, or at the egress rank (13 R366, 10 R288). -/
def State.hostSend (s : State) (o : Out) (bs : List Byte) : State :=
  if s.host.link = 2 then (s.txdg 0).send o
  else if s.egress ≠ s.dom.rank then s.relayOut s.egress (fromSender 0 0 bs) else s

/-- An answer leaves by the port that the request came by. -/
def State.portSend (s : State) (port : Nat) (o : Out) (bs : List Byte) : State :=
  if port = 0 then s.hostSend o bs else s.send o

end Sys2Proof.Machine
end

