-- ==== Sys2Proof/Machine/Status.lean ====
section
/-! DEFINITION. Status requests (13 R368; 16 R439 to R445), the windows onto the journal (13 R379) and the fault records
(16 R452), and attestation (15 R434). -/

namespace Sys2Proof.Machine

/-- SRESP (13 R368). -/
def State.respond (s : State) (port : Nat) (id : W48) (status addr : Nat) (ws : List W64) : State :=
  s.portSend port (.sresp port id status addr ws)
    (dgBytes 0x22 0 s.dom.rank 0 0 (wordsBytes (word64 [(id.toNat % 65536, 48), (status, 0)] :: ws)))

/-- A refused request neither reads nor writes (13 R368). -/
def State.refuse (s : State) (port : Nat) (id : W48) (status addr : Nat) : State :=
  (s.fault { code := 0x0706 }).respond port id status addr []

/-- Addresses of a request's words. -/
def reqAddrs (a n : Nat) : List Nat := (List.range n).map fun i => a + 8 * i

/-- STATUS of a request for `n` words at `a` (13 R368). Of several failing checks the spec does not say which answers: alignment, then
COUNT, then the mapping (DESIGN CHOICE, log 46). -/
def State.reqStatus (s : State) (port a n : Nat) : Nat :=
  if a % 8 ≠ 0 then 1
  else if n = 0 ∨ 64 < n then 3
  else if (reqAddrs a n).any fun x => (s.statusWord port x).isNone then 2
  else 0

/-- Read words in ascending order, each cleared as it is read (16 R440, R441). A block that reads its reset values clears
nothing. -/
def State.readWords (s : State) (port : Nat) : List Nat → State × List W64
  | [] => (s, [])
  | a :: as =>
    let v := (s.statusWord port a).getD 0
    let s := if s.boot.recovery && !liveInRecovery a then s else s.readClear a
    let r := State.readWords s port as
    (r.1, v :: r.2)

/-- Word of a window whose fetch is in progress (13 R379, 15 R434, 16 R452). -/
def Window.busy (w : Window) (a : Nat) : Bool :=
  (w.jrnFetch && decide (0xA0040 ≤ a ∧ a < 0xA00C0)) || (w.frecFetch && decide (0x80340 ≤ a ∧ a < 0x80380)) ||
    (w.attFetch && decide (0x90200 ≤ a ∧ a < 0x903A0))

/-- Answer a read that waits for nothing. -/
def State.answer (s : State) (port a n : Nat) (id : W48) : State :=
  let r := s.readWords port (reqAddrs a n)
  r.1.respond port id 0 a r.2

/-! ### Windows -/

/-- A write to JRN_SEL selects a record and starts its fetch (13 R379). -/
def jrnSelect (port : Nat) (v : W64) (s : State) : State :=
  s.setWin port { s.win port with jrnSel := v.setWidth 48, jrnFetch := true }

/-- A write to ITG_FSEL selects a fault record and starts its fetch (16 R452). -/
def frecSelect (port : Nat) (v : W64) (s : State) : State :=
  s.setWin port { s.win port with fsel := v.setWidth 48, frecFetch := true }

/-! ### Attestation -/

/-- A value the spec leaves open: the next free value. -/
def State.draw (s : State) : State × W64 := ({ s with draws := s.draws + 1 }, Config.freeValue s.draws)
/-- `n` free values. -/
def State.drawMany (s : State) : Nat → State × List W64
  | 0 => (s, [])
  | n + 1 =>
    let a := s.draw
    let r := State.drawMany a.1 n
    (r.1, a.2 :: r.2)

/-- IMAGE field of the report: the hash of the header of the image in force. Without an image the spec states none (log 22). -/
def State.imageHash (s : State) : State × List Byte :=
  match s.boot.image with
  | some i => (s, beBytes 48 i.hdrDigest.toNat)
  | none =>
    let r := s.drawMany 6
    (r.1, r.2.flatMap fun w => leBytes 8 w.toNat)

/-- Bytes 0x000 to 0x13F of the attestation report (15 Table 15.11). -/
def State.reportBody (s : State) (nonce : List W64) (imageHash : List Byte) : List Byte :=
  beBytes 4 0x4E4B4154 ++ leBytes 2 1 ++ leBytes 2 0 ++ leBytes 8 s.dev.serial.toNat ++
  [0xB0#8, BitVec.ofNat 8 s.boot.slot, BitVec.ofNat 8 s.boot.keyIdx] ++ leBytes 5 0 ++
  leBytes 8 s.frm.frame.toNat ++ leBytes 8 s.ptpNow.toNat ++
  (List.range 4).flatMap (fun k => leBytes 8 (nonce.getD k 0).toNat) ++ imageHash ++ beBytes 48 s.boot.spHash.toNat ++
  (List.range 16).flatMap (fun k => leBytes 8 (((s.itg.packs.getD k none).map fun p =>
    word64 [(p.packId % 65536, 48), (p.version % 2 ^ 32, 16)]).getD 0).toNat) ++ leBytes 24 0

/-- Words of a list of bytes. -/
def bytesWords (n : Nat) (bs : List Byte) : List W64 :=
  (List.range n).map fun k => BitVec.ofNat 64 (leNat ((bs.drop (8 * k)).take 8))

/-- A write to BOT_ATTREQ: the report is formed and signed over bytes 0x000 to 0x13F (15 R434). -/
def attRequest (port : Nat) (s : State) : State :=
  let r := s.imageHash
  let s := r.1
  let w := s.win port
  let body := s.reportBody w.nonce r.2
  let sig := beBytes 96 (ecdsaSign s.otp.idKey (Config.signingNumber s.draws) (sha384 body)).toNat
  s.draw.1.setWin port { w with att := bytesWords 52 (body ++ sig), attFetch := true }

/-! ### Writes -/

/-- Writing 1 to VALID clears TIL_FAULT (03 R109). -/
def tilFaultClear (t : Nat) (s : State) : State := s.modTile t fun x => { x with fault := { x.fault with valid := false } }

/-- Effect of a status write (16 R445): words without RW or W1C fields ignore it. -/
def State.writeWord (s : State) (port a : Nat) (v : W64) : State :=
  let w := s.win port
  if s.boot.recovery && !liveInRecovery a then s
  else if a = 0x21000 then s.setWin port { w with watchSel := v.setWidth 17 &&& 0x10FFF#17 }
  else if a = 0xA0010 then jrnSelect port v s
  else if a = 0x80310 then frecSelect port v s
  else if 0x90100 ≤ a ∧ a < 0x90120 then
    s.setWin port { w with nonce := (List.range 4).map fun k => if 0x90100 + 8 * k = a then v else w.nonce.getD k 0 }
  else if a = 0x90120 then attRequest port s
  else if a = 0x90400 then s.setWin port { w with certSel := v.setWidth 11 &&& 0x707#11 }
  else if a / 65536 = 2 ∧ a % 65536 < 0x1000 ∧ a % 0x100 = 8 ∧ v.getLsbD 16 then tilFaultClear (a % 65536 / 0x100) s
  else s

/-! ### The status unit (16 R441) -/

/-- A request keeps its place: a read that waits for a fetch holds those behind it. -/
def State.opBusy (s : State) (q : StatOp) : Bool :=
  q.write.isNone && s.reqStatus q.port q.addr q.count == 0 && (reqAddrs q.addr q.count).any (s.win q.port).busy

/-- Serve one request: refused, read, or written. -/
def State.serveOp (s : State) (q : StatOp) : State :=
  if s.reqStatus q.port q.addr q.count ≠ 0 then s.refuse q.port q.id (s.reqStatus q.port q.addr q.count) q.addr
  else
    match q.write with
    | none => s.answer q.port q.addr q.count q.id
    | some v =>
      let s := s.writeWord q.port q.addr v
      if q.answers then s.respond q.port q.id 0 q.addr [] else s

/-- Serve requests in order of arrival, up to the first that waits. -/
def serveOps : List StatOp → State → State
  | [], s => { s with host := { s.host with waiting := [] } }
  | q :: qs, s => if s.opBusy q then { s with host := { s.host with waiting := q :: qs } } else serveOps qs (s.serveOp q)

/-- A request of either port joins the queue of the one status unit (16 R441). -/
def State.putOp (s : State) (q : StatOp) : State := serveOps (s.host.waiting ++ [q]) s

/-- A fetch has completed: the queue goes on. -/
def State.answerWaiting (s : State) : State := serveOps s.host.waiting s

/-! ### Requests -/

def reqSeq (r : StatReq) : W48 := r.id.setWidth 48

/-- A request as it is relayed: ID, COUNT, ADDR and, of a write, its word (13 R368). -/
def reqBytes (r : StatReq) (type count : Nat) (ws : List W64) : List Byte :=
  fromSender r.src 0 (dgBytes type 0 r.rank 0 0
    (wordsBytes (word64 [(r.id.toNat, 48), (count % 256, 32), (r.addr.toNat, 0)] :: ws)))

/-- The request is one for this rank, in form and at the right address and port (13 R358, R360; 14 R401). A Goush request for another
rank is discarded (16 R442), one at the host port relayed (13 R361). -/
def State.statIn (s : State) (r : StatReq) (bytes : List Byte) (q : StatOp) : State :=
  if r.port.val = 1 then (if s.goushOk r.eth && r.rank == s.dom.rank then s.putOp q else s)
  else if !s.frameOk r.eth then s
  else if !s.dgOk r.eth r.src s.dirPort then (s.rxdg 0).discardDg
  else if r.rank ≠ s.dom.rank then (s.rxdg 0).relayOut r.rank bytes
  else (s.rxdg 0).putOp q

/-- A read request. -/
def statusGet (r : StatReq) (count : Nat) (s : State) : State :=
  s.statIn r (reqBytes r 0x20 count [])
    { port := r.port.val, addr := r.addr.toNat, count := count, src := r.src, id := reqSeq r, write := none, answers := true }

/-- A write request. -/
def statusPut (r : StatReq) (v : W64) (s : State) : State :=
  s.statIn r (reqBytes r 0x21 0 [v])
    { port := r.port.val, addr := r.addr.toNat, count := 1, src := r.src, id := reqSeq r, write := some v, answers := true }

/-- SREAD (13 R368). -/
def execSread (r : StatReq) (count : Nat) (s : State) : R :=
  .next (if s.reach r.port.val then statusGet r count s else s)

/-- SWRITE (13 R368). -/
def execSwrite (r : StatReq) (v : W64) (s : State) : R := .next (if s.reach r.port.val then statusPut r v s else s)

/-- Words with an RC field (16 R441 and the tables it gathers). -/
def rcWord (a : Nat) : Bool :=
  let o := a % 65536
  let k := o % 0x100 / 8
  match a / 65536 with
  | 0 => decide (0x100 ≤ o)
  | 1 => o == 0x20 || (decide (0x100 ≤ o ∧ o < 0x200) && decide (3 ≤ o % 0x40 / 8))
  | 2 => decide (o < 0x1000) && (k == 3 || k == 4)
  | 3 => decide (k ≤ 8)
  | 4 => decide (o < 0x600) && decide (1 ≤ k ∧ k ≤ 6)
  | 5 => decide (1 ≤ k ∧ k ≤ 7)
  | 7 => decide (0x08 ≤ o ∧ o ≤ 0x28)
  | 8 => decide (0x200 ≤ o ∧ o < 0x248)
  | _ => false

/-- RC_READ (00 R11): a read of one word with an RC field. -/
def execRcRead (r : StatReq) (s : State) : R :=
  .next (if s.reach r.port.val && rcWord r.addr.toNat then statusGet r 1 s else s)

/-- A write of one word that a command stands for without its request. -/
def State.putWrite (s : State) (port addr : Nat) (v : W64) : State :=
  s.putOp { port := port, addr := addr, count := 1, src := 0, id := 0, write := some v, answers := false }

/-- JRN_SEL (13 R379). -/
def execJrnSel (p : Fin 2) (v : W64) (s : State) : R := .next (if s.reach p.val then s.putWrite p.val 0xA0010 v else s)
/-- ITG_FSEL (16 R452). -/
def execItgFsel (p : Fin 2) (v : W64) (s : State) : R := .next (if s.reach p.val then s.putWrite p.val 0x80310 v else s)
/-- BOT_ATTREQ (15 R434). -/
def execBotAttreq (p : Fin 2) (v : W64) (s : State) : R := .next (if s.reach p.val then s.putWrite p.val 0x90120 v else s)
/-- TIL_FAULT_VALID_CLEAR (03 R109). -/
def execTilFaultValidClear (t : Fin 16) (s : State) : R :=
  .next (if s.reach 1 then s.putWrite 1 (0x20008 + 0x100 * t.val) 0x10000 else s)

/-! ### Fetches -/

/-- The fetch of a journal record completes; an INDEX that is not held reads as zeros. -/
def jrnFetched (port : Nat) (s : State) : State :=
  let w := s.win port
  if w.jrnFetch then
    (s.setWin port { w with jrnFetch := false, jrnData := ((s.jrnRec? w.jrnSel).map JrnRec.words).getD [] }).answerWaiting
  else s

def execJrnFetchComplete (p : Fin 2) (s : State) : R := .next (if s.reach p.val then jrnFetched p.val s else s)

/-- The fetch of a fault record completes; a number that is not held reads as zeros. -/
def frecFetched (port : Nat) (s : State) : State :=
  let w := s.win port
  if w.frecFetch then
    (s.setWin port { w with frecFetch := false,
                            frec := ((s.flt.recs.find? fun r => r.num == w.fsel.toNat).map FaultRec.words).getD [] }).answerWaiting
  else s

def execFrecFetchComplete (p : Fin 2) (s : State) : R := .next (if s.reach p.val then frecFetched p.val s else s)

/-- The attestation report is formed. -/
def attFormed (port : Nat) (s : State) : State :=
  let w := s.win port
  if w.attFetch then (s.setWin port { w with attFetch := false }).answerWaiting else s

def execAttestationReportFormed (p : Fin 2) (s : State) : R := .next (if s.reach p.val then attFormed p.val s else s)

end Sys2Proof.Machine
end

