-- ==== Sys2Proof/Machine/HostPort.lean ====
section
/-! DEFINITION. The host port: configuration (13 R359), intake streams (R362, R363, R365), outflow streams (R364, R366), relay of
datagrams (R361; 10 R288), PTP (13 R380), the link, and what the port answers or discards below the host protocol (R357, R358). -/

namespace Sys2Proof.Machine

/-! ### Host configuration (13 Table 13.2), at 0x160 of the device configuration -/

def State.nout (s : State) : Nat := s.cfgw 3 48 16
/-- STREAM of outflow record `i`. -/
def State.outStreamNo (s : State) (i : Nat) : Nat := s.cfgw (4 + 4 * i + 2) 16 16
/-- Its destination address and UDP port. -/
def State.outAddr (s : State) (i : Nat) : W128 := BitVec.ofNat 128 (s.cfgAddr (44 + 4 + 4 * i))
def State.outPort (s : State) (i : Nat) : Nat := s.cfgw (4 + 4 * i + 2) 0 16

/-! ### Intake streams -/

/-- Epoch of an intake or outflow stream: one more with each start-up and each event that opens one (13 R362; log 56). -/
def State.inEpoch (s : State) (n : Nat) : W32 := BitVec.ofNat 32 (s.boot.starts + Sparse.get 0 s.boot.inOpens n)
def State.outEpoch (s : State) (n : Nat) : W32 := BitVec.ofNat 32 (s.boot.starts + Sparse.get 0 s.boot.outOpens n)

def State.inStream (s : State) (n : Nat) : InStream :=
  (s.host.ins.find? fun x => x.stream == n).getD
    { src := 0, stream := n, epoch := s.inEpoch n, cum := 0, held := [], passed := [], unacked := 0 }

def State.setIn (s : State) (x : InStream) : State :=
  { s with host := { s.host with ins := x :: s.host.ins.filter fun y => y.stream != x.stream } }

/-- A new epoch opens on an intake stream (13 R362). -/
def State.newEpoch (s : State) (n : Nat) : State :=
  let x := s.inStream n
  { s with boot := { s.boot with inOpens := Sparse.set 0 s.boot.inOpens n (Sparse.get 0 s.boot.inOpens n + 1) } }.setIn
    { x with epoch := x.epoch + 1, cum := 0, held := [], passed := [], unacked := 0 }

def laneStream (r : Rec) : Nat := rf r 0 16 16
def laneMstream (r : Rec) : Nat := rf r 0 0 16
def laneInbuf (r : Rec) : Nat := rf r 0 32 7 * 2 ^ 20

/-- Lanes that a stream feeds. -/
def State.lanesOf (s : State) (n : Nat) : List Nat :=
  (List.range 16).filter fun l => (s.lane l).state != .unused && laneStream (s.lane l).record == n

/-- RSTREAM of a plan that waits for its host restore (15 R432). -/
def State.restorePlan (s : State) (n : Nat) : Option Nat :=
  (List.range 4).find? fun p =>
    (s.plan p).pstate == .restoring && (s.plan p).ckpt.restore.isNone &&
      (((s.img? p).bind fun q => q.ckpt).map fun c => rf c 3 48 16 == n).getD false

/-- The write takes its bytes from this host stream (13 R376). -/
def ImgWrite.fedBy (w : ImgWrite) (n : Nat) : Bool := w.stream == n && !(w.port == 1 && n == 0xFFFF)
def State.imgStream (s : State) (n : Nat) : Bool := s.img.any fun w => w.fedBy n

def State.knowsStream (s : State) (n : Nat) : Bool :=
  !(s.lanesOf n).isEmpty || s.imgStream n || (s.restorePlan n).isSome

/-- WINDOW: free space, in whole 8,192-byte datagrams, of the fullest INBUF share of the stream's lanes, 0 while one is stalled
(13 R365). -/
def State.windowOf (s : State) (n : Nat) : Nat :=
  match s.lanesOf n with
  | [] => Config.openWindow
  | ls =>
    if ls.any fun l => (s.lane l).state == .stalled then 0
    else
      let free (l : Nat) : Nat := (laneInbuf (s.lane l).record - ((s.lane l).inBytes + (s.inStream n).passed.length)) / 8192
      ls.foldl (fun m l => min m (free l)) (free (ls.headD 0))

/-- Ranges of the SEQs held beyond CUM, at most 32 (13 R363). -/
def seqRanges : List Nat → List (W48 × Nat)
  | [] => []
  | a :: as =>
    match seqRanges as with
    | (b, n) :: r => if b.toNat = a + 1 then (BitVec.ofNat 48 a, n + 1) :: r else (BitVec.ofNat 48 a, 1) :: (b, n) :: r
    | [] => [(BitVec.ofNat 48 a, 1)]

/-- Payload of an ACK (13 R363). -/
def ackBody (cum : W48) (window : Nat) (rs : List (W48 × Nat)) : List Byte :=
  wordsBytes ([word64 [(rs.length, 48), (cum.toNat, 0)], word64 [(window % 2 ^ 32, 0)]] ++
    rs.map fun r => word64 [(r.2 % 65536, 48), (r.1.toNat, 0)])

def State.sendAck (s : State) (n : Nat) (cum : W48) (rs : List (W48 × Nat)) : State :=
  let x := s.inStream n
  let w := s.windowOf n
  s.hostSend (.ack n x.epoch cum w rs) (dgBytes 2 n s.dom.rank x.epoch 0 (ackBody cum w rs))

/-- Acknowledge what a stream holds. -/
def State.ackStream (s : State) (n : Nat) : State :=
  let x := s.inStream n
  let rs := (seqRanges (sortBy id (x.held.map fun h => h.1.toNat))).take 32
  (s.setIn { x with unacked := 0 }).sendAck n x.cum rs

/-- Pass on what is in SEQ order. -/
def InStream.advance (x : InStream) : Nat → InStream
  | 0 => x
  | n + 1 =>
    match x.held.find? fun h => h.1 == x.cum with
    | some h => InStream.advance
        { x with cum := x.cum + 1, held := x.held.filter fun y => y.1 != x.cum, passed := x.passed ++ h.2 } n
    | none => x

/-- Bytes passed on an image write's stream go to the slot in order, up to LENGTH (13 R376). -/
def State.takeImageBytes (s : State) (n : Nat) : State :=
  if s.imgStream n then
    let x := s.inStream n
    { s.setIn { x with passed := [] } with
      img := mapIf (fun w => w.fedBy n) (fun w => { w with bytes := w.bytes ++ x.passed.take w.room }) s.img }
  else s

/-- A DATA datagram of this rank with the current epoch (13 R362, R363, R365). -/
def State.takeData (s : State) (d : DataDg) : State :=
  let x := s.inStream d.stream
  if d.body.isEmpty then s.ackStream d.stream
  else if x.cum.toNat + s.windowOf d.stream ≤ d.seq.toNat then s
  else
    let x := { x with src := d.src, unacked := x.unacked + 1 }
    let x := if d.seq.toNat < x.cum.toNat || x.held.any (fun h => h.1 == d.seq) then x
      else { x with held := x.held ++ [(d.seq, d.body)] }
    let x := x.advance (x.held.length)
    let s := (s.setIn x).takeImageBytes d.stream
    if 16 ≤ x.unacked then s.ackStream d.stream else s

/-- DATA but for what a host restore makes of its bytes (13 R358, R360 to R365). -/
def State.dataIn (s : State) (d : DataDg) : State :=
  let s := s.rxdg 0
  if !d.formOk || !s.dgOk d.eth d.src s.dataPort || decide (8192 < d.body.length) then s.discardDg
  else if d.rank ≠ s.dom.rank then s.relayOut d.rank (fromSender d.src 0 (dgBytes 1 d.stream d.rank d.epoch d.seq d.body))
  else if !s.knowsStream d.stream then s.discardDg
  else if d.epoch ≠ (s.inStream d.stream).epoch then s.sendAck d.stream 0 []
  else s.takeData d

/-- The host port takes datagrams: it has started and its link is up. A relayed datagram needs no own link (13 R361). -/
def State.hostUp (s : State) : Bool := s.reach 0

/-- ACK_TIMER: received DATA is acknowledged within 20 µs (13 R363). -/
def execAckTimer (n : Nat) (s : State) : R :=
  .next (if s.hostUp && decide (0 < (s.inStream n).unacked) then s.ackStream n else s)

/-! ### Outflow streams -/

def State.modOut (s : State) (n : Nat) (f : OutStream → OutStream) : State :=
  { s with host := { s.host with outs := mapIf (fun x => x.stream == n) f s.host.outs } }
def State.out? (s : State) (n : Nat) : Option OutStream := s.host.outs.find? fun x => x.stream == n

/-- Retransmission timeout of a datagram sent first (13 R364). -/
def State.rtoUs (s : State) : Nat := max (4 * s.host.srttUs) 100

/-- Send queued datagrams while the window allows. -/
def State.pump (s : State) (n : Nat) : Nat → State
  | 0 => s
  | k + 1 =>
    match s.out? n with
    | some x =>
      match x.queue with
      | [] => s
      | b :: bs =>
        if (x.window.map fun w => decide (w ≤ x.flight.length)).getD false then s
        else
          let s := s.modOut n fun x =>
            { x with queue := bs, next := x.next + 1,
                     flight := x.flight ++ [{ seq := x.next, data := b, resends := 0, timeoutUs := s.rtoUs }] }
          (s.hostSend (.outflow n x.next false b) (dgBytes 1 n s.dom.rank x.epoch x.next b)).pump n k
    | none => s

/-- Bytes that a stream holds in the hub outflow buffer. -/
def OutStream.held (x : OutStream) : Nat := ((x.queue ++ x.flight.map (·.data)).map List.length).foldl (· + ·) 0

/-- A stream's share of the hub outflow buffer of 512 MB has room (13 R366): equal shares (log 54). -/
def State.outRoom (s : State) (n : Nat) : Bool := ((s.out? n).map fun x => decide (x.held < 2 ^ 29 / max 1 s.nout)).getD true

/-- Poison at the hub outflow path (09 Table 9.7, R242; 13 R366): POISON_SINK in the plan of the data, whose byte is at `a`. -/
def State.sinkFault (s : State) (p a : Nat) : State :=
  s.fault { code := 0x0304, plan := some p, unitk := if a < storeBase then 3 else 0,
            unit := if a < storeBase then a / 0x4000000000 else 0, d0 := BitVec.ofNat 64 (a / 256 * 256),
            d1 := if a < storeBase then s.sitState (a / 0x4000000000) else 0 }

/-- Hand an outflow record to its stream: KIND, PLAN, STEP and LENGTH, then its content (13 R366). -/
def State.outflow (s : State) (n kind plan : Nat) (step : W48) (bs : List Byte) : State :=
  let rec_ := wordsBytes [word64 [(kind, 60), (plan, 58), (step.toNat, 0)], word64 [(bs.length % 2 ^ 48, 0)]] ++ bs
  let pages := pagesOf rec_ 8192
  (s.modOut n fun x => { x with queue := x.queue ++ pages }).pump n (pages.length + 1)

/-- A new epoch opens on an outflow stream: SEQ starts again at 0. Datagrams not yet acknowledged are numbered again in it (log 39). -/
def State.newOutEpoch (s : State) (n : Nat) : State :=
  match s.out? n with
  | none => s
  | some x =>
    let q := x.flight.map (·.data) ++ x.queue
    let s := { s with boot := { s.boot with outOpens := Sparse.set 0 s.boot.outOpens n (Sparse.get 0 s.boot.outOpens n + 1) } }
    (s.modOut n fun x => { x with epoch := x.epoch + 1, next := 0, flight := [], queue := q, stalled := false }).pump n (q.length + 1)

/-- ACK: everything it covers is freed; the round trip is smoothed by 1/8 (13 R363, R364; log 24). -/
def ackIn (a : AckDg) (s : State) : State :=
  let s := s.rxdg 0
  match s.out? a.stream with
  | none => s.discardDg
  | some x =>
    if a.epoch ≠ x.epoch then s
    else
      let covered (q : W48) : Bool :=
        decide (q.toNat < a.cum.toNat) || a.ranges.any fun r => decide (r.1.toNat ≤ q.toNat ∧ q.toNat < r.1.toNat + r.2)
      let srtt := if s.host.srttUs = 0 then a.rttUs else (7 * s.host.srttUs + a.rttUs) / 8
      let s := s.modOut a.stream fun x =>
        let fl := x.flight.filter fun d => !covered d.seq
        { x with flight := fl, window := some a.window, stalled := x.stalled && fl.any fun d => decide (16 ≤ d.resends) }
      { s with host := { s.host with srttUs := srtt } }.pump a.stream (x.queue.length + 1)

/-- An ACK for another rank is relayed to it (13 R361). -/
def ackAt (a : AckDg) (s : State) : State :=
  if !s.frameOk a.eth then s
  else if !s.dgOk a.eth a.src s.dataPort then (s.rxdg 0).discardDg
  else if a.rank ≠ s.dom.rank then
    (s.rxdg 0).relayOut a.rank (fromSender a.src 0 (dgBytes 2 a.stream a.rank a.epoch 0 (ackBody a.cum a.window a.ranges)))
  else ackIn a s

def execAck (a : AckDg) (s : State) : R := .next (if s.hostUp then ackAt a s else s)

/-- RETRANSMISSION_TIMEOUT (13 R364). -/
def resendOut (n : Nat) (seq : W48) (s : State) : State :=
  match s.out? n with
  | none => s
  | some x =>
    match x.flight.find? fun d => d.seq == seq with
    | none => s
    | some d =>
      let s := s.modOut n fun x =>
        { x with flight := mapIf (fun e => e.seq == seq)
                   (fun e => { e with resends := e.resends + 1, timeoutUs := min 50000 (2 * e.timeoutUs) }) x.flight,
                 stalled := x.stalled || d.resends + 1 == 16 }
      let s := { s with host := { s.host with retx := satInc s.host.retx } }
      let s := if d.resends + 1 = 16 then s.fault { code := 0x0702 } else s
      s.hostSend (.outflow n seq true d.data) (dgBytes 1 n s.dom.rank x.epoch seq d.data)

def execRetransmissionTimeout (n : Nat) (seq : W48) (s : State) : R := .next (if s.hostUp then resendOut n seq s else s)

/-- KEEP_ALIVE: an idle outflow stream sends a keep-alive, which uses no sequence number (13 R362). -/
def execKeepAlive (n : Nat) (s : State) : R :=
  .next (match s.out? n with
    | some x => if s.hostUp then s.hostSend (.keepAlive n x.next) (dgBytes 1 n s.dom.rank x.epoch x.next []) else s
    | none => s)

/-! ### PTP (13 R380) -/

/-- Leaving the locked state raises PTP_UNLOCKED. -/
def State.setPtp (s : State) (v : Nat) : State :=
  let was := s.clk.ptp
  let s := { s with clk := { s.clk with ptp := v } }
  if was = 3 ∧ v ≠ 3 then s.fault { code := 0x0704 } else s

/-- ASYM: the delay from the master exceeds the mean by it (IEEE 1588; log 60). -/
def State.asym (s : State) : Int := sext (s.cfgw 3 32 16) 16

/-- PTP_SYNC: a message of the port's domain gives an offset, which ASYM lessens; it corrects the kept time, and 16 consecutive intervals
below 100 ns lock the clock. -/
def ptpSync (offset : Int) (calibrated : Bool) (s : State) : State :=
  let offset := offset - s.asym
  let run := if offset.natAbs < 100 ∧ calibrated then s.clk.ptpRun + 1 else 0
  { s with clk := { s.clk with ptpOfs := s.clk.ptpOfs - offset, ptpLast := BitVec.ofInt 32 offset, ptpRun := run } }.setPtp
    (if 16 ≤ run then 3 else 2)

def execPtpSync (offset : Int) (m : PtpIn) (s : State) : R :=
  .next (if s.hostUp && s.host.link == 2 && m.domain == s.cfgw 2 48 8 then ptpSync offset m.calibrated s else s)

/-- PTP_HOLDOVER: 3 s without sync. -/
def execPtpHoldover (s : State) : R :=
  .next (if s.hostUp && (s.clk.ptp == 2 || s.clk.ptp == 3) then
      ({ s with clk := { s.clk with ptpRun := 0 } }).setPtp 4
    else s)

/-! ### The link and the layers below -/

/-- HOST_LINK_DOWN (13 R383). -/
def State.hostDown (s : State) : State :=
  let s' := { s with host := { s.host with link := 0 } }
  if s.host.link = 2 then s'.fault { code := 0x0701 } else s'
def execHostLinkDown (s : State) : R := .next (if s.hostUp then s.hostDown else s)

/-- HOST_LINK_UP: PTP starts listening with the first link (13 R380, R382). -/
def hostLinkUp (s : State) : State :=
  let s := { s with host := { s.host with link := 2 } }
  if s.clk.ptp = 0 then s.setPtp 1 else s
def execHostLinkUp (s : State) : R := .next (if s.hostUp && s.clk.ref156.getLsbD 2 then hostLinkUp s else s)

/-- NEIGHBOR_DISCOVERY_ARP_ECHO: answered for the own addresses, otherwise discarded; PAUSE is not a datagram (13 R357, R358). -/
def hostFrame (f : HostFrame) (s : State) : State :=
  match f with
  | .neighborDiscovery t =>
    if t.toNat = s.v6addr then s.send (.reply 0 (leBytes 6 s.dev.mac.toNat)) else s
  | .arp t => if s.v4on && t.toNat == s.v4addr then s.send (.reply 1 (leBytes 6 s.dev.mac.toNat)) else s
  | .echo6 d => s.send (.reply 2 d)
  | .echo4 d => if s.v4on then s.send (.reply 3 d) else (s.rxdg 0).discardDg
  | .pause => s
  | .fragment => (s.rxdg 0).discardDg
  | .other => (s.rxdg 0).discardDg

def execNeighborDiscoveryArpEcho (f : HostFrame) (s : State) : R :=
  .next (if s.hostUp && s.host.link == 2 then hostFrame f s else s)

end Sys2Proof.Machine
end

