-- ==== Sys2Proof/Machine/Jpeg.lean ====
section
/-! DEFINITION. JPEG up to the dequantised coefficients: tables, scans, sequential and progressive Huffman coding (12 R333, Table 12.5;
ITU-T T.81, log 12). -/

namespace Sys2Proof.Machine

/-- A component: identifier, sampling, quantisation table number, blocks in a row and rows of blocks of its plane, whole MCUs; its
quantisation table as of its first scan; its coefficients, in natural order. -/
structure JpegComp where
  id : Nat
  h : Nat
  v : Nat
  tq : Nat
  wide : Nat
  high : Nat
  quant : Option (List Nat)
  blocks : List (List Int)
deriving DecidableEq, Repr

/-- A decoder in the middle of an image. -/
structure Jpeg where
  width : Nat
  height : Nat
  progressive : Bool
  comps : List JpegComp
  /-- by table number. -/
  quants : List (Option (List Nat))
  dc : List (Option Prefix)
  ac : List (Option Prefix)
  restart : Nat
deriving DecidableEq, Repr

def Jpeg.init : Jpeg :=
  { width := 0, height := 0, progressive := false, comps := [], quants := List.replicate 4 none, dc := List.replicate 4 none,
    ac := List.replicate 4 none, restart := 0 }

/-- Natural position of each coefficient in zigzag order. -/
def zigzag : List Nat :=
  [0, 1, 8, 16, 9, 2, 3, 10, 17, 24, 32, 25, 18, 11, 4, 5, 12, 19, 26, 33, 40, 48, 41, 34, 27, 20, 13, 6, 7, 14, 21, 28] ++
  [35, 42, 49, 56, 57, 50, 43, 36, 29, 22, 15, 23, 30, 37, 44, 51, 58, 59, 52, 45, 38, 31, 39, 46, 53, 60, 61, 54, 47, 55, 62, 63]
def zz (k : Nat) : Nat := zigzag.getD k 0

/-! ### Tables -/

/-- Quantisation tables of a DQT segment. -/
def jpegDqt : Nat → List Byte → List (Option (List Nat)) → Option (List (Option (List Nat)))
  | 0, _, _ => none
  | f + 1, bs, qs =>
    if bs.isEmpty then some qs
    else
      let n := if byteAt bs 0 / 16 = 0 then 1 else 2
      if 1 < byteAt bs 0 / 16 ∨ 3 < byteAt bs 0 % 16 ∨ bs.length < 1 + 64 * n then none
      else jpegDqt f (bs.drop (1 + 64 * n)) (qs.set (byteAt bs 0 % 16) (some ((List.range 64).map fun i => beAt bs (1 + n * i) n)))

/-- Huffman tables of a DHT segment; a code longer than its space is undefined. -/
def jpegDht : Nat → List Byte → Jpeg → Option Jpeg
  | 0, _, _ => none
  | f + 1, bs, j =>
    if bs.isEmpty then some j
    else
      let counts := (List.range 16).map fun i => byteAt bs (1 + i)
      let n := counts.foldl (· + ·) 0
      let t : Prefix := { counts := counts, syms := ((bs.drop 17).take n).map BitVec.toNat }
      let k := byteAt bs 0 % 16
      if 1 < byteAt bs 0 / 16 ∨ 3 < k ∨ bs.length < 17 + n ∨ 2 ^ 16 < t.space then none
      else
        jpegDht f (bs.drop (17 + n))
          (if byteAt bs 0 / 16 = 0 then { j with dc := j.dc.set k (some t) } else { j with ac := j.ac.set k (some t) })

/-- The frame header, which the header check has read (`jpegFrame`). -/
def jpegSof (m : Nat) (bs : List Byte) (j : Jpeg) : Option Jpeg :=
  if !j.comps.isEmpty then none
  else
    let w := beAt bs 3 2
    let h := beAt bs 1 2
    let hv (c : Nat) : Nat × Nat := (byteAt bs (7 + 3 * c) / 16, byteAt bs (7 + 3 * c) % 16)
    let comp (c : Nat) : JpegComp :=
      let wide := ceilDiv w (8 * (hv 0).1) * (hv c).1
      let high := ceilDiv h (8 * (hv 0).2) * (hv c).2
      { id := byteAt bs (6 + 3 * c), h := (hv c).1, v := (hv c).2, tq := byteAt bs (8 + 3 * c), wide := wide, high := high,
        quant := none, blocks := List.replicate (wide * high) (List.replicate 64 0) }
    some { j with width := w, height := h, progressive := m == 0xC2, comps := (List.range (byteAt bs 5)).map comp }

/-! ### Blocks -/

/-- The value of `s` bits. -/
def rdExtend (s : Nat) : Rd Int := do
  let v ← rdDown s
  return if s = 0 then 0 else if v < 2 ^ (s - 1) then (v : Int) - 2 ^ s + 1 else v

/-- What a scan keeps from block to block: DC predictions of the components, blocks left of an end-of-band run. -/
structure ScanSt where
  preds : List Int
  eobrun : Nat
deriving DecidableEq, Repr

/-- A scan's parameters: spectral selection and successive approximation. -/
structure ScanPar where
  ss : Nat
  se : Nat
  ah : Nat
  al : Nat
  progressive : Bool
deriving DecidableEq, Repr

/-- DC of a block: the first pass, or one more bit. -/
def rdDc (x : ScanPar) (t : Prefix) (i : Nat) (st : ScanSt) (b : List Int) : Rd (ScanSt × List Int) := do
  if x.ah = 0 then
    let s ← t.rd
    if 15 < s then failure
    else
      let p := st.preds.getD i 0 + (← rdExtend s)
      return ({ st with preds := st.preds.set i p }, b.set 0 (p * 2 ^ x.al))
  else
    let v ← rdBit
    return (st, if v = 1 then b.set 0 (b.getD 0 0 + 2 ^ x.al) else b)

/-- AC coefficients from index `k`, first pass. A coefficient index beyond the band is wrong. -/
def rdAc (x : ScanPar) (t : Prefix) : Nat → Nat → List Int → Rd (Nat × List Int)
  | 0, _, b => pure (0, b)
  | f + 1, k, b => do
    if x.se < k then return (0, b)
    else
      let rs ← t.rd
      let r := rs / 16
      let s := rs % 16
      if s = 0 then
        if r = 15 then (if x.se < k + 15 then failure else rdAc x t f (k + 16) b)
        else if x.progressive then return (2 ^ r - 1 + (← rdDown r), b)
        else return (0, b)
      else if x.se < k + r then failure
      else
        let v ← rdExtend s
        rdAc x t f (k + r + 1) (b.set (zz (k + r)) (v * 2 ^ x.al))

/-- A coefficient that is not zero takes its correction bit. -/
def rdRefine (x : ScanPar) (k : Nat) (b : List Int) : Rd (List Int) := do
  let c := b.getD (zz k) 0
  let v ← rdBit
  return if v = 1 ∧ c.natAbs / 2 ^ x.al % 2 = 0 then b.set (zz k) (if 0 < c then c + 2 ^ x.al else c - 2 ^ x.al) else b

/-- Correct the coefficients from `k` on, past `r` that are zero; the place of the next zero. -/
def rdSkip (x : ScanPar) : Nat → Nat → Nat → List Int → Rd (Nat × List Int)
  | 0, k, _, b => pure (k, b)
  | f + 1, k, r, b => do
    if x.se < k then return (k, b)
    else if b.getD (zz k) 0 ≠ 0 then rdSkip x f (k + 1) r (← rdRefine x k b)
    else if r = 0 then return (k, b)
    else rdSkip x f (k + 1) (r - 1) b

/-- AC coefficients from index `k`, a pass that adds one bit. -/
def rdAcMore (x : ScanPar) (t : Prefix) : Nat → Nat → List Int → Rd (Nat × List Int)
  | 0, _, b => pure (0, b)
  | f + 1, k, b => do
    if x.se < k then return (0, b)
    else
      let rs ← t.rd
      let r := rs / 16
      let s := rs % 16
      if s = 0 ∧ r < 15 then
        let run := 2 ^ r + (← rdDown r)
        let z ← rdSkip x 64 k 64 b
        return (run - 1, z.2)
      else if 1 < s then failure
      else
        let sign ← rdDown s
        let v : Int := if sign = 1 then 2 ^ x.al else - 2 ^ x.al
        let z ← rdSkip x 64 k r b
        if x.se < z.1 then (if s = 0 then return (0, z.2) else failure)
        else rdAcMore x t f (z.1 + 1) (if s = 0 then z.2 else z.2.set (zz z.1) v)

/-- A block of component `i` of the scan. -/
def rdBlock (x : ScanPar) (dc ac : Option Prefix) (i : Nat) (st : ScanSt) (b : List Int) : Rd (ScanSt × List Int) := do
  let (st, b) ← if x.ss = 0 then (match dc with
      | some t => rdDc x t i st b
      | none => if x.ah = 0 then failure else rdDc x { counts := [], syms := [] } i st b) else pure (st, b)
  if x.se = 0 then return (st, b)
  else if 0 < st.eobrun then
    let z ← if x.ah = 0 then pure (0, b) else rdSkip x 64 (max 1 x.ss) 64 b
    return ({ st with eobrun := st.eobrun - 1 }, z.2)
  else
    match ac with
    | none => failure
    | some t =>
      let z ← if x.ah = 0 then rdAc x t 64 (max 1 x.ss) b else rdAcMore x t 64 (max 1 x.ss) b
      return ({ st with eobrun := z.1 }, z.2)

/-! ### Scans -/

/-- A component of a scan: its place in the frame and its tables. -/
structure ScanComp where
  comp : Nat
  dc : Option Prefix
  ac : Option Prefix
deriving DecidableEq, Repr

/-- The blocks of MCU `n` of a scan: scan component and block number. One component alone has one block an MCU (T.81 A.2.2). -/
def Jpeg.mcu (j : Jpeg) (cs : List ScanComp) (n : Nat) : List (Nat × Nat) :=
  let c0 := j.comps.headD { id := 0, h := 1, v := 1, tq := 0, wide := 0, high := 0, quant := none, blocks := [] }
  match cs with
  | [c] =>
    let c := j.comps.getD c.comp c0
    let w := max 1 (ceilDiv (ceilDiv (j.width * c.h) c0.h) 8)
    [(0, n / w * c.wide + n % w)]
  | _ =>
    cs.zipIdx.flatMap fun e =>
      let c := j.comps.getD e.1.comp c0
      let w := max 1 (c.wide / max 1 c.h)
      (List.range c.v).flatMap fun y => (List.range c.h).map fun x => (e.2, (n / w * c.v + y) * c.wide + n % w * c.h + x)

/-- MCUs of a scan. -/
def Jpeg.mcus (j : Jpeg) (cs : List ScanComp) : Nat :=
  let c0 := j.comps.headD { id := 0, h := 1, v := 1, tq := 0, wide := 0, high := 0, quant := none, blocks := [] }
  match cs with
  | [c] =>
    let c := j.comps.getD c.comp c0
    ceilDiv (ceilDiv (j.width * c.h) c0.h) 8 * ceilDiv (ceilDiv (j.height * c.v) c0.v) 8
  | _ => ceilDiv j.width (8 * max 1 c0.h) * ceilDiv j.height (8 * max 1 c0.v)

/-- Decode the MCUs of one entropy-coded segment. -/
def rdSegment (x : ScanPar) (cs : List ScanComp) (ns : List Nat) (j : Jpeg) : Rd Jpeg := do
  let z ← (ns.flatMap (j.mcu cs)).foldlM (fun (a : ScanSt × Jpeg) e => do
    match cs[e.1]? with
    | none => failure
    | some c =>
      match a.2.comps[c.comp]? with
      | none => failure
      | some k =>
        let r ← rdBlock x c.dc c.ac e.1 a.1 (k.blocks.getD e.2 [])
        return (r.1, { a.2 with comps := a.2.comps.set c.comp { k with blocks := k.blocks.set e.2 r.2 } }))
    (({ preds := List.replicate 4 0, eobrun := 0 } : ScanSt), j)
  return z.2

/-- Entropy-coded segments: stuffed zeros taken out, cut at the restart markers, which count on from RST0; none for a wrong one. What is left
begins with a marker. `cur` is the segment in hand, its last byte first. -/
def scanSegments : List Byte → List Byte → List (List Byte) → Option (List (List Byte) × List Byte)
  | [], _, _ => none
  | [_], _, _ => none
  | a :: b :: bs, cur, segs =>
    if a ≠ 0xFF then scanSegments (b :: bs) (a :: cur) segs
    else if b = 0 then scanSegments bs (0xFF :: cur) segs
    else if b = 0xFF then scanSegments (b :: bs) cur segs
    else if 0xD0 ≤ b.toNat ∧ b.toNat ≤ 0xD7 then
      if b.toNat - 0xD0 = segs.length % 8 then scanSegments bs [] (segs ++ [cur.reverse]) else none
    else some (segs ++ [cur.reverse], a :: b :: bs)

/-- A scan header names this scan component. -/
def Jpeg.scanComp (j : Jpeg) (bs : List Byte) (i : Nat) : Option ScanComp :=
  (j.comps.findIdx? fun c => c.id == byteAt bs (1 + 2 * i)).map fun k =>
    { comp := k, dc := (j.dc.getD (byteAt bs (2 + 2 * i) / 16) none), ac := (j.ac.getD (byteAt bs (2 + 2 * i) % 16) none) }

/-- The parameters of a scan of `n` components are in order for the frame. -/
def ScanPar.ok (x : ScanPar) (n : Nat) : Bool :=
  if x.progressive then
    decide (x.ss ≤ x.se ∧ x.se ≤ 63 ∧ x.al ≤ 13) && (if x.ss = 0 then x.se == 0 else n == 1) && (x.ah == 0 || x.ah == x.al + 1)
  else x.ss == 0 && x.se == 63 && x.ah == 0 && x.al == 0

/-- A scan: its header `bs`, and the bytes behind it. A component's quantisation table is the one in force at its first scan. -/
def jpegScan (bs rest : List Byte) (j : Jpeg) : Option (Jpeg × List Byte) := do
  let n := byteAt bs 0
  let x : ScanPar := { ss := byteAt bs (1 + 2 * n), se := byteAt bs (2 + 2 * n), ah := byteAt bs (3 + 2 * n) / 16, al := byteAt bs (3 + 2 * n) % 16,
                       progressive := j.progressive }
  let cs ← (List.range n).mapM (j.scanComp bs)
  if n = 0 ∨ bs.length ≠ 4 + 2 * n ∨ !x.ok n ∨ cs.length ≠ ((cs.map (·.comp)).eraseDups).length then none
  else
    let comps ← j.comps.zipIdx.mapM fun e =>
      if (cs.map (·.comp)).contains e.2 && e.1.quant.isNone then
        ((j.quants.getD e.1.tq none).map fun q => { e.1 with quant := some q }) else some e.1
    let (segs, rest) ← scanSegments rest [] []
    let total := j.mcus cs
    let per := if j.restart = 0 then total else j.restart
    if segs.length ≠ ceilDiv total (max 1 per) then none
    else
      let j ← segs.zipIdx.foldlM (fun j e =>
        ((rdSegment x cs ((List.range (min per (total - e.2 * per))).map (e.2 * per + ·)) j).run (bitsDown e.1)).map (·.1))
        { j with comps := comps }
      return (j, rest)

/-- Markers up to EOI. -/
def jpegParts : Nat → List Byte → Jpeg → Option Jpeg
  | 0, _, _ => none
  | f + 1, bs, j =>
    let m := byteAt bs 1
    let len := beAt bs 2 2
    let seg := (bs.drop 4).take (len - 2)
    let rest := bs.drop (2 + len)
    if byteAt bs 0 ≠ 0xFF ∨ bs.length < 2 then none
    else if m = 0xFF then jpegParts f (bs.drop 1) j
    else if m = 0xD9 then some j
    else if len < 2 ∨ bs.length < 2 + len then none
    else if m = 0xDB then (jpegDqt (seg.length + 1) seg j.quants).bind fun q => jpegParts f rest { j with quants := q }
    else if m = 0xC4 then (jpegDht (seg.length + 1) seg j).bind (jpegParts f rest)
    else if m = 0xDD then (if len = 4 then jpegParts f rest { j with restart := beAt seg 0 2 } else none)
    else if 0xC0 ≤ m ∧ m ≤ 0xC2 then (jpegSof m seg j).bind (jpegParts f rest)
    else if m = 0xDA then (if j.comps.isEmpty then none else (jpegScan seg rest j).bind fun r => jpegParts f r.2 r.1)
    else if (0xE0 ≤ m ∧ m ≤ 0xEF) ∨ m = 0xFE then jpegParts f rest j
    else none

/-- Dequantised coefficients of each component, with its blocks in a row; every component has had a scan. -/
def jpegDecode (bs : List Byte) : Option (List (Nat × List (List Int))) :=
  (jpegParts bs.length (bs.drop 2) Jpeg.init).bind fun j =>
    j.comps.mapM fun c => c.quant.map fun q =>
      let nat := (List.range 64).map fun i => (q.getD ((zigzag.findIdx? fun k => k == i).getD 0) 1 : Int)
      (c.wide, c.blocks.map fun b => b.zipWith (· * ·) nat)

end Sys2Proof.Machine
end

