-- ==== Sys2Proof/Machine/Media.lean ====
section
/-! DEFINITION. What the media engines compute (12 R334 to R340): JPEG transform and colour, pyramids, PCM, resampling and
windowing, UTF-8 and byte-pair merging, normalisation. -/

namespace Sys2Proof.Machine

/-! ### JPEG (R334, R335) -/

/-- 4,096 × cos(kπ / 16), rounded, for k = 0 to 8. -/
def cosTab : List Int := [4096, 4017, 3784, 3406, 2896, 2276, 1567, 799, 0]

/-- 4,096 × cos(kπ / 16), rounded. -/
def cos16 (k : Nat) : Int :=
  let k := k % 32
  let k := if 16 < k then 32 - k else k
  if k ≤ 8 then cosTab.getD k 0 else - cosTab.getD (16 - k) 0

/-- `T[x][u]` (R334); `8192 / (2 √2)` rounds to 2,896. -/
def idctT (x u : Nat) : Int := if u = 0 then 2896 else cos16 ((2 * x + 1) * u)

def sumInt (l : List Int) : Int := l.foldl (· + ·) 0

/-- The 64 samples of a block of dequantised coefficients, row by row. -/
def idctBlock (f : List Int) : List Nat :=
  let r := (List.range 64).map fun i =>
    (sumInt ((List.range 8).map fun u => idctT (i % 8) u * f.getD (i / 8 * 8 + u) 0) + 1024) >>> 11
  (List.range 64).map fun i =>
    let y := (sumInt ((List.range 8).map fun v => idctT (i / 8) v * r.getD (8 * v + i % 8) 0) + 16384) >>> 15
    (clampInt 0 255 (y + 128)).toNat

/-- Sample `(x, y)` of a component of `w` blocks a row. -/
def sampleAt (w : Nat) (blocks : List (List Nat)) (x y : Nat) : Nat :=
  (blocks.getD (y / 8 * w + x / 8) []).getD (8 * (y % 8) + x % 8) 0

/-- The components as planes of the image's extents; chroma is replicated (R334). -/
def jpegPlanes (w h sh sv : Nat) (comps : List (Nat × List (List Int))) : List (List Nat) :=
  comps.zipIdx.map fun c =>
    let blocks := c.1.2.map idctBlock
    let hx := if c.2 = 0 then 1 else max 1 sh
    let vx := if c.2 = 0 then 1 else max 1 sv
    (List.range (w * h)).map fun i => sampleAt c.1.1 blocks (i % w / hx) (i / w / vx)

/-- YCbCr to RGB (R335). -/
def toRgb (y cb cr : Nat) : Nat × Nat × Nat :=
  let y : Int := y
  let b : Int := (cb : Int) - 128
  let r : Int := (cr : Int) - 128
  ((clampInt 0 255 (y + ((91881 * r + 32768) >>> 16))).toNat,
   (clampInt 0 255 (y - ((22554 * b + 46802 * r + 32768) >>> 16))).toNat,
   (clampInt 0 255 (y + ((116130 * b + 32768) >>> 16))).toNat)

def colourPlanes (ps : List (List Nat)) : List (List Nat) :=
  match ps with
  | [y, cb, cr] =>
    let px := (y.zip (cb.zip cr)).map fun p => toRgb p.1 p.2.1 p.2.2
    [px.map (·.1), px.map (·.2.1), px.map (·.2.2)]
  | _ => ps

/-! ### Pyramids (R338) -/

/-- Numerator and denominator of RATIO. -/
def ratioOf (r : Nat) : Nat × Nat := if r = 0 then (1, 2) else if r = 1 then (2, 3) else (3, 4)

/-- Coefficients by RATIO and phase in units of `1 / (2 num)` (Table 12.6). -/
def resizeCoef (ratio ph : Nat) : List Int :=
  match ratio, ph with
  | 0, _ => [-4, -12, 36, 108, 108, 36, -12, -4]
  | 1, 1 => [3, -12, 39, 147, 96, -9, -8, 0]
  | 1, _ => [0, -8, -9, 96, 147, 39, -12, 3]
  | _, 1 => [6, -19, 24, 180, 88, -28, 4, 1]
  | _, 3 => [2, -6, -17, 149, 149, -17, -6, 2]
  | _, _ => [1, 4, -28, 88, 180, 24, -19, 6]

def resizeLen (ratio n : Nat) : Nat := max 1 (n * (ratioOf ratio).1 / (ratioOf ratio).2)

/-- One pass along a row of samples of `b` bits. -/
def resizeRow (ratio b : Nat) (row : List Nat) : List Nat :=
  let n := row.length
  let num := (ratioOf ratio).1
  (List.range (resizeLen ratio n)).map fun j =>
    let x : Int := ((2 * j + 1) * (ratioOf ratio).2 : Nat) - (num : Int)
    let i := x / (2 * num)
    let c := resizeCoef ratio (x % (2 * num)).toNat
    let s := sumInt ((List.range 8).map fun t =>
      c.getD t 0 * (row.getD (clampInt 0 ((n : Int) - 1) (i - 3 + t)).toNat 0 : Nat))
    (clampInt 0 ((2 : Int) ^ b - 1) ((s + 128) >>> 8)).toNat

def rowsOf (w h : Nat) (p : List Nat) : List (List Nat) := (List.range h).map fun y => (p.drop (y * w)).take w

/-- Horizontally, then vertically. -/
def resizePlane (ratio b w h : Nat) (p : List Nat) : List Nat :=
  let rows := (rowsOf w h p).map (resizeRow ratio b)
  let w' := resizeLen ratio w
  let cols := (List.range w').map fun x => resizeRow ratio b (rows.map fun r => r.getD x 0)
  (List.range (w' * resizeLen ratio h)).map fun i => (cols.getD (i % w') []).getD (i / w') 0

/-- Extents of each level. -/
def levelDims (ratio : Nat) : Nat → Nat → Nat → List (Nat × Nat)
  | 0, _, _ => []
  | n + 1, w, h => (w, h) :: levelDims ratio n (resizeLen ratio w) (resizeLen ratio h)

/-- The planes of each level: level 0 is the converted image. -/
def pyramid (ratio b : Nat) : Nat → Nat → Nat → List (List Nat) → List (List (List Nat))
  | 0, _, _, _ => []
  | n + 1, w, h, ps =>
    ps :: pyramid ratio b n (resizeLen ratio w) (resizeLen ratio h) (ps.map (resizePlane ratio b w h))

/-! ### Normalisation (R339) -/

/-- Bytes of an output element. -/
def outBytes (outf : Nat) : Nat := if outf = 0 then 2 else 1
/-- The code of `FMA(x, s, o)` in the OUTF format, without block scales. -/
def normCode (outf : Nat) (so : W32 × W32) (x : W32) : List Byte :=
  let y := ffma x so.1 so.2
  leBytes (outBytes outf) (convert (if outf = 0 then 7 else 3) false y (f32 y)).code
def natF32 (n : Nat) : W32 := toF32 (.fin false n 0)

/-! ### Audio (R336, R340) -/

/-- An integer sample of `bits` bits as FP32. -/
def sampleF32 (bits : Nat) (v : Int) : W32 := toF32 (.fin (decide (v < 0)) v.natAbs (if bits = 24 then -23 else -15))

def pcmBytes (pcmf : Nat) : Nat := if pcmf = 0 then 2 else if pcmf = 1 then 3 else 4

/-- Channels of a PCM payload as FP32; none where it is not whole frames or holds a sample that is not finite. -/
def pcmChannels (pcmf pch : Nat) (bs : List Byte) : Option (List (List W32)) :=
  let n := pcmBytes pcmf
  if pch = 0 ∨ bs.length % (n * pch) ≠ 0 then none
  else
    let xs := (chunks n bs.length bs).map fun b =>
      if pcmf = 2 then BitVec.ofNat 32 (leNat b) else sampleF32 (8 * n) (sext (leNat b) (8 * n))
    if xs.all fun x => (f32 x).isFinite then
      some ((List.range pch).map fun c => (List.range (xs.length / pch)).map fun i => xs.getD (i * pch + c) 0)
    else none

/-- Samples per channel at the output rate (log 12). -/
def resampledLen (n rin hz : Nat) : Nat := if rin = hz then n else ceilDiv (n * hz) rin

/-- Resample a channel with the 64-phase filter. -/
def resample (filter : List (List W32)) (rin hz : Nat) (xs : List W32) : List W32 :=
  if rin = hz then xs
  else
    let n := xs.length
    (List.range (resampledLen n rin hz)).map fun j =>
      let t := j * rin / hz
      let taps := filter.getD (64 * (j * rin % hz) / hz) []
      (List.range 32).foldl (fun a k =>
        let x := if 15 ≤ t + k ∧ t + k - 15 < n then xs.getD (t + k - 15) 0 else 0
        ffma (taps.getD k 0) x a) 0

/-- Frames per channel of a bucket extent, for WIN not 0. -/
def frameCount (d0 win hop : Nat) : Nat := if d0 < win then 0 else (d0 - win) / hop + 1

/-! ### Text (R337) -/

/-- UTF-8 state: bytes still wanted and the range of the next; none after an error. -/
def utf8Step (st : Option (Nat × Nat × Nat)) (b : Byte) : Option (Nat × Nat × Nat) :=
  let b := b.toNat
  match st with
  | none => none
  | some (0, _, _) =>
    if b < 0x80 then some (0, 0, 0)
    else if 0xC2 ≤ b ∧ b ≤ 0xDF then some (1, 0x80, 0xBF)
    else if b = 0xE0 then some (2, 0xA0, 0xBF)
    else if b = 0xED then some (2, 0x80, 0x9F)
    else if 0xE1 ≤ b ∧ b ≤ 0xEF then some (2, 0x80, 0xBF)
    else if b = 0xF0 then some (3, 0x90, 0xBF)
    else if 0xF1 ≤ b ∧ b ≤ 0xF3 then some (3, 0x80, 0xBF)
    else if b = 0xF4 then some (3, 0x80, 0x8F)
    else none
  | some (n + 1, lo, hi) => if lo ≤ b ∧ b ≤ hi then some (n, 0x80, 0xBF) else none

/-- RFC 3629: no overlong form, surrogate, value above U+10FFFF or truncated sequence. -/
def utf8Ok (bs : List Byte) : Bool :=
  match bs.foldl utf8Step (some (0, 0, 0)) with
  | some (0, _, _) => true
  | _ => false

/-- A leading U+FEFF is removed (Table 12.5). -/
def dropBom (bs : List Byte) : List Byte := if bs.take 3 = [0xEF#8, 0xBB#8, 0xBF#8] then bs.drop 3 else bs

/-- Words: split before each space that follows a byte other than a space. -/
def splitWords : List Byte → List (List Nat)
  | [] => []
  | b :: bs =>
    match splitWords bs with
    | (x :: w) :: ws =>
      if x = 0x20 ∧ b.toNat ≠ 0x20 then [b.toNat] :: (x :: w) :: ws else (b.toNat :: x :: w) :: ws
    | ws => [b.toNat] :: ws

/-- Lowest merge that an adjacent pair of the word has. -/
def bestMerge (merges : List (Nat × Nat)) : List Nat → Option Nat
  | a :: b :: r =>
    let m := merges.findIdx? fun p => p == (a, b)
    match m, bestMerge merges (b :: r) with
    | some i, some j => some (min i j)
    | some i, none => some i
    | none, x => x
  | _ => none

/-- Replace the leftmost pair of merge `i`. -/
def applyMerge (pair : Nat × Nat) (i : Nat) : List Nat → List Nat
  | a :: b :: r => if (a, b) = pair then (256 + i) :: r else a :: applyMerge pair i (b :: r)
  | r => r

/-- Merge a word until no pair is in the table; each merge shortens it by one. -/
def mergeWord (merges : List (Nat × Nat)) : Nat → List Nat → List Nat
  | 0, w => w
  | n + 1, w =>
    match bestMerge merges w with
    | some i => mergeWord merges n (applyMerge (merges.getD i (0, 0)) i w)
    | none => w

def tokenise (merges : List (Nat × Nat)) (bs : List Byte) : List Nat :=
  (splitWords bs).flatMap fun w => mergeWord merges w.length w

end Sys2Proof.Machine
end

