-- ==== Sys2Proof/Machine/Intake.lean ====
section
/-! DEFINITION. Media intake (12): lane records, classification (R331, R332), engines, decisions in SEQ order (R330, R346, R347),
staging and manifests (R342, R343, R348, R351), sensor positions (R349, R350). -/

namespace Sys2Proof.Machine

/-! ### Lane records (Tables 12.1, 12.2) -/

def laneKind (r : Rec) : Nat := rf r 0 55 3
def laneRdepth (r : Rec) : Nat := rf r 0 47 8
def laneFirstb (r : Rec) : Nat := rf r 0 43 4
def laneNbkt (r : Rec) : Nat := rf r 0 39 4 + 1
def laneNj (r : Rec) : Nat := rf r 1 58 6
def laneNp (r : Rec) : Nat := rf r 1 54 4
def laneNr (r : Rec) : Nat := rf r 1 49 5
def laneNa (r : Rec) : Nat := rf r 1 42 7
def laneNt (r : Rec) : Nat := rf r 1 38 4
def lanePpm (r : Rec) : Nat := rf r 1 16 16
def laneMaxd0 (r : Rec) : Nat := rf r 2 32 32
def laneMaxd1 (r : Rec) : Nat := rf r 2 0 32
def laneRtok (r : Rec) : Nat := rf r 3 48 12
def laneStage (r : Rec) : Nat := rf r 3 0 48
def laneStagesz (r : Rec) : Nat := rf r 4 0 48
def laneLevels (r : Rec) : Nat := rf r 6 61 3
def laneRatio (r : Rec) : Nat := rf r 6 59 2
def laneColour (r : Rec) : Bool := rf r 6 56 1 == 1
/-- Channels of the lane: image [58:57], audio [43:40]. -/
def laneCh (r : Rec) : Nat := if laneKind r = 0 then rf r 6 57 2 else rf r 6 40 4
def laneOutf (r : Rec) : Nat := if laneKind r = 0 then rf r 6 55 1 else rf r 6 39 1
def laneHz (r : Rec) : Nat := rf r 6 44 20
def laneWin (r : Rec) : Nat := rf r 7 48 16
def laneHop (r : Rec) : Nat := rf r 7 32 16
def lanePad (r : Rec) : Nat := rf r 7 0 32
def laneMaxage (r : Rec) : Nat := rf r 6 32 32
def laneNsens (r : Rec) : Nat := rf r 6 20 12
/-- Bytes of a sensor element: FP32, BF16 or INT8. -/
def laneEsize (r : Rec) : Nat := if rf r 6 16 4 = 9 then 4 else if rf r 6 16 4 = 7 then 2 else 1

/-! ### Record headers (Table 12.3) -/

def hLane (h : Rec) : Nat := rf h 0 60 4
def hResv (h : Rec) : Bool := rf h 0 59 1 == 1
def hEmpty (h : Rec) : Bool := rf h 0 58 1 == 1
def hForced (h : Rec) : Bool := rf h 0 57 1 == 1
def hSeq (h : Rec) : W48 := BitVec.ofNat 48 (rf h 0 0 48)
def hMedia (h : Rec) : Nat := rf h 1 56 8
def hPcmf (h : Rec) : Nat := rf h 1 52 4
def hPch (h : Rec) : Nat := rf h 1 48 4
def hPhz (h : Rec) : Nat := rf h 1 28 20
def hSensor (h : Rec) : Nat := rf h 1 16 12
def hCapt (h : Rec) : W64 := h.getD 2 0
def hLength (h : Rec) : Nat := rf h 3 0 32

/-- The four words of a header. -/
def hdrWords (h : Rec) : Rec := (List.range 4).map fun k => h.getD k 0

/-! ### Tables and buckets -/

/-- Tables of a lane in its plan. -/
def State.laneTab (s : State) (l : Nat) : LaneTab :=
  (((s.img? (s.lane l).plan).map fun q => q.laneTabs).bind fun ts => ts.find? fun t => t.lane == l).getD
    { lane := l, norm := [], filter := [], window := [], merges := [], slist := [], dtab := [], pattern := [] }

/-- D0, D1 and MAXB of bucket `b` of a lane (R326). -/
def State.bucket (s : State) (l b : Nat) : Nat × Nat × Nat :=
  let x := s.lane l
  let r := (((s.boot.image.bind fun i => i.intake).map fun c => c.buckets.getD x.plan []).getD []).getD (laneFirstb x.record + b) []
  (rf r 0 32 32, rf r 0 0 32, rf r 1 0 32)

/-- Bucket of position `p`. -/
def State.bucketAt (s : State) (l p : Nat) : Nat := (s.laneTab l).pattern.getD p 0

def padTo (k : Nat) (bs : List Byte) : List Byte := bs ++ List.replicate (ceilDiv bs.length k * k - bs.length) 0
def roundUp (n k : Nat) : Nat := ceilDiv n k * k

/-- Bytes of a position of bucket extents `d0`, `d1` (R342). -/
def posBytes (r : Rec) (d0 d1 : Nat) : Nat :=
  match laneKind r with
  | 0 => ((levelDims (laneRatio r) (laneLevels r) d0 d1).map fun d =>
      laneCh r * roundUp (d.2 * roundUp (d.1 * outBytes (laneOutf r)) 32) 256).foldl (· + ·) 0
  | 1 => d1 * (if laneWin r = 0 then d0 else frameCount d0 (laneWin r) (laneHop r) * laneWin r) * outBytes (laneOutf r)
  | 2 => 4 * d0
  | _ => d0 * max 1 d1 * laneEsize r

/-- Bytes of the mask words of a slot. -/
def maskBytes (r : Rec) : Nat := roundUp (8 * lanePpm r) 256

/-- Offset of position `p` in its slot; `p = PPM` gives the slot's size. -/
def State.posOff (s : State) (l p : Nat) : Nat :=
  let r := (s.lane l).record
  ((List.range p).map fun i => let b := s.bucket l (s.bucketAt l i); roundUp (posBytes r b.1 b.2.1) 256).foldl (· + ·) (maskBytes r)

/-- Micro-batch slots of the staging ring. -/
def State.ringSlots (s : State) (l : Nat) : Nat :=
  let r := (s.lane l).record
  laneStagesz r / s.posOff l (lanePpm r)

/-! ### Lane state -/

/-- Bytes that a record takes in the inbound buffer. -/
def Pending.size (x : Pending) : Nat := 32 + x.payload.length

/-- Bytes held, and STATE: STALLED with the ring or the INBUF share full (R345), RUN with records held, STOPPED once its plan has
ended, IDLE otherwise (log 34). -/
def State.laneUpdate (s : State) (l : Nat) : State :=
  let x := s.lane l
  let n := (x.queue.map Pending.size).foldl (· + ·) 0
  let full := decide (s.ringSlots l ≤ x.stagedNow) || decide (laneInbuf x.record ≤ n + (s.inStream (laneStream x.record)).passed.length)
  let st : LaneState :=
    if x.record.isEmpty then .unused
    else if !(s.takesClass x.plan) then .stopped
    else if full then .stalled
    else if x.queue.isEmpty then .idle else .run
  s.setLane l { x with inBytes := n, state := st }

def State.inkFault (s : State) (code l : Nat) (seq : W48) : State :=
  s.fault { code := code, plan := some (s.lane l).plan, unitk := 6, unit := l, d0 := seq.setWidth 64 }

/-- Everything a lane holds is discarded and counted as dropped (R350). -/
def State.emptyLane (s : State) (l : Nat) : State :=
  (s.modLane l fun x => { x with drop := satAdd x.drop x.held, queue := [], resv := [], resvAt := [], sensors := [], staging := [], manifest := [],
                                 stagedNow := 0, stagedInStep := 0 }).laneUpdate l

/-- Lanes of a plan. -/
def State.lanesOfPlan (s : State) (p : Nat) : List Nat :=
  (List.range 16).filter fun l => !(s.lane l).record.isEmpty && (s.lane l).plan == p
def State.emptyLanes (s : State) (p : Nat) : State := (s.lanesOfPlan p).foldl State.emptyLane s

/-! ### Layout of a position (R339, R340, R342) -/

/-- Cut a byte list into pieces of the given lengths. -/
def cutBytes : List Nat → List Byte → List (List Byte)
  | [], _ => []
  | n :: ns, bs => bs.take n :: cutBytes ns (bs.drop n)

/-- One plane of extents `w`, `h` padded to its bucket's `bw`, `bh`. -/
def layPlane (es w h bw bh : Nat) (bs : List Byte) : List Byte :=
  padTo 256 ((List.range bh).flatMap fun y =>
    let row := if y < h then (bs.drop (y * w * es)).take (w * es) else []
    padTo 32 (row ++ List.replicate (bw * es - row.length) 0))

def layImage (r : Rec) (x : Pending) (d0 d1 : Nat) : List Byte :=
  let es := outBytes (laneOutf r)
  let own := levelDims (laneRatio r) (laneLevels r) x.e0 x.e1
  let bkt := levelDims (laneRatio r) (laneLevels r) d0 d1
  let planes := (own.zip bkt).flatMap fun d => List.replicate (laneCh r) d
  let parts := cutBytes (planes.map fun d => d.1.1 * d.1.2 * es) (x.result.getD [])
  ((planes.zip parts).flatMap fun e => layPlane es e.1.1.1 e.1.1.2 e.1.2.1 e.1.2.2 e.2)

def layAudio (r : Rec) (t : LaneTab) (x : Pending) (d0 d1 : Nat) : List Byte :=
  let es := outBytes (laneOutf r)
  let bs := x.result.getD []
  let samp (c i : Nat) : W32 := BitVec.ofNat 32 (leNat ((bs.drop (4 * (c * x.e0 + i))).take 4))
  let elem (c i : Nat) (f : W32 → W32) : List Byte :=
    if c < x.e1 ∧ i < x.e0 then normCode (laneOutf r) (t.norm.getD c (0, 0)) (f (samp c i)) else List.replicate es 0
  (List.range d1).flatMap fun c =>
    if laneWin r = 0 then (List.range d0).flatMap fun i => elem c i id
    else (List.range (frameCount d0 (laneWin r) (laneHop r))).flatMap fun k =>
      (List.range (laneWin r)).flatMap fun i => elem c (k * laneHop r + i) fun v => fmul v (t.window.getD i 0)

def layText (r : Rec) (x : Pending) (d0 : Nat) : List Byte :=
  x.result.getD [] ++ (List.range (d0 - x.e0)).flatMap fun _ => leBytes 4 (lanePad r)

def State.layRecord (s : State) (l : Nat) (x : Pending) (d0 d1 : Nat) : List Byte :=
  let r := (s.lane l).record
  match laneKind r with
  | 0 => layImage r x d0 d1
  | 1 => layAudio r (s.laneTab l) x d0 d1
  | 2 => layText r x d0
  | _ => x.result.getD []

/-! ### Staging -/

/-- Write bytes at a device address, as an ordinary access of the plan (R345). -/
def State.stageWrite (s : State) (plan a : Nat) (bs : List Byte) : State :=
  s.putBytes none plan (bs.zipIdx.map fun e => { addr := a + e.2, mask := 255, byte := e.1.toNat, poison := false })

/-- Delivery table in force of a lane: the table of the step table in force (R343). -/
def State.deliveries (s : State) (l : Nat) : List W32 :=
  let p := (s.lane l).plan
  let k := ((s.variantOf p).map Variant.stab).getD 0
  (s.laneTab l).dtab.getD k []

/-- Entries of the current frame: how many come before them and how many they are. -/
def State.dueNow (s : State) (l : Nat) : Nat × Nat :=
  let t := s.deliveries l
  let f := (s.plan (s.lane l).plan).pos
  ((t.filter fun e => decide (bfld e 16 16 + 1 < f)).length, (t.filter fun e => bfld e 16 16 + 1 == f).length)

/-- Entries of the current frame whose micro-batches are completely staged. -/
def State.readyNow (s : State) (l : Nat) : Nat :=
  let d := s.dueNow l
  min d.2 ((s.lane l).stagedInStep - d.1)

/-- Raise RTOK on every tile of the region to the number of ready entries (R343). -/
def State.readyToken (s : State) (l : Nat) : State :=
  let x := s.lane l
  let c := BitVec.ofNat 24 (s.readyNow l)
  if c = 0 then s
  else
    (List.range 16).foldl (fun s t =>
      if ((s.img? x.plan).map (·.hasTile t)).getD false then
        s.modTile t fun z =>
          let v := Sparse.get 0#24 z.tok (laneRtok x.record)
          { z with tok := Sparse.set 0#24 z.tok (laneRtok x.record) (if v.toNat < c.toNat then c else v) }
      else s) s

/-- Step fed, global and local number of the micro-batch being staged (R203, Table 12.8). -/
def State.batchIds (s : State) (l : Nat) : W48 × Nat × Nat :=
  let x := s.lane l
  let t := s.deliveries l
  let n := t.length
  let e := t.getD (x.stagedInStep % max 1 n) 0
  let y := s.plan x.plan
  let step := y.step + BitVec.ofNat 48 (x.stagedInStep / max 1 n + bfld e 7 1)
  let k := bfld e 8 8
  let g := match y.image with
    | some q => bfld (q.mbmap.getD ((64 * y.variant + s.dom.rank) * q.training? 1 56 8 + k) 0) 16 16
    | none => 0
  (step, g, k)

def ManEntry.words (e : ManEntry) : List W64 := [word64 [(e.src, 56), (e.reason, 48), (e.seq.toNat, 0)], e.other]

/-- The micro-batch is completely staged: manifest (R351) and ready token. -/
def State.batchDone (s : State) (l : Nat) : State :=
  let x := s.lane l
  let b := s.batchIds l
  let head := [word64 [(x.plan, 62), (l, 58), (b.1.toNat, 0)], word64 [(b.2.1, 48), (b.2.2, 32), (x.manifest.length % 65536, 16)],
    s.frm.frame.setWidth 64, 0]
  let body := wordsBytes (head ++ x.manifest.flatMap ManEntry.words)
  let s := s.modLane l fun x => { x with staging := [], manifest := [], stagedInStep := x.stagedInStep + 1,
                                         stagedNow := x.stagedNow + 1, stagedAll := x.stagedAll + 1 }
  let s := (s.send (.manifest l b.2.2 x.manifest)).outflow (laneMstream x.record) 2 x.plan b.1 body
  s.readyToken l

/-- Stage the lane's next position: its bytes, its mask word, its manifest entry (R342, R348). -/
def State.stagePos (s : State) (l flags e0 e1 : Nat) (data : List Byte) (m : ManEntry) : State :=
  let x := s.lane l
  let p := x.staging.length
  let bk := s.bucketAt l p
  let b := s.bucket l bk
  let zero := flags / 2 % 2 == 1
  let padded := !zero && (decide (e0 < b.1) || decide (e1 < b.2.1))
  let mask := word64 [(bk, 52), (flags + (if padded then 8 else 0), 48), (e1 % 2 ^ 24, 24), (e0 % 2 ^ 24, 0)]
  let base := laneStage x.record + x.stagedAll % max 1 (s.ringSlots l) * s.posOff l (lanePpm x.record)
  let n := posBytes x.record b.1 b.2.1
  let body := data.take n ++ List.replicate (n - data.length) 0
  let s := (s.stageWrite x.plan (base + s.posOff l p) body).stageWrite x.plan (base + 8 * p) (leBytes 8 mask.toNat)
  let s := s.modLane l fun x => { x with staging := x.staging ++ [mask], manifest := x.manifest ++ [m], posn := satInc x.posn }
  if p + 1 = lanePpm x.record then s.batchDone l else s

/-- The slot of the micro-batch in progress is free: a new one starts only while the ring has a slot (R345). -/
def State.canStage (s : State) (l : Nat) : Bool :=
  !(s.lane l).staging.isEmpty || decide ((s.lane l).stagedNow < s.ringSlots l)

/-! ### Decisions in SEQ order (R330, R346, R347) -/

/-- The record needs nothing more before its decision. -/
def Pending.ready (x : Pending) : Bool := x.reason != 0 || x.result.isSome

/-- Count a rejected record and log it (R331, Table 12.11). -/
def State.reject (s : State) (l : Nat) (x : Pending) : State :=
  if x.reason ≤ 2 then (s.modLane l fun z => { z with odd := satInc z.odd }).inkFault 0x0601 l x.seq
  else (s.modLane l fun z => { z with corr := satInc z.corr }).inkFault (if x.reason = 4 then 0x0603 else 0x0602) l x.seq

/-- Place a record at the lane's next position. -/
def State.placeRecord (s : State) (l flags : Nat) (x : Pending) (m : ManEntry) : State :=
  let b := s.bucket l (s.bucketAt l (s.lane l).staging.length)
  let s := s.modLane l fun z => { z with placed := satInc z.placed }
  s.stagePos l flags x.e0 x.e1 (s.layRecord l x b.1 b.2.1) m

/-- Lowest place beyond the ring that no reserve record held takes. -/
def Lane.freeResv (x : Lane) : Nat := ((List.range (x.resvAt.length + 1)).find? fun k => !x.resvAt.contains k).getD 0

/-- Keep a reserve record's decoded form beyond the ring, as a position of bucket 0, at place `k` (R347; log 34). -/
def State.stageReserve (s : State) (l k : Nat) (x : Pending) : State :=
  let r := (s.lane l).record
  let b := s.bucket l 0
  let n := posBytes r b.1 b.2.1
  let data := s.layRecord l x b.1 b.2.1
  s.stageWrite (s.lane l).plan (laneStage r + s.ringSlots l * s.posOff l (lanePpm r) + k * roundUp n 256)
    (data.take n ++ List.replicate (n - data.length) 0)

/-- Decide a reserve record that heads the queue. -/
def State.decideReserve (s : State) (l : Nat) (x : Pending) : State :=
  if laneRdepth (s.lane l).record ≤ (s.lane l).resv.length then
    (s.modLane l fun z => { z with drop := satInc z.drop }).inkFault 0x0609 l x.seq
  else if x.reason ≠ 0 then s.reject l x
  else
    let k := (s.lane l).freeResv
    (s.stageReserve l k x).modLane l fun z => { z with resv := z.resv ++ [x], resvAt := z.resvAt ++ [k] }

/-- Decide a regular or EMPTY record that heads the queue. -/
def State.decideRegular (s : State) (l : Nat) (x : Pending) : State :=
  if x.reason ≠ 0 then
    let s := s.reject l x
    match (s.lane l).resv with
    | y :: ys =>
      let s := s.modLane l fun z => { z with resv := ys, resvAt := z.resvAt.drop 1, repl := satInc z.repl }
      s.placeRecord l 1 y { src := 1, reason := x.reason, seq := y.seq, other := x.seq.setWidth 64 }
    | [] =>
      let s := (s.modLane l fun z => { z with zfill := satInc z.zfill }).inkFault 0x0604 l x.seq
      s.stagePos l 2 0 0 [] { src := 3, reason := x.reason, seq := 0, other := x.seq.setWidth 64 }
  else if hEmpty x.hdr then
    (s.modLane l fun z => { z with placed := satInc z.placed }).stagePos l 2 0 0 []
      { src := 2, reason := 0, seq := x.seq, other := 0 }
  else s.placeRecord l 0 x { src := 0, reason := 0, seq := x.seq, other := 0 }

/-- Decide the records at the head of the queue that are ready, in order. A regular one waits for a staging slot. -/
def State.settle (l : Nat) : Nat → State → State
  | 0, s => s.laneUpdate l
  | n + 1, s =>
    match (s.lane l).queue with
    | [] => s.laneUpdate l
    | x :: xs =>
      if !x.ready then s.laneUpdate l
      else if hResv x.hdr then State.settle l n ((s.modLane l fun z => { z with queue := xs }).decideReserve l x)
      else if s.canStage l then State.settle l n ((s.modLane l fun z => { z with queue := xs }).decideRegular l x)
      else s.laneUpdate l

def State.settleLane (s : State) (l : Nat) : State := State.settle l (s.lane l).queue.length s

/-! ### Classification on arrival (R331 to R333) -/

/-- MEDIA allowed for a KIND. -/
def mediaAllowed (kind media : Nat) : Bool :=
  match kind with
  | 0 => media == 0 || media == 1
  | 1 => media == 2 || media == 3 || media == 4
  | 2 => media == 5
  | _ => media == 6

/-- The lane owns the engines that the record needs (R356). -/
def laneOwns (r : Rec) (media : Nat) : Bool :=
  match media with
  | 0 => decide (0 < laneNj r) && (decide (laneLevels r ≤ 1) || decide (0 < laneNr r))
  | 1 => decide (0 < laneNp r) && (decide (laneLevels r ≤ 1) || decide (0 < laneNr r))
  | 2 | 3 | 4 => decide (0 < laneNa r)
  | 5 => decide (0 < laneNt r)
  | _ => true

/-- What a record's header declares; PCM, text and sensor frames have none. -/
def readHeader (h : Rec) (payload : List Byte) : HeaderIn :=
  if hMedia h ≤ 3 then mediaHeader (hMedia h) payload else .good MediaHdr.none

/-- The rest of the subset of Table 12.5: a three-channel image needs a lane of three channels, and PCM lies in its ranges. -/
def profileOk (r h : Rec) (m : MediaHdr) : Bool :=
  match hMedia h with
  | 0 | 1 => !(decide (3 ≤ m.chans) && laneCh r == 1)
  | 4 => decide (hPcmf h ≤ 2) && decide (1 ≤ hPch h ∧ hPch h ≤ 8) && decide (8000 ≤ hPhz h ∧ hPhz h ≤ 192000)
  | _ => true

/-- Source rate, channels and samples of a record's extents; an audio extent counts output samples. -/
def arrivalExtents (r h : Rec) (m : MediaHdr) (len : Nat) : Nat × Nat :=
  match hMedia h with
  | 2 | 3 => (resampledLen m.e0 (max 1 m.rate) (max 1 (laneHz r)), m.chans)
  | 4 => (resampledLen (len / (pcmBytes (hPcmf h) * max 1 (hPch h))) (max 1 (hPhz h)) (max 1 (laneHz r)), hPch h)
  | 5 => (len, 0)
  | 6 => (0, 0)
  | _ => (m.e0, m.e1)

/-- Declared size Z (R332). -/
def declared (h : Rec) (m : MediaHdr) (len : Nat) : Nat := if hMedia h ≤ 3 then m.z else len

/-- Position that a record arriving now will take. -/
def State.nextPos (s : State) (l : Nat) : Nat :=
  let x := s.lane l
  (x.staging.length + (x.queue.filter fun y => !hResv y.hdr).length) % max 1 (lanePpm x.record)

/-- Bucket against which a record is checked: the position's, bucket 0 for a reserve record. -/
def State.checkBucket (s : State) (l : Nat) (h : Rec) (p : Nat) : Nat × Nat × Nat :=
  s.bucket l (if hResv h then 0 else s.bucketAt l p)

/-- Bucket of a sensor's frames: that of the first position that names the sensor. -/
def State.sensorBucket (s : State) (l sensor : Nat) : Nat × Nat × Nat :=
  s.bucket l (s.bucketAt l (((s.laneTab l).slist.findIdx? fun x => x == sensor).getD 0))

/-- Steps 3 and 4 of Table 12.4 on what the header declares. -/
def State.sizesFail (s : State) (l : Nat) (h : Rec) (m : MediaHdr) (len : Nat) : Nat :=
  let r := (s.lane l).record
  let e := arrivalExtents r h m len
  let b := s.checkBucket l h (s.nextPos l)
  if laneMaxd0 r < e.1 || laneMaxd1 r < e.2 || 4096 * len < declared h m len then 4
  else if hMedia h ≤ 4 && (decide (b.1 < e.1) || decide (b.2.1 < e.2)) then 1
  else if hMedia h ≤ 5 && decide (b.2.2 < len) then 1
  else 0

/-- Reason code of the first failing step of Table 12.4 before decoding; 0 for none. A broken header is corrupt (log 12). -/
def State.classify (s : State) (l : Nat) (h : Rec) (payload : List Byte) : Nat :=
  let r := (s.lane l).record
  let len := payload.length
  if !mediaAllowed (laneKind r) (hMedia h) then 2
  else if (hEmpty h && (len != 0 || hResv h)) || (len == 0 && !hEmpty h) then 3
  else if hEmpty h then 0
  else if !laneOwns r (hMedia h) then 2
  else match readHeader h payload with
    | .odd => 2
    | .corrupt => 3
    | .good m => if profileOk r h m then s.sizesFail l h m len else 2

/-- A sensor frame is well formed: a sensor of the lane and the payload of its size. -/
def State.sensorOk (s : State) (l : Nat) (h : Rec) (len : Nat) : Bool :=
  let r := (s.lane l).record
  let b := s.sensorBucket l (hSensor h)
  decide (hSensor h < laneNsens r) && len == b.1 * max 1 b.2.1 * laneEsize r

/-- A frame joins its sensor's queue; the oldest of 64 is pushed out as dropped (R349). -/
def State.queueSensor (s : State) (l : Nat) (x : Pending) : State :=
  s.modLane l fun z =>
    let q := Sparse.get [] z.sensors (hSensor x.hdr)
    let z := if 64 ≤ q.length then { z with drop := satInc z.drop } else z
    { z with sensors := Sparse.set [] z.sensors (hSensor x.hdr) ((if 64 ≤ q.length then q.drop 1 else q) ++ [x]) }

/-- Take an admitted record. -/
def State.takeRecord (s : State) (l : Nat) (h : Rec) (payload : List Byte) : State :=
  let r := (s.lane l).record
  let m := match readHeader h payload with
    | .good m => m
    | _ => MediaHdr.none
  let reason := s.classify l h payload
  let sensor := laneKind r == 3
  let reason := if reason = 0 ∧ sensor ∧ !hEmpty h ∧ !s.sensorOk l h payload.length then 3 else reason
  let e := arrivalExtents r h m payload.length
  let b := s.sensorBucket l (hSensor h)
  let x : Pending :=
    { seq := hSeq h, hdr := hdrWords h, reason := reason, e0 := if sensor then b.1 else e.1, e1 := if sensor then b.2.1 else e.2,
      chans := if hMedia h = 4 then hPch h else m.chans, rgb := m.rgb, bits := m.bits,
      rate := if hMedia h = 4 then hPhz h else m.rate, sh := m.sh, sv := m.sv, payload := payload,
      result := if hEmpty h then some [] else if sensor then some payload else none }
  let s := s.modLane l fun z => { z with recv := satInc z.recv }
  if sensor && !hResv h then (if reason = 0 then s.queueSensor l x else s.reject l x).laneUpdate l
  else (s.modLane l fun z => { z with queue := z.queue ++ [x] }).settleLane l

/-- Remove the record from the bytes its stream has passed on. -/
def State.consumed (s : State) (n : Nat) (h : Rec) (payload : List Byte) : Option State :=
  let bs := wordsBytes (hdrWords h) ++ payload
  let x := s.inStream n
  if hLength h = payload.length ∧ x.passed.take bs.length = bs then some (s.setIn { x with passed := x.passed.drop bs.length })
  else none

/-- The SEQ that a lane expects next, and the lane once it has come (R329, R350). -/
def Lane.expects (x : Lane) (h : Rec) : Option Lane :=
  match x.expectResv with
  | q :: qs => if hSeq h = q ∧ hResv h then some { x with expectResv := qs } else none
  | [] => if hSeq h = x.next then some { x with next := x.next + 1 } else none

/-- Bytes passed on have come or gone: every lane of the stream holds its INBUF share against what is left (R345). -/
def State.updateLanes (s : State) (n : Nat) : State := (s.lanesOf n).foldl State.laneUpdate s

/-- SAMPLE_RECORD: the next record in a stream's bytes reaches the lane it names (R328 to R331). -/
def sampleRecord (n : Nat) (h : Rec) (payload : List Byte) (s : State) : State :=
  match s.consumed n h payload with
  | none => s
  | some s' =>
    let l := hLane h
    let x := s.lane l
    let t :=
      if x.record.isEmpty || !s.takesClass x.plan then s'.raise { code := 0x0608, unitk := 6, unit := l, d0 := (hSeq h).setWidth 64 }
      else
        match x.expects h with
        | none => s'.inkFault 0x0607 l (hSeq h)
        | some x => (s'.setLane l x).takeRecord l h payload
    t.updateLanes n

/-- The stream whose bytes lane `l` takes, as `l`'s record names it. -/
def State.laneStreamOf (s : State) (l : Nat) : Nat := laneStream (s.lane l).record

def execSampleRecord (l : Fin 16) (lead : W64) (rest : Rec) (payload : List Byte) (s : State) : R :=
  .next (if s.runs then sampleRecord (s.laneStreamOf l.val) (lead :: rest) payload s else s)

/-! ### Engines -/

/-- What an engine gives: corrupt, or the record's extents and converted elements. -/
inductive Engine where
  | corrupt
  | done (e0 e1 : Nat) (data : List Byte)
deriving DecidableEq, Repr

/-- Planes of an image in the lane's channels: one channel fills all three planes (R333). -/
def lanePlanes (ch : Nat) (ps : List (List Nat)) : List (List Nat) :=
  if ch = 3 then (if ps.length < 3 then List.replicate 3 (ps.headD []) else ps.take 3) else ps.take 1

/-- Colour, pyramid and normalisation of an image. -/
def imageData (r : Rec) (t : LaneTab) (w h bits : Nat) (ps : List (List Nat)) : List Byte :=
  let levels := pyramid (laneRatio r) (if bits = 16 then 16 else 8) (laneLevels r) w h (lanePlanes (laneCh r) ps)
  levels.flatMap fun l => l.zipIdx.flatMap fun p =>
    p.1.flatMap fun v => normCode (laneOutf r) (t.norm.getD p.2 (0, 0)) (natF32 v)

/-- Resampled channels of an audio record. -/
def audioData (r : Rec) (t : LaneTab) (rate : Nat) (cs : List (List W32)) : List Byte :=
  cs.flatMap fun c => (resample t.filter (max 1 rate) (max 1 (laneHz r)) c).flatMap fun v => leBytes 4 v.toNat

/-- What the decoding of a compressed payload gives under its standard (12 R333, R336; log 12). -/
inductive Decoded where
  /-- the bitstream is corrupt. -/
  | corrupt
  /-- JPEG: per component the dequantised coefficient blocks, 64 each, row-major, and the width in blocks. -/
  | jpeg (comps : List (Nat × List (List Int)))
  /-- PNG: per channel the samples, row-major. -/
  | image (planes : List (List Nat))
  /-- FLAC, Opus: rate, bits of a sample, per channel the samples. -/
  | audio (rate bits : Nat) (chans : List (List Int))
deriving DecidableEq, Repr

/-- What a record's bitstream header said. -/
def Pending.header (x : Pending) : MediaHdr :=
  { e0 := x.e0, e1 := x.e1, z := 0, chans := x.chans, rgb := x.rgb, bits := x.bits, rate := x.rate, sh := x.sh, sv := x.sv }

/-- Decoding of a payload of MEDIA 0 to 3 (12 R333, R336). -/
def decodeMedia (media : Nat) (x : Pending) : Decoded :=
  match media with
  | 0 => ((jpegDecode x.payload).map Decoded.jpeg).getD .corrupt
  | 1 => ((pngDecode x.header x.payload).map Decoded.image).getD .corrupt
  | 2 => ((flacDecode x.header x.payload).map (Decoded.audio x.rate x.bits)).getD .corrupt
  | _ => ((opusDecode x.header x.payload).map (Decoded.audio 48000 16)).getD .corrupt

/-- Engine result of a record: a function of its payload (R330). -/
def engine (r : Rec) (t : LaneTab) (x : Pending) : Engine :=
  let k := hMedia x.hdr
  if k ≤ 3 then
    match decodeMedia k x with
    | .jpeg comps =>
      let ps := jpegPlanes x.e0 x.e1 x.sh x.sv comps
      .done x.e0 x.e1 (imageData r t x.e0 x.e1 8 (if laneColour r && ps.length == 3 && !x.rgb then colourPlanes ps else ps))
    | .image ps => .done x.e0 x.e1 (imageData r t x.e0 x.e1 x.bits (if x.chans < 3 then ps.take 1 else ps.take 3))
    | .audio rate bits cs => .done x.e0 x.e1 (audioData r t rate (cs.map fun c => c.map (sampleF32 bits)))
    | .corrupt => .corrupt
  else if k = 4 then
    match pcmChannels (hPcmf x.hdr) (hPch x.hdr) x.payload with
    | some cs => .done x.e0 x.e1 (audioData r t x.rate cs)
    | none => .corrupt
  else if k = 5 then
    if utf8Ok x.payload then
      let ts := tokenise t.merges (dropBom x.payload)
      .done ts.length 0 (ts.flatMap fun k => leBytes 4 k)
    else .corrupt
  else .done x.e0 x.e1 x.payload

/-- Index in the queue of the record an engine has finished. -/
def Lane.working (x : Lane) (seq : W48) : Option Nat := x.queue.findIdx? fun y => y.seq == seq && !y.ready

/-- DECODE_COMPLETE (R341): text is checked against its bucket after tokenisation (R331). -/
def decodeComplete (l : Nat) (seq : W48) (s : State) : State :=
  let x := s.lane l
  match x.working seq with
  | none => s
  | some i =>
    match x.queue[i]? with
    | none => s
    | some y =>
      let p := (x.staging.length + ((x.queue.take i).filter fun z => !hResv z.hdr).length) % max 1 (lanePpm x.record)
      match engine x.record (s.laneTab l) y with
      | .corrupt => (s.setLane l { x with queue := modAt i (fun z => { z with reason := 3 }) x.queue }).settleLane l
      | .done e0 e1 bs =>
        let b := s.checkBucket l y.hdr p
        let bad := hMedia y.hdr == 5 && decide (b.1 < e0)
        let f (z : Pending) : Pending := if bad then { z with reason := 1 } else { z with e0 := e0, e1 := e1, result := some bs }
        (s.setLane l { x with queue := modAt i f x.queue }).settleLane l

/-- Whichever engine finishes, the lane takes its decisions in SEQ order (R330). -/
def execDecodeComplete (l : Fin 16) (seq : W48) (_engine : Nat) (s : State) : R :=
  .next (if s.runs then decodeComplete l.val seq s else s)

/-! ### Sensor positions (R349, R350) -/

/-- A frame's age at the tick is within MAXAGE. -/
def State.fresh (s : State) (l : Nat) (x : Pending) : Bool :=
  let age := s.frm.tickPtp - ((hCapt x.hdr).toNat : Int)
  decide (0 ≤ age) && decide (age ≤ 1000 * (laneMaxage (s.lane l).record : Int))

/-- Drop `n` frames of a sensor's queue. -/
def State.dropFrames (s : State) (l n : Nat) : State := s.modLane l fun z => { z with drop := satAdd z.drop n }
def State.setSensor (s : State) (l k : Nat) (q : List Pending) : State :=
  s.modLane l fun z => { z with sensors := Sparse.set [] z.sensors k q }

/-- No frame is fresh: zeros (R349). -/
def State.sensorAbsent (s : State) (l : Nat) : State :=
  ((s.modLane l fun z => { z with zfill := satInc z.zfill }).inkFault 0x0606 l 0).stagePos l 2 0 0 []
    { src := 6, reason := 0, seq := 0, other := 0 }

/-- Place a sensor frame, or the EMPTY one. -/
def State.placeSensor (s : State) (l src reason flags : Nat) (y : Pending) : State :=
  if hEmpty y.hdr then
    (s.modLane l fun z => { z with placed := satInc z.placed }).stagePos l 2 0 0 [] { src := 2, reason := 0, seq := y.seq, other := 0 }
  else s.placeRecord l flags y { src := src, reason := reason, seq := y.seq, other := hCapt y.hdr }

/-- Decide the lane's next sensor position. A FORCED frame is placed whatever its age; the frames before it in the queue are judged
without those from it on (log 34). -/
def State.decideSensor (s : State) (l : Nat) : State :=
  let k := (s.laneTab l).slist.getD (s.lane l).staging.length 0
  let q := Sparse.get [] (s.lane l).sensors k
  let n := (q.findIdx? fun x => hForced x.hdr).getD q.length
  let live := q.take n
  let rest := q.drop n
  match live with
  | [] =>
    match rest with
    | [] => s.sensorAbsent l
    | x :: xs => (s.setSensor l k xs).placeSensor l 7 0 0 x
  | x :: xs =>
    if hEmpty x.hdr || s.fresh l x then (s.setSensor l k (xs ++ rest)).placeSensor l 4 0 0 x
    else
      let s := s.inkFault 0x0605 l x.seq
      match (live.zipIdx.filter fun e => s.fresh l e.1).getLast? with
      | some (y, i) => ((s.setSensor l k (xs.drop i ++ rest)).dropFrames l i).placeSensor l 5 5 4 y
      | none =>
        match rest with
        | y :: ys => ((s.setSensor l k ys).dropFrames l n).placeSensor l 7 0 0 y
        | [] =>
          let kept := xs.drop (xs.length - 1)
          ((s.setSensor l k kept).dropFrames l (n - kept.length)).sensorAbsent l

/-- At the tick of its delivery frame, every position of a sensor lane's micro-batches is decided. -/
def State.sensorTick (s : State) (l : Nat) : State :=
  if laneKind (s.lane l).record = 3 && s.takesClass (s.lane l).plan then
    let n := (s.dueNow l).2 * lanePpm (s.lane l).record
    ((List.range n).foldl (fun s _ => if s.canStage l then s.decideSensor l else s) s).laneUpdate l
  else s

/-- At each tick: sensor positions and ready tokens of the lanes whose plans run (R343, R349). -/
def State.intakeTick (s : State) : State :=
  (List.range 16).foldl (fun s l =>
    if (s.lane l).record.isEmpty || !(s.plan (s.lane l).plan).executes then s else (s.sensorTick l).readyToken l) s

/-- Delivered micro-batches free their slots in the close phase of their delivery frame (R344): a held plan has run none. -/
def State.deliverBatches (s : State) : State :=
  (List.range 16).foldl (fun s l =>
    if (s.lane l).record.isEmpty || (s.plan (s.lane l).plan).pstate != .running then s
    else
      let c := s.readyNow l
      (s.modLane l fun x => { x with stagedNow := x.stagedNow - c }).settleLane l) s

/-- At a step boundary the micro-batches already staged count for the next step (R343). -/
def State.stepLanes (s : State) (p : Nat) : State :=
  (s.lanesOfPlan p).foldl (fun s l =>
    let n := (s.deliveries l).length
    s.modLane l fun x => { x with stagedInStep := x.stagedInStep - n }) s

end Sys2Proof.Machine
end

