-- ==== Sys2Proof/Machine/Domain.lean ====
section
/-! DEFINITION. The domain: identity and discovery (10 R273, R274), link reports and the roster (R275, R277), lanes (R261,
R262), latency (R286), a link going down (R280), plan withdrawal (R281; 14 R394, R400). -/

namespace Sys2Proof.Machine

/-! ### Identity -/

/-- Fingerprints of the image's four plans (10 Table 10.5). -/
def State.pfps (s : State) : List W128 :=
  (List.range 4).map fun p => (((s.boot.image.bind fun i => (i.plans[p]?).bind id).map Plan.pfp)).getD 0

def State.sendIdentity (s : State) (p : Nat) : State :=
  (s.sendOther p (.identity s.dev.serial s.dom.rank p 0xB0 (4 * s.dom.shape) s.pfps)).modPort p fun x => { x with idSent := x.idSent + 1 }

/-- One-way latency above which a port is excluded, ns (10 R274). -/
def hopMax : Nat := 110

/-- Why a peer is excluded (10 R274): 1 shape, 3 rank collision, 2 miscabled, 4 latency; 0 it is not. A peer of the own rank is
a collision before it is a miscabling (log 20). -/
def State.exclusion (s : State) (p : Nat) (b : IdBody) : Nat :=
  if b.shape ≠ 4 * s.dom.shape then 1
  else if b.rank = s.dom.rank then 3
  else if farEnd s.dom.shape s.dom.rank p ≠ some (b.rank, b.port) then 2
  else if hopMax < (s.port p).hopNs then 4
  else 0

/-! ### Reports and roster -/

def State.ownReport (s : State) : LinkReport :=
  { rank := s.dom.rank, num := s.dom.reportNo, ports := (List.range 6).map fun p => ((s.port p).state, (s.port p).peerRank), pfp := s.pfps }

def putReport (l : List LinkReport) (r : LinkReport) : List LinkReport := r :: l.filter fun x => x.rank != r.rank

/-- Ports up, as bits. -/
def LinkReport.upBits (r : LinkReport) : Nat :=
  r.ports.zipIdx.foldl (fun a e => if (e.1.1 == .up || e.1.1 == .degraded) && decide (e.2 < 6) then a + 2 ^ e.2 else a) 0

/-- A plan's variant needs a link that rank `r.rank` reports down, named at either of its ends (10 R281). -/
def Variant.broken (v : Variant) (shape : Nat) (r : LinkReport) : Bool :=
  v.has r.rank && (List.range 6).any fun p => !r.upBits.testBit p &&
    ((v.links.getD r.rank 0).testBit p ||
      ((farEnd shape r.rank p).any fun e => v.has e.1 && (v.links.getD e.1 0).testBit e.2))

/-- Discard a plan's lines on a port: those in the gust queue at the head, whose credits go back, and those not yet sent (10 R281). -/
def State.discardLines (s : State) (p c : Nat) : State :=
  let n := ((s.port p).gust.filter fun f => f.cls == c).length
  (s.modPort p fun x => { x with gust := x.gust.filter fun f => f.cls % 8 != c, outq := x.outq.filter fun f => f.cls != c }).modAcct
    p c fun a => if a.isOpen then { a with queued := a.queued - n, freed := a.freed + n, unret := a.unret + n } else a

/-- Close a plan's accounts (14 R400): on each port the entries are booked with what stands queued, the lines are discarded and their
credits returned (10 R281), and both sides go to zero. -/
def State.closePlan (s : State) (c : Nat) : State :=
  (List.range 6).foldl (fun s p =>
    let s := (s.bookClose p c).discardLines p c
    let s := if s.sends && (s.port p).up && decide (0 < ((s.port p).acct c).unret) then s.sendControl p else s
    s.modAcct p c fun a => if a.isOpen then Acct.reset else a) s

/-- A slot's deadline before a grant moved it. -/
def SlotRun.ungrant (r : SlotRun) (e : Nat × Nat) : SlotRun :=
  if e.1 + 1900 * e.2 ≤ r.deadline then { r with deadline := r.deadline - 1900 * e.2 } else r

/-- The grants of a withdrawn plan are no longer in force: what they moved moves back (10 R281). -/
def State.undoGrants (s : State) (p : Nat) : State :=
  s.modFrm fun f =>
    let all := f.grants.zip f.grantPlans
    let mine := (all.filter fun e => e.2 == p).map (·.1)
    let left := all.filter fun e => e.2 != p
    if mine.isEmpty then f
    else { f with slots := f.slots.map fun r => mine.foldl SlotRun.ungrant r
                  grants := left.map (·.1), grantPlans := left.map (·.2), moved := f.moved - (mine.map (·.2)).foldl (· + ·) 0
                  state := if f.state = .grace ∧ left.isEmpty then .work else f.state }

/-- A withdrawal takes effect on this rank (10 R281): the plan stops without a fault, its step and a checkpoint in progress are
abandoned (15 R428), its accounts close, its lanes drop what they hold (12 R350), and a FINISH in force for it ends. -/
def State.withdraw (s : State) (p : Nat) : State :=
  let x := s.plan p
  if x.inPlans || x.pstate == .restoring then
    let s := s.stopPlan p
    let s := s.modPlan p fun x =>
      { x with pstate := .withdrawn, segs := [],
               switchTo := none,
               ckpt := { x.ckpt with run := none, again := false, sealed := false, restore := none, fetch := false, noted := false } }
    let s := (s.closePlan p).emptyLanes p
    (s.undoGrants p).modFrm fun f =>
      if f.finishPlan = some p then
        { f with finishPlan := none, overrunHold := false,
                 state := if f.state = .finish then (if f.grants.isEmpty then .work else .grace) else f.state }
      else f
  else s

/-- The leader announces a withdrawal to every rank, itself included. -/
def State.announceWithdraw (s : State) (p : Nat) : State := (s.withdraw p).notify (.withdraw p)

/-- What the leader does on a report that removes a link or rank (10 R281). -/
def State.leaderCheck (s : State) (r : LinkReport) : State :=
  if s.frm.leader = s.dom.rank then
    (List.range 4).foldl (fun s p =>
      if (s.plan p).inPlans && (((s.variantOf p).map fun v => v.broken s.dom.shape r).getD false) then s.announceWithdraw p else s) s
  else s

/-- Form the rank's own report and flood it (10 R275, R280). Each report has a number of its own, and a new start-up begins a new run of
them (log 50). -/
def State.floodReport (s : State) : State :=
  let s := { s with dom := { s.dom with reportNo := max (s.boot.starts * 2 ^ 32) s.dom.reportNo + 1 } }
  let r := s.ownReport
  let s := { s with dom := { s.dom with reports := putReport s.dom.reports r } }
  (s.flood none (.report r)).leaderCheck r

/-- A report of this rank or a newer one is held already. -/
def Domain.outdated (d : Domain) (r : LinkReport) : Bool :=
  r.rank == d.rank || d.reports.any fun x => x.rank == r.rank && decide (r.num ≤ x.num)

/-- A report not seen before is passed on; it is kept, and acted on, unless a newer one of its rank is held (10 R275). -/
def State.takeReport (s : State) (q : Nat) (r : LinkReport) : State :=
  if s.dom.seen.contains (r.rank, r.num) || r.rank == s.dom.rank then s
  else
    let old := s.dom.outdated r
    let s := { s with dom := { s.dom with seen := (r.rank, r.num) :: s.dom.seen,
                                          reports := if old then s.dom.reports else putReport s.dom.reports r } }
    let s := s.flood (some q) (.report r)
    if old then s else s.leaderCheck r

/-- LINK_REPORT: a report arrives; `p` none, the rank forms its own. -/
def linkReport (p : Option Nat) (r : LinkReport) (s : State) : State :=
  match p with
  | none => if s.dom.out then s else s.floodReport
  | some q =>
    let h := s.hear q
    if !h.2 || !(h.1.port q).up || s.dom.out then h.1 else h.1.takeReport q r

def execLinkReport (p : Option (Fin 6)) (r : LinkReport) (s : State) : R :=
  .next (if s.sends then linkReport (p.map (·.val)) r s else s)

/-- Roster as the reports held give it: presence and up ports of every cabled rank (10 R275). -/
def State.assembled (s : State) : List Presence × List Nat :=
  let all := putReport s.dom.reports s.ownReport
  let one (r : Nat) : Presence × Nat := match all.find? fun x => x.rank == r with
    | some x => (if x.pfp = s.pfps then .present else .foreign, x.upBits)
    | none => (.absent, 0)
  let l := (List.range (ranksOf s.dom.shape)).map one
  (l.map (·.1), l.map (·.2))

/-- A variant matches a roster (10 R277). -/
def Variant.fits (v : Variant) (ranks : List Presence) (links : List Nat) : Bool :=
  (List.range 64).all fun r =>
    !v.has r || (ranks.getD r .absent == .present &&
      (List.range 6).all fun p => !(v.links.getD r 0).testBit p || (links.getD r 0).testBit p)

/-- A redundancy variant carries a twin map (14 R393). -/
def Variant.twinned (v : Variant) : Bool := !v.twins.isEmpty

/-- Lowest-numbered matching variant of a plan among its redundancy variants or its ordinary ones; 4 for none. -/
def Plan.pickOf (q : Plan) (redundant : Bool) (ranks : List Presence) (links : List Nat) : Nat :=
  (q.variants.findIdx? fun v => v.twinned == redundant && v.fits ranks links).getD 4
def Plan.pick (q : Plan) (ranks : List Presence) (links : List Nat) : Nat := q.pickOf false ranks links

/-- Image plan `p`. -/
def State.imagePlan (s : State) (p : Nat) : Option Plan := s.boot.image.bind fun i => (i.plans[p]?).bind id

/-- Variant selection of a roster (10 R277). -/
def State.picks (s : State) (ranks : List Presence) (links : List Nat) : List Nat :=
  (List.range 4).map fun p => ((s.imagePlan p).map fun q => q.pick ranks links).getD 4

def presentBits (ranks : List Presence) : W64 :=
  BitVec.ofNat 64 (ranks.zipIdx.foldl (fun a e => if e.1 == .present && decide (e.2 < 64) then a + 2 ^ e.2 else a) 0)

/-- Provisional leader: rank 0 if it is heard from, otherwise the lowest rank heard from (10 R275). -/
def provisional (ranks : List Presence) : Nat := (ranks.findIdx? fun x => x != .absent).getD 0

/-- Frame leader (10 R277). -/
def State.leaderOf (s : State) : Nat :=
  match s.firstPlan.bind s.variantOf with
  | some v => v.leader
  | none => provisional s.dom.roster

/-- Adopt a roster and its variant selection. -/
def State.adopt (s : State) (ranks : List Presence) (links variants : List Nat) : State :=
  let s := { s with dom := { s.dom with roster := ranks, present := presentBits ranks, links := links } }
  let s := (List.range 4).foldl (fun s p =>
    if variants.getD p 4 < 4 && !(s.plan p).inPlans then s.modPlan p fun x => { x with variant := variants.getD p 0 } else s) s
  s.modFrm fun f => { f with leader := s.leaderOf }

/-- ROSTER_ASSEMBLY: the provisional leader assembles and floods the roster (10 R275). -/
def rosterAssembly (s : State) : State :=
  let a := s.assembled
  if provisional a.1 = s.dom.rank then
    let v := s.picks a.1 a.2
    (s.adopt a.1 a.2 v).flood none (.roster a.1 a.2 v)
  else s

def execRosterAssembly (s : State) : R :=
  .next (if s.sends && !s.dom.out && decide (8 ≤ s.boot.stage) && !s.dom.tick0 then rosterAssembly s else s)

/-- VOTE_SPLIT: device-fatal at this rank, which stops sending (10 R279). -/
def State.split (s : State) : State := s.fault { code := 0x040B }

/-- The roster is being formed: after the firmware has loaded and before tick 0 (15 Table 15.1). -/
def State.gathers (s : State) : Bool := !s.dom.out && decide (8 ≤ s.boot.stage) && !s.dom.tick0

/-- ROSTER: checked against the own reports, then adopted and passed on (10 R275, R279). -/
def roster (p : Nat) (r : RosterIn) (s : State) : State :=
  let h := s.hear p
  let s := h.1
  let a := s.assembled
  if !h.2 || !(s.port p).up || !s.gathers then s
  else if a.1 = r.ranks ∧ a.2 = r.links ∧ s.picks r.ranks r.links = r.variants then
    (s.adopt r.ranks r.links r.variants).flood (some p) (.roster r.ranks r.links r.variants)
  else s.split

def execRoster (f : AtPort RosterIn) (s : State) : R :=
  .next (if s.sends then roster f.1.val f.2 s else s)

/-! ### Identity frames and training -/

/-- Physical lane `i` carries traffic: an active position not taken over by the spare, or the spare in use. -/
def Port.carries (x : Port) (i : Nat) : Bool := (decide (i < 8) && x.spareFor != i) || (i == 8 && x.spareFor != 15)

/-- Active lanes that still work. -/
def Port.working (x : Port) : Nat := ((List.range 9).filter fun i => x.carries i && !x.laneFail.getLsbD i).length

/-- STATE of a port that carries traffic: with eight working lanes up, with seven degraded, with fewer down (10 R261, R262). -/
def Port.grade (x : Port) : PortState := if 8 ≤ x.working then .up else if x.working = 7 then .degraded else .down

/-- A set of `n` probes begins: its first one is sent (10 R286). -/
def State.beginSet (s : State) (p n : Nat) : State :=
  (s.modPort p fun x => { x with setLen := n, probes := 0, hopSum := 0 }).sendOther p .probe

/-- PORT_TRAINED: the port sends identity frames (10 R273) and measures its latency 64 times (R286); one of a module out of the domain
carries identity frames only (R272). A port with fewer than seven working lanes is down (R262). -/
def portTrained (p : Nat) (s : State) : State :=
  let x := s.port p
  if (x.state == .training || x.state == .down) && (farEnd s.dom.shape s.dom.rank p).isSome || (s.dom.out && x.state == .training) then
    if x.grade = .down then s.modPort p fun x => { x with state := .down }
    else
      let s := (s.modPort p fun x =>
        { x with state := .identify, idGot := false, idAcked := false, probes := 0, hopSum := 0, setLen := 0, rxGood := 0, ackOut := 0,
                 stale := 0, txSeq := 0, replay := [], relayRun := 9 }).sendIdentity p
      if s.dom.out then s else s.beginSet p 64
  else s

/-- The 156.25 MHz input of a port is present (17 R466, R469). -/
def State.clocked (s : State) (p : Nat) : Bool := s.clk.ref156.getLsbD (p / 3)

def execPortTrained (p : Fin 6) (s : State) : R := .next (if s.sends && s.clocked p.val then portTrained p.val s else s)

/-- PORT_TRAIN_TIMEOUT: not trained within 500 ms (10 R273). -/
def execPortTrainTimeout (p : Fin 6) (s : State) : R :=
  .next (if s.sends && (s.port p.val).state == .training then s.modPort p.val fun x => { x with state := .down } else s)

/-- IDENTITY_REPEAT: every 10 µs until the port is up (10 R273); the frame of each lull is `State.lullIdentity`. -/
def execIdentityRepeat (p : Fin 6) (s : State) : R :=
  .next (if s.sends && ((s.port p.val).state == .identify || (s.port p.val).state == .excluded) then
      s.sendIdentity p.val
    else s)

/-- The port is excluded: its accounts close, and the report floods (10 R274). -/
def State.exclude (s : State) (p why : Nat) : State :=
  let up := (s.port p).up
  let s := (s.modPort p fun x => { x with state := .excluded, reason := why, foreign := false }).fault { code := 0x0406, unitk := 4, unit := p }
  (if up then classes.foldl (fun s c => s.closeAcct p c) s else s).floodReport

/-- The port comes up once it has an identity frame and its own has been acknowledged, within the latency (10 R274). -/
def State.comeUp (s : State) (p : Nat) : State :=
  let x := s.port p
  if x.state == .identify && x.idGot && x.idAcked && !s.dom.out then
    if hopMax < x.hopNs then s.exclude p 4
    else
      let s := s.modPort p fun x => { x with state := x.grade }
      if x.grade = .down then s else s.openAccts.floodReport
  else s

/-- IDENTITY_FRAME (10 R274). A module out of the domain carries identity frames only (R272), so its ports do not come up. -/
def identityFrame (p : Nat) (b : IdBody) (acked : Bool) (s : State) : State :=
  let h := s.hear p
  if !h.2 then h.1
  else
    let s := h.1.modPort p fun x => { x with peerRank := b.rank, peerPort := b.port, peerSerial := b.serial, idGot := true,
                                             idAcked := x.idAcked || acked }
    if s.dom.out then s
    else
      let x := s.port p
      let why := s.exclusion p b
      if why ≠ 0 then
        if x.state = .excluded ∧ x.reason = why then s
        else s.exclude p why
      else
        let s := s.modPort p fun x => { x with foreign := b.pfp != s.pfps, reason := 0 }
        if x.up then s else (s.modPort p fun x => { x with state := .identify }).comeUp p

def execIdentityFrame (p : Fin 6) (b : IdBody) (acked : Bool) (s : State) : R :=
  .next (if s.sends then identityFrame p.val b acked s else s)

/-- A port measured above the latency is excluded (10 R274); one that is excluded already keeps its reason. -/
def State.latencyCheck (s : State) (p : Nat) : State :=
  if hopMax < (s.port p).hopNs ∧ ((s.port p).up ∨ (s.port p).state = .identify) then s.exclude p 4 else s

/-- PROBE_FRAME: a round trip of the set in progress is measured; a full set's mean gives the one-way latency, rounded down (10
R286). -/
def probeFrame (p rtt : Nat) (s : State) : State :=
  let h := s.hear p
  let s := h.1
  let x := s.port p
  if !h.2 || s.dom.out || x.setLen == 0 then s
  else if x.probes + 1 < x.setLen then
    (s.modPort p fun x => { x with probes := x.probes + 1, hopSum := x.hopSum + rtt }).sendOther p .probe
  else
    let new := (x.hopSum + rtt) / (2 * x.setLen)
    let s := s.modPort p fun x => { x with probes := 0, hopSum := 0, setLen := 0, hopNs := new, measured := true }
    let s := s.latencyCheck p
    if x.measured && decide (2 < max new x.hopNs - min new x.hopNs) then s.fault { code := 0x0408, unitk := 4, unit := p } else s

/-- In every 256th lull each port measures its latency 4 times, an excluded one too, which carries probe frames (10 R274, R286; log 50). -/
def State.lullProbes (s : State) : State :=
  if s.frm.frame.toNat % 256 = 255 then
    (List.range 6).foldl (fun s p => if s.sends && ((s.port p).up || (s.port p).state == .excluded) && (s.port p).setLen == 0 then s.beginSet p 4 else s) s
  else s

def execProbeFrame (p : Fin 6) (rtt : Nat) (s : State) : R := .next (if s.sends then probeFrame p.val rtt s else s)

/-! ### A link going down -/

/-- The port goes down: accounts close, nothing more is replayed, the report floods (10 R280). -/
def State.portDown (s : State) (p : Nat) : State :=
  let s := s.fault { code := 0x0404, unitk := 4, unit := p }
  let s := classes.foldl (fun s c => s.closeAcct p c) s
  (s.modPort p fun x => { x with state := .down, replay := [], idGot := false, idAcked := false, foreign := false,
                                 reasm := none, setLen := 0, stale := 0 }).floodReport

def execLinkDown (p : Fin 6) (s : State) : R :=
  .next (if s.sends && (s.port p.val).linked then s.portDown p.val else s)

/-! ### Lanes -/

/-- A lane is to be replaced by the free spare in the next lull, once its delta has been written (10 R262, 14 R397). A dead lane goes
before one that only fails, whose waiting delta is dropped (log 59). -/
def State.markLane (s : State) (p lane cause : Nat) (dead : Bool) : State :=
  let x := s.port p
  if x.badLane.isSome && !dead then s
  else
    let s := { s with itg := { s.itg with deltas := s.itg.deltas.filter fun d => !(d.kind == 6 && d.unit == p) } }
    let s := s.modPort p fun x => { x with badLane := some lane }
    if x.spareFor == 15 && !x.laneFail.getLsbD 8 && decide (lane < 8) then s.queueDelta (s.mkDelta 6 p 0 lane cause) else s

/-- LANE_FAILING: more than one symbol in 10^5 of the 22,400,000 of 1 ms corrected, or more than 16 uncorrectable codewords
(10 R261). The counters take the codewords of the 1 ms. -/
def laneFailing (p lane symbols corrected uncorrectable : Nat) (s : State) : State :=
  let s := s.modPort p fun x => { x with fecc := satAdd x.fecc corrected, fecu := satAdd x.fecu uncorrectable }
  let x := s.port p
  if (224 < symbols ∨ 16 < uncorrectable) ∧ x.up ∧ !x.laneFail.getLsbD lane ∧ x.badLane ≠ some lane then
    let s := s.fault { code := 0x0401, unitk := 5, unit := 16 * p + lane }
    if x.carries lane then s.markLane p lane 0x0401 false else s
  else s

def execLaneFailing (p : Fin 6) (lane : Fin 9) (symbols corrected uncorrectable : Nat) (s : State) : R :=
  .next (if s.sends then laneFailing p.val lane.val symbols corrected uncorrectable s else s)

/-- LANE_DEAD: the port stripes over seven lanes and is degraded; with fewer than seven it is down (10 R261, R262). -/
def laneDead (p lane : Nat) (s : State) : State :=
  let x := s.port p
  if x.laneFail.getLsbD lane then s
  else
    let s := s.modPort p fun x => { x with laneFail := x.laneFail ||| BitVec.ofNat 9 (2 ^ lane) }
    if !x.carries lane then s
    else
      let s := s.markLane p lane 0x0403 true
      if !x.linked then s
      else if (s.port p).grade = .down then s.portDown p
      else if !x.up then s
      else (s.modPort p fun x => { x with state := .degraded }).fault { code := 0x0403, unitk := 4, unit := p }

def execLaneDead (p : Fin 6) (lane : Fin 9) (s : State) : R := .next (if s.sends then laneDead p.val lane.val s else s)

/-- LANE_SPARED: in the link track, the spare takes the bad lane's place once the delta that retires the lane has been written (10 R262, 14
R397). -/
def laneSpared (p : Nat) (s : State) : State :=
  let x := s.port p
  match x.badLane with
  | none => s
  | some lane =>
    if s.inLull && x.up && x.spareFor == 15 && !x.laneFail.getLsbD 8 && decide (lane < 8) && s.deltaDone 6 p lane then
      ((s.modPort p fun x => { x with spareFor := lane, laneFail := x.laneFail ||| BitVec.ofNat 9 (2 ^ lane), badLane := none }).modPort p
        fun x => { x with state := x.grade }).fault { code := 0x0402, unitk := 5, unit := 16 * p + lane }
    else s

def execLaneSpared (p : Fin 6) (s : State) : R := .next (if s.sends then laneSpared p.val s else s)

/-! ### Withdrawal -/

/-- PLAN_WITHDRAWAL: the leader's announcement arrives (10 R281). -/
def execPlanWithdrawal (f : AtPort (Fin 4)) (s : State) : R :=
  .next (s.onNotice f.1.val (.withdraw f.2.val) fun s => s.withdraw f.2.val)

/-- TWIN_MISMATCH_REPORT: the leader announces the plan's withdrawal (14 R394). -/
def execTwinMismatchReport (f : AtPort (Fin 64)) (plan : Fin 4) (s : State) : R :=
  .next (s.onNotice f.1.val (.twin f.2.val plan.val) fun s =>
    if s.frm.leader == s.dom.rank && ((s.plan plan.val).inPlans || (s.plan plan.val).pstate == .restoring)
    then s.announceWithdraw plan.val else s)

end Sys2Proof.Machine
end

