-- ==== Sys2Proof/Machine/Elec.lean ====
section
/-! DEFINITION. Clocks and temperature (02 R58; 17 R468, R469, R472 to R474). -/

namespace Sys2Proof.Machine

/-! ### PLLs and reference clocks -/

/-- The PLL of a tile that is not selected has been marked failed (02 R58). DEDUCED (log 33): a tile whose second PLL is selected
counts its first as failed, whatever delta selected it, since the device itself selects the second one only after the first has lost lock. -/
def Tile.otherFailed (t : Tile) : Bool := t.pllSpare || t.pllFailed.contains 1

/-- PLL_LOCK (02 R58): the delta that selects the other PLL, or retires the tile, is written before the device halts. -/
def pllLock (t : Nat) (s : State) : State :=
  let kind := if (s.tile t).otherFailed then 3 else 4
  (s.appendDelta (s.mkDelta kind t 0 0 0x0210)).fault
    { code := 0x0210, unitk := 8, unit := t, d0 := (s.tile t).fault.word }

def execPllLock (t : Fin 16) (s : State) : R := .next (if s.live then pllLock t.val s else s)

/-- REFCLK_FAILOVER: the standby serves (17 R468). -/
def execRefclkFailover (s : State) : R :=
  .next (if s.live && s.clk.standbyOk && !s.clk.lost then
      { s with clk := { s.clk with serving := 1 - s.clk.serving, standbyOk := false } }.fault { code := 0x0004 }
    else s)

/-- REFCLK_LOST: the serving input is lost with the standby absent, whether or not a command has said that the standby went first;
holdover begins (17 R468). -/
def execRefclkLost (s : State) : R :=
  .next (if s.live && !s.clk.lost then
      { s with clk := { s.clk with lost := true, standbyOk := false } }.fault { code := 0x0005 }
    else s)

/-- REFCLK_HOLDOVER_END: the clocks stop (17 R468). -/
def execRefclkHoldoverEnd (s : State) : R :=
  .next (if s.live && s.clk.lost then { s with clk := { s.clk with stopped := true } } else s)

/-- REFCLK_STANDBY_RESTORED: the lost input is the standby again (17 R468). -/
def execRefclkStandbyRestored (s : State) : R :=
  .next (if s.live && !s.clk.lost && !s.clk.standbyOk then { s with clk := { s.clk with standbyOk := true } } else s)

/-- Ports an input serves: E XW0 to XW2, W XW3 to XW5 (17 Table 17.7a). -/
def portsOf (input : Nat) : List Nat := if input < 2 then [3 * input, 3 * input + 1, 3 * input + 2] else []

/-- REFCLK156_LOSS (17 R469). -/
def refLoss (input : Nat) (s : State) : State :=
  let s := { s with clk := { s.clk with ref156 := s.clk.ref156 &&& ~~~BitVec.ofNat 3 (2 ^ input) } }
  let s := (portsOf input).foldl (fun s p => if (s.port p).linked then s.portDown p else s) s
  if input = 2 then s.hostDown else s

def execRefclk156Loss (input : Fin 3) (s : State) : R :=
  .next (if s.live && s.clk.ref156.getLsbD input.val then refLoss input.val s else s)

/-- REFCLK156_RETURN: the ports train again (17 R469). -/
def refReturn (input : Nat) (s : State) : State :=
  let s := { s with clk := { s.clk with ref156 := s.clk.ref156 ||| BitVec.ofNat 3 (2 ^ input) } }
  let s := (portsOf input).foldl (fun s p =>
    if (s.port p).state = .down then s.modPort p fun x => { x with state := .training } else s) s
  if input == 2 && s.host.link == 0 && s.reach 0 then { s with host := { s.host with link := 1 } } else s

def execRefclk156Return (input : Fin 3) (s : State) : R :=
  .next (if s.live && !s.clk.ref156.getLsbD input.val then refReturn input.val s else s)

/-! ### Temperature -/

/-- Thresholds in sixteenths of a degree (17 Table 17.8). -/
def tjAlarm : Int := 1520
def tjHold : Int := 1640
def tjTrip : Int := 1760

/-- The domain's hold: the first tick after the announcement enters the doldrums with cause THERMAL (17 R473). -/
def State.thermalHold (s : State) : State :=
  s.modFrm fun f => { f with agreedCauses := if f.agreedCauses.contains 5 then f.agreedCauses else f.agreedCauses ++ [5],
                             thermUp := true }

/-- The leader announces the hold to every rank, itself included. -/
def State.announceHold (s : State) : State := s.thermalHold.notify .hold

/-- A die reaches the trip point: plans and ports stop, with no fault record (17 R474). -/
def State.thermTrip (s : State) : State :=
  let s := { s with pwr := { s.pwr with thermTrip := true }, dom := { s.dom with splitStop := true } }
  (List.range 4).foldl State.stopPlan s

/-- Temperature of a die. -/
def State.tjOf (s : State) (d : Nat) : Int := (Sparse.get 0#16 s.dev.tj d).toInt

/-- Every die is below its alarm threshold. -/
def State.cool (s : State) : Bool := (List.range 21).all fun d => decide (s.tjOf d < tjAlarm)

/-- Alarm and hold of the hottest sample (17 R473). -/
def State.thermalEvents (s : State) (t : Int) : State :=
  let s := if tjAlarm ≤ t ∧ s.dev.therm = 0 then { s with dev := { s.dev with therm := 1 } }.fault { code := 0x0001 } else s
  if tjHold ≤ t ∧ !s.dev.holdRaised then
    let s := { s with dev := { s.dev with therm := 2, holdRaised := true } }.raise { code := 0x0002 }
    if s.frm.leader = s.dom.rank then s.announceHold else s.notify (.holdReport s.dom.rank)
  else s

/-- TEMPERATURE_SAMPLE (16 R448; 17 R472 to R474). -/
def temperatureSample (die : Nat) (sensors : List Int) (s : State) : State :=
  match sensors with
  | [] => s
  | x :: xs =>
    let t := (BitVec.ofInt 16 (xs.foldl max x)).toInt
    let pk := match Sparse.get none s.dev.peak die with
      | some p => max t p.toInt
      | none => t
    let dev := { s.dev with tj := Sparse.set 0#16 s.dev.tj die (BitVec.ofInt 16 t),
                            peak := Sparse.set none s.dev.peak die (some (BitVec.ofInt 16 pk)) }
    let s := { s with dev := dev }
    if tjTrip ≤ t then s.thermTrip
    else
      let s := s.thermalEvents t
      let since := if s.cool then some (s.dev.coolSince.getD s.clk.now) else none
      { s with dev := { s.dev with coolSince := since } }

def execTemperatureSample (die : Fin 21) (sensors : List Int) (s : State) : R :=
  .next (if s.live then temperatureSample die.val sensors s else s)

/-- THERMAL_HOLD_REPORT: a rank's report reaches the leader. -/
def execThermalHoldReport (f : AtPort (Fin 64)) (s : State) : R :=
  .next (s.onNotice f.1.val (.holdReport f.2.val) fun s => if s.frm.leader == s.dom.rank then s.announceHold else s)

/-- THERMAL_HOLD_ANNOUNCEMENT reaches the rank; the command does not name its port (log 50). -/
def execThermalHoldAnnouncement (s : State) : R := .next (if s.runs then s.thermalHold else s)

/-- THERMAL_CLEAR: every die below the alarm threshold for 100 ms; the episode ends (17 R473). -/
def thermalClear (s : State) : State :=
  { s with dev := { s.dev with therm := 0, holdRaised := false } }.fault { code := 0x0003 }

def execThermalClear (s : State) : R :=
  .next (if s.live && s.dev.therm != 0 && s.dev.coolSince.isSome then thermalClear s else s)

end Sys2Proof.Machine
end

