-- ==== Sys2Proof/Machine/Goush.lean ====
section
/-! DEFINITION. The management port (14 R401 to R404, R407): REPORT, RACK, HEARTBEAT, pattern packs (R395, R403), image segments
(R404) and the link. -/

namespace Sys2Proof.Machine

/-- The management port works. -/
def State.mgmt (s : State) : Bool := s.reach 1 && s.flt.mgmtUp

/-- A Goush message to this rank in form: VER 1, its type, its LEN, the device's address and UDP port (14 R401). -/
def State.goush (s : State) (h : GoushHdr) (typ len : Nat) : Bool :=
  s.mgmt && h.ver == 1 && h.typ == typ && h.len == len && h.dport == s.mport && s.mgmtAddr h.dst

/-- Record `n` is still held. -/
def FaultUnit.holds (f : FaultUnit) (n : Nat) : Bool := f.recs.any fun r => r.num == n

/-- REPORT_RESEND (14 R402): a report not acknowledged is sent again, the interval doubling up to 1 s. -/
def reportResend (c n : Nat) (s : State) : State :=
  match s.flt.collectors[c]? with
  | none => s
  | some x =>
    if x.cum ≤ n ∧ s.flt.holds n then
      { s with flt := { s.flt with
          collectors := modAt c (fun y => { y with interval := min 1000 (2 * y.interval) }) s.flt.collectors
          reports := s.flt.reports ++ [{ collector := c, seq := n, resend := true }] } }
    else s

def execReportResend (c : Fin 4) (n : Nat) (s : State) : R := .next (if s.mgmt then reportResend c.val n s else s)

/-- RACK (14 Table 14.7, R402): every REPORT below CUM has been received. Once the oldest record held is acknowledged, a full
episode ends. -/
def rack (c : Nat) (cum : W48) (s : State) : State :=
  let f := { s.flt with
    collectors := modAt c (fun y => { y with cum := max y.cum cum.toNat, interval := 10 }) s.flt.collectors }
  { s with flt := { f with overflowed := f.overflowed && !f.acked (f.next - 65536) } }

def execRack (m : GoushHdr × Fin 4) (cum : W48) (s : State) : R :=
  .next (if s.goush m.1 0x02 8 then rack m.2.val cum s else s)

/-- HEARTBEAT to every collector (14 Table 14.7). -/
def heartbeat (s : State) : State :=
  (List.range s.flt.collectors.length).foldl
    (fun s c => s.send (.heartbeat c [s.devState, s.frmState, s.itgPatrol])) s

def execHeartbeat (s : State) : R := .next (if s.mgmt then heartbeat s else s)

/-! ### Pattern packs -/

/-- Version held for a PACKID, one that waits for its guard phase included. -/
def Itg.versionOf (x : Itg) (id : Nat) : Option Nat :=
  match x.newPacks.find? fun p => p.packId == id with
  | some p => some p.version
  | none => ((x.packs.filterMap fun p => p).find? fun p => p.packId == id).map (·.version)

/-- Bytes of a pack's slice records and bodies. -/
def Pack.sliceBytes (p : Pack) : Nat := p.length - 160

/-- Bytes of a built-in slice: its record, program and inputs. -/
def Slice.size (x : Slice) : Nat := 16 + 16 * x.code.length + x.data.length

/-- Packs held once the new ones are active. -/
def Itg.heldPacks (x : Itg) : List Pack :=
  (x.packs.filterMap fun p => p).filter (fun p => !x.newPacks.any fun q => q.packId == p.packId) ++ x.newPacks

/-- Why a pack in form with a good signature is not taken (14 R395): 0 accepted, 3 version, 4 too large or no place. -/
def Itg.packResult (x : Itg) (p : Pack) : Nat :=
  if (x.versionOf p.packId).any fun v => decide (p.version ≤ v) then 3
  else
    let others := x.heldPacks.filter fun q => q.packId != p.packId
    if 16 ≤ others.length then 4
    else if 262144 < (x.builtin.map Slice.size).foldl (· + ·) 0 + (others.map Pack.sliceBytes).foldl (· + ·) 0 + p.sliceBytes then 4
    else 0

/-- Put a pack in its place: that of its PACKID, or the first free one. -/
def putPack (l : List (Option Pack)) (p : Pack) : List (Option Pack) :=
  let l := (List.range 16).map fun k => l.getD k none
  match l.findIdx? fun q => (q.map fun q => q.packId == p.packId).getD false with
  | some k => l.set k (some p)
  | none => match l.findIdx? Option.isNone with
    | some k => l.set k (some p)
    | none => l

/-- Accept a pack: stored in the eMMC in its turn (15 R411), held, and active from the next guard phase. A version it replaces runs until then. -/
def State.takePack (s : State) (p : Pack) : State :=
  let p := { p with active := false }
  let x := s.itg
  let held := x.packs.any fun q => (q.map fun q => q.packId == p.packId).getD false
  let x : Itg := { x with packs := if held then x.packs else putPack x.packs p,
                          newPacks := (x.newPacks.filter fun q => q.packId != p.packId) ++ [p], packStores := x.packStores ++ [p] }
  { s with itg := x }.storePacks

/-- A pack is rejected with result code `r`. -/
def State.badPack (s : State) (r : Nat) : State × Nat := (s.fault { code := 0x0805 }, r)

/-- A pack that has arrived whole: result code of its PACK_ACK and effect. -/
def State.checkPack (s : State) (id : Nat) (bs : List Byte) : State × Nat :=
  if !packSigned s.keyring bs then s.badPack 2
  else
    match parsePack bs with
    | none => s.badPack 4
    | some p =>
      if p.packId ≠ id then s.badPack 4
      else
        match s.itg.packResult p with
        | 0 => (s.takePack p, 1)
        | r => s.badPack r

/-- LENGTH of the pack whose first bytes are held; none before byte 15. -/
def packLen (bs : List Byte) : Option Nat := if bs.length < 16 then none else some (leNat ((bs.drop 12).take 4))

/-- Keep the bytes of pack `i` received so far. -/
def State.holdPack (s : State) (i : Nat) (b : List Byte) : State := { s with itg := { s.itg with rxPackId := i, rxBytes := b } }

/-- PACK_SEG (14 R403): segments in OFFSET order; a second pack discards the first. -/
def packSeg (q : W48) (id : Nat) (offset : Nat) (body : List Byte) (s : State) : State :=
  let x := s.itg
  let held := if x.rxPackId = id then x.rxBytes else []
  if offset ≠ held.length then s.send (.packAck q id held.length 0)
  else
    let bs := held ++ body
    match packLen bs with
    | none => (s.holdPack id bs).send (.packAck q id bs.length 0)
    | some n =>
      if 4194304 < n then ((s.holdPack 0 []).fault { code := 0x0805 }).send (.packAck q id bs.length 4)
      else if bs.length < n then (s.holdPack id bs).send (.packAck q id bs.length 0)
      else
        let r := (s.holdPack 0 []).checkPack id (bs.take n)
        r.1.send (.packAck q id n r.2)

def execPackSeg (m : GoushHdr × BitVec 16) (offset : W48) (body : List Byte) (s : State) : R :=
  .next (if s.goush m.1 0x30 (8 + body.length) && decide (body.length ≤ 8184) then packSeg m.1.seq m.2.toNat offset.toNat body s else s)

/-! ### Image segments -/

/-- IMG_SEG (14 R404): taken in OFFSET order by the write that names STREAM 0xFFFF on this port, the oldest that is not
complete. -/
def imgSeg (q : W48) (offset : Nat) (body : List Byte) (s : State) : State :=
  match s.img.find? fun w => w.port == 1 && w.stream == 0xFFFF && decide (w.bytes.length < w.length) with
  | none =>
    match s.img.find? fun w => w.port == 1 && w.stream == 0xFFFF with
    | some w => s.send (.imgAck q w.bytes.length 0)
    | none => s.send (.imgAck q 0 3)
  | some w =>
    if offset ≠ w.bytes.length then s.send (.imgAck q w.bytes.length 0)
    else
      let bs := w.bytes ++ body.take w.room
      { s with img := mapIf (fun x => x.slot == w.slot) (fun x => { x with bytes := bs, seq := q }) s.img }.send (.imgAck q bs.length 0)

def execImgSeg (m : GoushHdr × W48) (body : List Byte) (s : State) : R :=
  .next (if s.goush m.1 0x32 (8 + body.length) && decide (body.length ≤ 8184) then imgSeg m.1.seq m.2.toNat body s else s)

/-! ### The link -/

/-- MGMT_LINK_DOWN (14 R407). -/
def execMgmtLinkDown (s : State) : R :=
  .next (if s.mgmt then { s with flt := { s.flt with mgmtUp := false } }.fault { code := 0x080B } else s)

/-- MGMT_LINK_UP: records held and not acknowledged are resent by REPORT_RESEND. -/
def execMgmtLinkUp (s : State) : R :=
  .next (if s.reach 1 && !s.flt.mgmtUp then { s with flt := { s.flt with mgmtUp := true } } else s)

end Sys2Proof.Machine
end

