-- ==== Sys2Proof/Machine/Reduce.lean ====
section
/-! DEFINITION. Shards and their owners (08 R210; 11 R296, R297) and what a vote's root reports decide for each layer (11 R311,
R313 to R316). -/

namespace Sys2Proof.Machine

/-- Ranks of a variant, ascending. -/
def Variant.rankList (v : Variant) : List Nat := (List.range 64).filter v.has

/-- Parameters of a shard unit (08 R210). -/
def unitParams : Nat := 1048576

/-- Shard units of a layer. -/
def Plan.nunits (q : Plan) (layer : Nat) : Nat := ceilDiv (q.pcount layer) unitParams

/-- Unit range of the rank at position `k` of `n` (08 R210). -/
def unitRange (units n k : Nat) : Nat × Nat := (k * units / n, (k + 1) * units / n)

/-- Layer entry of a layer. -/
def Plan.layerEntry (q : Plan) (layer : Nat) : Rec := (q.layers.find? fun e => rf e 0 48 16 == layer).getD []

/-- The rank that hosts a layer of one expert under variant number `k` (08 R210, R217). Which of several expert entries the layer belongs
to is not stated (log 49). -/
def Plan.host (q : Plan) (k layer : Nat) : Nat :=
  let e := q.layerEntry layer
  let n := if q.experts.length = 1 then 0 else Config.expertEntry layer (rf e 0 25 8)
  ((q.hosts.getD n []).getD k []).getD (rf e 0 25 8) 0xFF

/-- Number of a variant of the plan. -/
def Plan.variantNum (q : Plan) (v : Variant) : Nat := (q.variants.findIdx? fun w => w == v).getD 0

/-- First reduction block and number of blocks of the shard that rank `r` owns under a variant. A layer of one expert is owned whole by
its host. -/
def Plan.shard (q : Plan) (v : Variant) (layer r : Nat) : Nat × Nat :=
  if q.isExp layer then (0, if r = q.host (q.variantNum v) layer then q.blocks layer else 0)
  else
    match v.rankList.findIdx? fun x => x == r with
    | none => (0, 0)
    | some k =>
      let u := unitRange (q.nunits layer) v.rankList.length k
      (u.1 * (unitParams / 128), ceilDiv (min (u.2 * unitParams) (q.pcount layer) - u.1 * unitParams) 128)
def Plan.shardBlocks (q : Plan) (v : Variant) (layer r : Nat) : Nat := (q.shard v layer r).2

/-- Ranks that own a shard of a layer with EXP 0. -/
def Plan.owners (q : Plan) (v : Variant) (layer : Nat) : List Nat :=
  v.rankList.filter fun r => decide (0 < q.shardBlocks v layer r)

/-- Micro-batches of a rank under a variant (08 R203). -/
def Plan.mbCount (q : Plan) (v : Variant) : Nat := if v.mbsv = 0 then q.training? 1 56 8 else v.mbsv

/-- Word of the micro-batch map. -/
def Plan.mbWord (q : Plan) (v r k : Nat) : W32 := q.mbmap.getD ((64 * v + r) * q.training? 1 56 8 + k) 0

/-- Gradient sets that a rank forms under variant `v` (08 R203). -/
def Plan.setCount (q : Plan) (v : Variant) (r : Nat) : Nat :=
  (((List.range (q.mbCount v)).map fun k => bfld (q.mbWord (q.variantNum v) r k) 8 8).eraseDups).length

/-- LINES that a root seal of the layer must hold (14 Table 14.5 equation 6). -/
def Plan.sealExpected (q : Plan) (v : Variant) (layer r : Nat) : Nat :=
  (if q.isExp layer then 1 else v.rankList.length) * q.shardBlocks v layer r

/-! ### Trees (11 R296, R297) -/

/-- Parent of rank `r` in the tree of owner `o`, none at the root and outside it. The tree of an expert's layer is its host alone. -/
def Plan.parent (q : Plan) (v : Variant) (layer o r : Nat) : Option Nat :=
  let x := (v.trees.getD o []).getD r 0xFF
  if q.isExp layer ∨ 64 ≤ x then none else some x

/-- Children of a rank, which hold child positions 0 and 1 by ascending rank. -/
def Plan.children (q : Plan) (v : Variant) (layer o r : Nat) : List Nat := v.rankList.filter fun c => q.parent v layer o c == some r

/-- Ranks of the tree of owner `o`. -/
def Plan.treeRanks (q : Plan) (v : Variant) (layer o : Nat) : List Nat := if q.isExp layer then [o] else v.rankList

/-- Reports for the layer's current round. -/
def RedLayer.current (l : RedLayer) : List RootReport := l.reports.filter fun x => x.round == l.round

/-- Some report of the current round starts the next one (11 R311, R313). -/
def RedLayer.startsRound (l : RedLayer) (r : Rec) : Bool :=
  redPolicy r == 1 && !l.mark && decide (l.round < redRounds r) && l.current.any (·.clip)

/-- Every root of the layer has reported the current round (11 R316). -/
def RedLayer.complete (l : RedLayer) (q : Plan) (v : Variant) (layer : Nat) : Bool :=
  if q.isExp layer then l.current.any fun x => x.owner == q.host (q.variantNum v) layer
  else (q.owners v layer).all fun o => l.current.any fun x => x.owner == o

/-- Take one report of a vote. -/
def RedLayer.take (l : RedLayer) (x : RootReport) : RedLayer :=
  { l with reports := l.reports ++ [x], mark := l.mark || x.mark, clipped := l.clipped || x.clip }

/-- What the layer's reports decide (11 R311, R316): the next round, or the commit that the next tick makes. -/
def RedLayer.decide (l : RedLayer) (q : Plan) (v : Variant) (r : Rec) : RedLayer :=
  if l.committed ∨ l.commitNext ≠ 0 then l
  else if l.startsRound r then { l with roundNext := true }
  else if l.complete q v (redLayer r) then { l with commitNext := if l.mark then 2 else 1 }
  else l

/-- SKIPLIM of a plan, 0 for no limit (08 Table 8.1). -/
def Plan.skipLim (q : Plan) : Nat := q.training? 1 0 8

/-- A layer that will commit with SKIP is logged; a skip run at SKIPLIM makes the plan checkpoint and hold at its step boundary
(11 R313, R314). -/
def State.layerSkipped (s : State) (p : Nat) (q : Plan) (layer round : Nat) : State :=
  let s := s.redFault 0x0507 p layer round 0
  let run := ((s.plan p).layer layer).skiprun + 1
  let s := s.modLayer p layer fun l => { l with skiprun := run }
  if 0 < q.skipLim ∧ q.skipLim ≤ run then
    let s := s.raise { code := 0x0508, plan := some p, d0 := BitVec.ofNat 64 (layer * 2 ^ 48 + round) }
    s.modPlan p fun x => { x with skipHold := true, ckpt := { x.ckpt with wanted := true } }
  else s

/-- Root reports of a vote for one reduction record of plan `p`. -/
def State.voteLayer (s : State) (p : Nat) (q : Plan) (v : Variant) (reps : List RootReport) (r : Rec) : State :=
  let layer := redLayer r
  let old := (s.plan p).layer layer
  let new := ((reps.filter fun x => x.plan == p && x.layer == layer).foldl RedLayer.take old).decide q v r
  let s := s.modLayer p layer fun _ => new
  if new.commitNext = 2 ∧ old.commitNext ≠ 2 then s.layerSkipped p q layer new.round else s

/-- Every report of the vote, at every rank (11 R315). -/
def State.voteReports (s : State) (reps : List RootReport) : State :=
  (List.range 4).foldl (fun s p =>
    match s.img? p, s.variantOf p with
    | some q, some v =>
      if (s.plan p).inPlans then q.reds.foldl (fun s r => s.voteLayer p q v reps r) s else s
    | _, _ => s) s

/-! ### At the tick (11 R311, R314, R316; 04 R126) -/

/-- Write a count word on every tile of the plan's region. -/
def State.setCw (s : State) (q : Plan) (i : Nat) (v : W32) : State :=
  (List.range 16).foldl (fun s t =>
    if q.hasTile t then s.modTile t fun x => { x with cw := Sparse.set 0#32 x.cw i v } else s) s

/-- A commit takes effect: CWORD is 1 for an update, 2 for a skip (11 R316). Past the last frame of the step, the step that opens reads it
too (11 R323). -/
def State.commitLayer (s : State) (p : Nat) (q : Plan) (v : Variant) (r : Rec) : State :=
  let layer := redLayer r
  let x := s.plan p
  let l := x.layer layer
  if l.commitNext = 0 then s
  else
    let skip := l.commitNext == 2
    let s := s.setCw q (redCword r) (BitVec.ofNat 32 l.commitNext)
    let s := s.modLayer p layer fun l =>
      { l with committed := true, commitNext := 0, commRound := l.round, skiprun := if skip then l.skiprun else 0,
               auditDue := decide (0 < q.shardBlocks v layer s.dom.rank),
               carry := if (q.stepTable x.variant).stepLen ≤ x.pos then l.commitNext else 0 }
    s.modRed p fun w =>
      { w with lastCommit := layer, lastSkip := skip, skip := if skip then satInc w.skip else w.skip }

/-- A re-scale round starts: its count word becomes 1 (11 R311). -/
def State.startRound (s : State) (p : Nat) (q : Plan) (r : Rec) : State :=
  let layer := redLayer r
  let l := (s.plan p).layer layer
  if !l.roundNext then s
  else
    let s := s.setCw q (redRword r + l.round) 1
    let s := s.modLayer p layer fun l => { l with round := l.round + 1, roundNext := false }
    let s := s.modRed p fun w => { w with rounds := w.rounds + 1 }
    s.redFault 0x0505 p layer (l.round + 1) 0

/-- Commits and rounds that fall on this tick; they go on in the doldrums (11 R319). -/
def State.tickReductions (s : State) : State :=
  (List.range 4).foldl (fun s p =>
    match s.img? p, s.variantOf p with
    | some q, some v =>
      if (s.plan p).inPlans then q.reds.foldl (fun s r => (s.commitLayer p q v r).startRound p q r) s else s
    | _, _ => s) s

/-- UFRAME of reduction record `i` in the step table in force (01 R25; 11 Table 11.1). -/
def Plan.uframe (q : Plan) (variant i : Nat) (r : Rec) : Nat :=
  let k := ((q.variants[variant]?).map Variant.stab).getD 0
  if k = 0 then redUframe r else ((q.stepTable variant).uframes).getD i 0

/-- Frame of its step that the coming tick opens for a plan. -/
def PlanSt.nextFrame (x : PlanSt) (q : Plan) : Nat := if (q.stepTable x.variant).stepLen ≤ x.pos then 0 else x.pos

/-- Some layer of plan `p` has not committed, and no vote has agreed its commit for the coming tick, by the tick that opens its UFRAME:
with UFRAME 0, the first frame of the step after (11 R317, R323). -/
def State.commitMissing (s : State) (p : Nat) : Bool :=
  let x := s.plan p
  match x.image with
  | none => false
  | some q => q.reds.zipIdx.any fun e => q.uframe x.variant e.2 e.1 == x.nextFrame q && !(x.layer (redLayer e.1)).committed &&
      (x.layer (redLayer e.1)).commitNext == 0

/-- A layer's state as a step opens: what its optimiser still needs of the step before stays. -/
def RedLayer.fresh (l : RedLayer) : RedLayer :=
  { RedLayer.reset with
    skiprun := l.skiprun, lambda := l.lambda, sealLines := l.sealLines, auditDue := l.auditDue, commRound := l.commRound,
    exps := l.exps, clips := l.clips, rootClip := l.rootClip, rootMark := l.rootMark }

/-- At a step boundary CWORD and the round words read 0 (11 R311, R316), but for a commit that the step's first frame acts on (R323). -/
def State.clearStep (s : State) (p : Nat) (q : Plan) : State :=
  let s := q.reds.foldl (fun s r =>
    let s := s.setCw q (redCword r) (BitVec.ofNat 32 ((s.plan p).layer (redLayer r)).carry)
    (List.range (redRounds r)).foldl (fun s k => s.setCw q (redRword r + k) 0) s) s
  let fresh (x : PlanSt) (m : Sparse RedLayer) (r : Rec) : Sparse RedLayer :=
    Sparse.set RedLayer.reset m (redLayer r) (x.layer (redLayer r)).fresh
  s.modPlan p fun x => { x with layers := q.reds.foldl (fresh x) x.layers, red := { x.red with rounds := 0 } }

end Sys2Proof.Machine
end

