-- ==== Sys2Proof/Machine/Flags.lean ====
section
/-! DEFINITION. The vector unit's functions lane by lane, its compares into mask registers and its horizontal reductions
(03 R100, R101), and the counter-based generator (08 R206). -/

namespace Sys2Proof.Machine

/-- FN values of 03 Table 3.11. -/
def vopFn (fn : Nat) : Bool :=
  fn ≤ 0x0E || (0x10 ≤ fn && fn ≤ 0x14) || (0x18 ≤ fn && fn ≤ 0x20) || fn == 0x28 || fn == 0x29 ||
    (0x30 ≤ fn && fn ≤ 0x32)

/-- Compares write a mask register and leave VD unchanged. -/
def vopCompare (fn : Nat) : Bool := 0x10 ≤ fn && fn ≤ 0x13

/-- rand32 (08 R206): rounds `i` to 7. -/
def randRounds : Nat → Nat → Nat → Nat → Nat → Nat → Nat
  | 0, _, _, _, lo, hi => lo ^^^ hi
  | n + 1, i, a, b, lo, hi =>
    let k := ((if i % 2 = 0 then a else b) + i * 0x9E3779B9) % 2 ^ 32
    let p := lo * 0xD256D193
    randRounds n (i + 1) a b ((p / 2 ^ 32) ^^^ hi ^^^ k) (p % 2 ^ 32)

def rand32 (a b c : W32) : W32 := BitVec.ofNat 32 (randRounds 8 0 a.toNat b.toNat c.toNat 0x6A09E667)

/-- derive (08 R206): the key of a stream. -/
def deriveKey (seed : W64) (stream site : Nat) (step : W48) (g : Nat) : W32 × W32 :=
  [stream * 65536 + site, bfld step 0 32, bfld step 32 16 * 65536 + g].foldl
    (fun ab c => (rand32 ab.1 ab.2 (BitVec.ofNat 32 c), rand32 ab.2 ab.1 (BitVec.ofNat 32 c)))
    (BitVec.ofNat 32 (bfld seed 0 32), BitVec.ofNat 32 (bfld seed 32 32))

/-- A compare's mask bit: CMPEQ, CMPLT, CMPLE, CMPUN. -/
def compareLane (fn : Nat) (a b : W32) : Bool :=
  let x := f32 a
  let y := f32 b
  match fn with
  | 0x10 => x.eqv y
  | 0x11 => x.lt y
  | 0x12 => x.lt y || x.eqv y
  | _ => x.isNan || y.isNan

/-- One lane of a function that is neither a compare nor horizontal. `sel` is the lane's bit of mask `k(VC[2:0])`, `i` the
lane index. -/
def vopLane (fn : Nat) (a b c : W32) (sel : Bool) (i : Nat) : W32 :=
  match fn with
  | 0x00 => fadd a b
  | 0x01 => fsub a b
  | 0x02 => fmul a b
  | 0x03 => ffma a b c
  | 0x04 => fmax a b
  | 0x05 => fmin a b
  | 0x06 => canon (a &&& 0x7FFFFFFF#32)
  | 0x07 => canon (a ^^^ 0x80000000#32)
  | 0x08 => rcp0 a
  | 0x09 => rsq0 a
  | 0x0A => exp0 a
  | 0x0B => log0 a
  | 0x0C => ldexp a b
  | 0x0D => cvtf a
  | 0x0E => cvti a
  | 0x14 => if sel then a else b
  | 0x18 => a + b
  | 0x19 => a - b
  | 0x1A => a * b
  | 0x1B => a &&& b
  | 0x1C => a ||| b
  | 0x1D => a ^^^ b
  | 0x1E => a <<< bfld b 0 5
  | 0x1F => a >>> bfld b 0 5
  | 0x20 => a.sshiftRight (bfld b 0 5)
  | 0x30 => rand32 a b c
  | 0x31 => srnd16 a b
  | _ => BitVec.ofNat 32 i

/-- Combine neighbours pairwise, level by level: `(l0 ⊕ l1) ⊕ (l2 ⊕ l3)` and so on (03 R101). -/
def pairUp (op : W32 → W32 → W32) : List W32 → List W32
  | a :: b :: r => op a b :: pairUp op r
  | r => r

/-- HSUM and HMAX of 16 lanes. -/
def horizontal (fn : Nat) (l : List W32) : W32 :=
  let op := if fn = 0x28 then fadd else fmax
  ((pairUp op (pairUp op (pairUp op (pairUp op l)))).head?).getD 0

/-- Latency of a vector operation (03 R90). -/
def vopLatency (fn : Nat) : Nat := if fn = 0x28 ∨ fn = 0x29 ∨ fn = 0x30 then 6 else 4

/-- Bits of a mask from lane decisions, lane 0 in bit 0. -/
def maskOf (l : List Bool) : BitVec 16 :=
  BitVec.ofNat 16 (l.foldr (fun b a => 2 * a + (if b then 1 else 0)) 0)

/-- Source registers a function reads (03 R107): VA, VB, VC. -/
def vopReads (fn : Nat) (immb : Bool) : Bool × Bool × Bool :=
  let noB := fn ∈ [0x06, 0x07, 0x08, 0x09, 0x0A, 0x0B, 0x0D, 0x0E, 0x28, 0x29, 0x32]
  (fn != 0x32, !decide noB && !immb, fn == 0x03 || fn == 0x30)

end Sys2Proof.Machine
end

