-- ==== Sys2Proof/Machine/Operands.lean ====
section
/-! DEFINITION. A core's instruction words: fetch, legality (03 R92 to R95, R99, R104), predicates, effective addresses
(03 R94), advance through loops (03 R104), chain position (03 R78). -/

namespace Sys2Proof.Machine

/-! ### Fields -/

def opc (w : W128) : Nat := bfld w 120 8
def pred (w : W128) : Nat := bfld w 118 2

/-- Bits `[lo + len - 1 : lo]` are all 0. -/
def rsv (w : W128) (lo len : Nat) : Bool := bfld w lo len == 0

/-- Group length from GSZ. -/
def groupLen (gsz : Nat) : Nat := 16 * 2 ^ gsz

/-- MSTEP word is illegal for chain length `L` (03 R92, R95). -/
def illegalMstep (w : W128) (L : Nat) : Bool :=
  let fa := bfld w 109 4
  let fb := bfld w 105 4
  let sa := bfld w 115 1 == 1
  let sb := bfld w 114 1 == 1
  let int8 (f : Nat) : Bool := f == 5 || f == 6
  pred w != 0 || !rsv w 113 1 || !rsv w 0 9 || decide (8 < fa) || decide (8 < fb) ||
  decide (32 < bfld w 97 6) || decide (32 < bfld w 91 6) || decide (8 * L * groupLen (bfld w 103 2) < bfld w 77 14) ||
  (bfld w 116 1 == 1 && (!int8 fa || !int8 fb || sa || sb)) ||
  (!sa && needsScale fa) || (!sb && needsScale fb) ||
  (sa && (fa == 7 || fa == 8)) || (sb && (fb == 7 || fb == 8))

/-- VST word is illegal (03 R99). -/
def illegalVst (w : W128) : Bool :=
  if bfld w 117 1 = 1 then !rsv w 0 102
  else
    let fmt := bfld w 108 4
    let blk := bfld w 105 1 == 1
    let g := groupLen (bfld w 106 2)
    let n := bfld w 97 8
    !rsv w 0 24 || decide (13 < fmt) ||
    (if blk then decide (g < n) || decide (32 < bfld w 112 5 + g / 16) || !takesScale fmt
     else decide (16 < n))

/-- A word breaks R92 or its own rule, whatever the state but for the chain length and the loop stack. -/
def illegal (w : W128) (L : Nat) : Bool :=
  pred w == 3 ||
  (match opc w with
   | 0x01 => illegalMstep w L
   | 0x02 | 0x03 => if bfld w 117 1 = 0 then !rsv w 114 3 || !rsv w 0 6 else !rsv w 0 59
   | 0x04 => !rsv w 0 78 || (if bfld w 117 1 = 0 then decide (13 < bfld w 108 4) else !rsv w 78 24)
   | 0x05 => illegalVst w
   | 0x06 => !vopFn (bfld w 112 6) || !rsv w 0 53
   | 0x07 => !rsv w 0 82
   | 0x08 => !rsv w 0 85
   | 0x09 => bfld w 116 2 == 3 || decide (32 < bfld w 106 6) || decide (32 < bfld w 100 6) || !rsv w 0 67
   | 0x0A => bfld w 116 2 == 3 || !rsv w 0 111 || (bfld w 116 2 != 0 && !rsv w 111 1)
   | 0x0B => pred w != 0 || !rsv w 0 90 || bfld w 94 8 == 0
   | 0x0C => decide (4 < bfld w 115 3) || !rsv w 0 79
   | 0x0D => pred w != 0 || !rsv w 0 115
   | 0x0F => !rsv w 0 120
   | _ => true)

/-- Opcodes of 03 Table 3.3. -/
def knownOpc (o : Nat) : Bool := (1 ≤ o && o ≤ 0x0D) || o == 0x0F

/-! ### Fetch and advance -/

/-- The core can issue: it belongs to a running slot and nothing holds it (03 R89, R102, R81). -/
def State.issues (s : State) (k : Nat) : Bool :=
  let c := s.core k
  s.runs && c.active && !c.ended && c.held.isNone && !c.atStep && (s.plan c.plan).executes

/-- The slot programs of a plan in a tile's store. -/
def Tile.program (t : Tile) (p : Nat) : List W128 := ((t.progs.find? fun e => e.1 == p).map (·.2)).getD []

/-- The instruction buffer of a core: the next 256 instructions, which the tile sequencer streams from the tile store (03 R72). -/
def State.fetchBuffer (s : State) (k : Nat) : List W128 :=
  let c := s.core k
  (((s.tile (keyTile k)).program c.plan).drop (c.prog + c.pc)).take 256

/-- The next instruction word of a core that can issue. A fetch beyond the plan's programs, which validation rules out
(03 R476), reads a reserved word. -/
def State.nextWord (s : State) (k : Nat) : Option W128 :=
  if s.issues k then some ((s.fetchBuffer k).headD 0#128) else none

/-- After the instruction at `i`: the next one, or a loop's first when passes are left (03 R104). -/
def loopNext : Nat → List LoopLvl → Nat × List LoopLvl
  | i, [] => (i + 1, [])
  | i, l :: ls =>
    if l.last = i then
      (if 1 < l.left then (l.first, { l with left := l.left - 1 } :: ls) else loopNext i ls)
    else (i + 1, l :: ls)

/-- The core retires the instruction at its pc, taking `lat` cycles. -/
def Core.retire (c : Core) (lat : Nat) : Core :=
  let r := loopNext c.pc c.loops
  { c with pc := r.1, loops := r.2, lat := lat }

def State.retire (s : State) (k lat : Nat) : State := s.modCore k fun c => c.retire lat

/-- Address registers: a0 reads 0 and ignores writes (03 R94). -/
def Core.areg (c : Core) (i : Nat) : W32 := if i = 0 then 0#32 else Sparse.get 0#32 c.ar i
def Core.setAreg (c : Core) (i : Nat) (v : W32) : Core :=
  if i = 0 then c else { c with ar := Sparse.set 0#32 c.ar i v }
/-- The signed increment of a field of `len` bits in units of `u` bytes (03 R94). -/
def Core.incAreg (c : Core) (i field len u : Nat) : Core :=
  c.setAreg i (c.areg i + BitVec.ofInt 32 (sext field len * u))

/-- Mask registers: k0 reads all ones and ignores writes (03 R100). -/
def Core.kreg (c : Core) (i : Nat) : BitVec 16 := if i = 0 then 0xFFFF#16 else Sparse.get 0#16 c.kr i
def Core.setKreg (c : Core) (i : Nat) (v : BitVec 16) : Core :=
  if i = 0 then c else { c with kr := Sparse.set 0#16 c.kr i v }

/-- The 16 lanes of a vector register. -/
def Core.vreg (c : Core) (v : Nat) : List W32 := (List.range 16).map fun i => Sparse.get 0#32 c.vr (16 * v + i)
def Core.setVreg (c : Core) (v : Nat) (l : List W32) : Core :=
  { c with vr := (List.range 16).foldl (fun m i => Sparse.set 0#32 m (16 * v + i) (l.getD i 0#32)) c.vr }
def Core.markV (c : Core) (v : Nat) (b : Bool) : Core := { c with vpoison := Sparse.set false c.vpoison v b }

/-- A pocket access of `n` bytes at `a` with alignment `al` is allowed (03 R94). -/
def pocketOk (a n al : Nat) : Bool := decide (a + n ≤ 65536) && a % al == 0

/-- Chain position and index of a core in its slot (03 R78, R104 ADDR). -/
def Core.rowInSlot (c : Core) (k : Nat) : Nat := globalRow k - c.top
def Core.chainPos (c : Core) (k : Nat) : Nat := c.rowInSlot k % c.chain
def Core.chainIdx (c : Core) (k : Nat) : Nat := c.rowInSlot k / c.chain
def Core.isBottom (c : Core) (k : Nat) : Bool := c.chainPos k == c.chain - 1
def Core.isTop (c : Core) (k : Nat) : Bool := c.chainPos k == 0

/-- Cores of a core's chain, top first. -/
def chainKeys (s : State) (k : Nat) : List Nat :=
  let c := s.core k
  (List.range c.chain).map fun i => keyAt (globalRow k - c.chainPos k + i) (globalCol k)

/-- The predicate excludes this core (03 R92). -/
def Core.excluded (c : Core) (k : Nat) (w : W128) : Bool :=
  (pred w == 1 && !c.isBottom k) || (pred w == 2 && !c.isTop k)

/-- Issue of the next instruction of core `k`, when it is one that `is` selects: an illegal word faults on every core, also on one that
its predicate excludes (03 R92; log 9), an excluded core retires a legal one without effect, otherwise `body` gives its effect. A word of
another known opcode is not this command. -/
def coreIssue (k : Nat) (is : W128 → Bool) (body : W128 → Core → State → State) (s : State) : State :=
  match s.nextWord k with
  | none => s
  | some w =>
    let c := s.core k
    if !knownOpc (opc w) then s.coreFault k 0x0202
    else if !is w then s
    else if illegal w c.chain then s.coreFault k 0x0202
    else if c.excluded k w then s.retire k 1
    else body w c s

end Sys2Proof.Machine
end

