-- ==== Sys2Proof/Machine/Twin.lean ====
section
/-! DEFINITION. Redundancy: which cores are primaries and twins, and the hold of a primary's tile-store writes (14 R393);
marks of written bytes (03 R107). -/

namespace Sys2Proof.Machine

/-- Part a core plays under its plan's redundancy variant (14 R393). -/
inductive TwinRole where
  | none | primary | twin
deriving DecidableEq, Repr

def State.twinPairs (s : State) (p : Nat) : List TwinPair :=
  let x := s.plan p
  if x.redundant then ((x.image.bind fun q => q.variants[x.variant]?).map (·.twins)).getD [] else []

def State.twinRole (s : State) (k : Nat) : TwinRole :=
  let ps := s.twinPairs (s.core k).plan
  if ps.any (·.primary == k) then .primary else if ps.any (·.twin == k) then .twin else .none

/-- Cut consecutive bytes at the boundaries of 32-byte words. -/
def heldWords : Nat → List (Byte × Bool) → List HeldWord
  | _, [] => []
  | a, b :: bs =>
    match heldWords (a + 1) bs with
    | w :: ws => if (a + 1) % 32 ≠ 0 then { addr := a, data := b.1 :: w.data, poison := b.2 || w.poison } :: ws
                 else { addr := a, data := [b.1], poison := b.2 } :: w :: ws
    | [] => [{ addr := a, data := [b.1], poison := b.2 }]

/-- Marks after a write of bytes with their own marks (03 R107). -/
def putMarks (m : Sparse Bool) (a : Nat) (ps : List Bool) : Sparse Bool :=
  (wordsOf a ps.length).foldl (fun m w =>
    let lo := max a (32 * w)
    let hi := min (a + ps.length) (32 * w + 32)
    if ((ps.drop (lo - a)).take (hi - lo)).any id then Sparse.set false m w true
    else if hi - lo = 32 then Sparse.set false m w false else m) m

/-- A held write of a poisoned SPILL: the mark covers the whole line (03 R107). -/
def HeldWord.wholeLine (w : HeldWord) : HeldWord := { w with line := w.poison }

/-- A core's write of consecutive tile-store bytes: a primary's is held for its twin's copy, a twin's own is only the copy
(14 R393). -/
def State.coreWrite (s : State) (k a : Nat) (bs : List (Byte × Bool)) : State :=
  match s.twinRole k with
  | .primary => s.modCore k fun c => { c with twin := c.twin ++ heldWords a bs }
  | .twin => s
  | .none => { s with store := Mem.put s.store a (bs.map (·.1)), storePoison := putMarks s.storePoison a (bs.map (·.2)) }

/-- A SPILL's write of one wide-buffer row; a poisoned one marks the whole line (03 R107). -/
def State.spillWrite (s : State) (k a : Nat) (bs : List (Byte × Bool)) : State :=
  match s.twinRole k with
  | .primary => s.modCore k fun c => { c with twin := c.twin ++ (heldWords a bs).map HeldWord.wholeLine }
  | .twin => s
  | .none => let z := s.coreWrite k a bs; if bs.any (·.2) then z.poisonLine a else z

/-- Bytes with the marks of their words. -/
def markedBytes (m : Mem) (marks : Sparse Bool) (a n : Nat) : List (Byte × Bool) :=
  (List.range n).map fun i => (Sparse.get 0#8 m (a + i), Sparse.get false marks ((a + i) / 32))

end Sys2Proof.Machine
end

