-- ==== Sys2Proof/Machine/Integrity.lean ====
section
/-! DEFINITION. Core retirement (02 R59 to R61; 14 R396, R397), redundancy (14 R393, R394), patrol (14 R388 to R392) and the
conservation ledger (14 R398, R399). -/

namespace Sys2Proof.Machine

/-! ### Retirement -/

/-- Physical row and column of a logical core. -/
def State.physOf (s : State) (k : Nat) : Nat × Nat :=
  let t := s.tile (keyTile k)
  (physIdx t.rows (keyRow k), physIdx t.cols (keyCol k))

/-- A third row and a third column: the tile is to retire, once its delta has been written (02 R61, 14 R397). -/
def State.retireTile (s : State) (t cause : Nat) : State :=
  if s.itg.deltas.any fun d => d.kind == 3 && d.unit == t then s else s.queueDelta (s.mkDelta 3 t 0 0 cause)

/-- The tile retires and the plan owning it ends (02 R61). -/
def State.tileRetires (s : State) (t : Nat) : State :=
  (s.modTile t fun x => { x with retired := true }).fault
    { code := 0x0211, plan := s.tileClaim t, unitk := 1, unit := t, d0 := (s.tile t).fault.word }

/-- The device retires a single faulty core: its row if the tile has a row retirement left, otherwise its column, otherwise
the tile (02 R60, R61). The retirement stays pending (02 R63). -/
def State.retireCore (s : State) (t row col cause : Nat) : State :=
  let x := s.tile t
  let rows := x.rows ++ x.pendRows
  let cols := x.cols ++ x.pendCols
  if x.retired || rows.contains row || cols.contains col then s
  else if rows.length < 2 then
    (s.modTile t fun x => { x with pendRows := x.pendRows ++ [row] }).queueDelta (s.mkDelta 1 t 0 row cause)
  else if cols.length < 2 then
    (s.modTile t fun x => { x with pendCols := x.pendCols ++ [col] }).queueDelta (s.mkDelta 2 t 0 col cause)
  else s.retireTile t cause

/-- Logical index of physical index `i`, which is not retired (02 R59). -/
def logIdx (retired : List Nat) (i : Nat) : Nat := i - (retired.filter fun r => decide (r < i)).length

/-- Logical number, once tile `t` is steered by the lists of `y`, of the core that is core `k` under those of `x`: none for a core that
retires. -/
def newKey (t : Nat) (x y : Tile) (k : Nat) : Option Nat :=
  if keyTile k ≠ t then some k
  else
    let r := physIdx x.rows (keyRow k)
    let c := physIdx x.cols (keyCol k)
    if y.rows.contains r || y.cols.contains c then none else some (5184 * t + 72 * logIdx y.rows r + logIdx y.cols c)

/-- What is kept by core number, under the new numbers. -/
def reKey {α : Type} [DecidableEq α] (d : α) (f : Nat → Option Nat) (m : Sparse α) : Sparse α :=
  m.foldl (fun a e => match f e.1 with
    | some k => Sparse.set d a k e.2
    | none => a) []

/-- The contents of pockets, accumulators and patrol scratches stay in their physical cores (02 R63), and so does what patrol knows of
them (14 R391). -/
def State.moveCores (s : State) (f : Nat → Option Nat) : State :=
  { s with
    cores := reKey Core.reset f s.cores
    itg := { s.itg with
      scratch := reKey [] f s.itg.scratch
      lastPass := reKey 0#48 f s.itg.lastPass
      retest := s.itg.retest.filterMap fun m => (f m.core).map fun k => { m with core := k }
      transients := s.itg.transients.filterMap fun e => (f e.1).map fun k => (k, e.2)
      twinRetest := s.itg.twinRetest.filterMap f } }

/-- The tile with its pending retirements applied whose deltas have been written (14 R397). -/
def State.steered (s : State) (t : Nat) : Tile :=
  let x := s.tile t
  let rs := x.pendRows.filter fun r => s.deltaDone 1 t r
  let cs := x.pendCols.filter fun c => s.deltaDone 2 t c
  { x with rows := sortBy id (x.rows ++ rs), cols := sortBy id (x.cols ++ cs),
           pendRows := x.pendRows.filter fun r => !rs.contains r, pendCols := x.pendCols.filter fun c => !cs.contains c }

/-- Apply a tile's pending retirements: the placement changes, the contents do not move (02 R63; 14 R396). -/
def State.applySteer (s : State) (t : Nat) : State :=
  let x := s.tile t
  let y := s.steered t
  let s := if x.rows = y.rows ∧ x.cols = y.cols then s else s.moveCores (newKey t x y)
  s.setTile t y

def State.applySteerOf (s : State) (q : Plan) : State :=
  (List.range 16).foldl (fun s t => if q.hasTile t then s.applySteer t else s) s

/-! ### Redundancy -/

/-- A core as DETAIL0 and DETAIL1 of TWIN_MISMATCH give it: tile [55:48], row [15:8], column [7:0]. -/
def coreWord (k : Nat) : W64 := word64 [(keyTile k, 48), (keyRow k, 8), (keyCol k, 0)]

/-- Write one held word. -/
def State.writeHeld (s : State) (w : HeldWord) (poison : Bool) : State :=
  let s := s.putStore w.addr w.data poison
  if w.line then s.poisonLine (w.addr / 256 * 256) else s

/-- The first word that differs: written poisoned, and the plan stops and is withdrawn without fault (14 R394). -/
def State.twinMismatch (s : State) (p k k2 : Nat) (w : HeldWord) : State :=
  let s := s.writeHeld w true
  let s := s.raise { code := 0x0803, plan := some p, unitk := 2, unit := keyTile k, d0 := coreWord k, d1 := coreWord k2 }
  let s := { s with itg := { s.itg with twin := satInc s.itg.twin, twinRetest := s.itg.twinRetest ++ [k, k2] } }
  let s := s.stopPlan p
  if s.frm.leader = s.dom.rank then s.announceWithdraw p else s.notify (.twin s.dom.rank p)

/-- Compare the held words with the twin's copy, in order. -/
def State.compareWords (s : State) (p k k2 : Nat) : List HeldWord → List HeldWord → State
  | w :: ws, c :: cs =>
    if w = c then ((s.writeHeld w w.poison).modCore k fun x => { x with twin := ws }).compareWords p k k2 ws cs
    else s.twinMismatch p k k2 w
  | _, _ => s

/-- TWIN_COMPARE (14 R393, R394). -/
def twinCompare (k : Nat) (copy : List HeldWord) (s : State) : State :=
  let c := s.core k
  match (s.twinPairs c.plan).find? fun t => t.primary == k with
  | some t => if s.runs && c.active && (s.plan c.plan).executes then s.compareWords c.plan k t.twin c.twin copy else s
  | none => s

def execTwinCompare (k : CoreId) (copy : List HeldWord) (s : State) : R := .next (twinCompare (coreKey k) copy s)

/-! ### Patrol -/

/-- CRC-64, ECMA-182: initial value 0, not reflected, no final exclusive-or (14 R389). -/
def crc64Bit (c : W64) : W64 := if c.msb then (c <<< 1) ^^^ 0x42F0E1EBA9EA3693#64 else c <<< 1
def crc64Byte (c : W64) (b : Byte) : W64 :=
  crc64Bit (crc64Bit (crc64Bit (crc64Bit (crc64Bit (crc64Bit (crc64Bit (crc64Bit (c ^^^ (b.setWidth 64 <<< 56)))))))))
def crc64 (bs : List Byte) : W64 := bs.foldl crc64Byte 0

/-- Patrol phase, µs: the lull less its five fixed phases (01 Table 1.1). -/
def patrolLen (period lull : Nat) : Nat := lull - (1 + 2 + 1 + 2 + guardLen period)

/-- Cycles of a patrol phase (14 R390). -/
def patrolCycles (period lull : Nat) : Nat := 1900 * patrolLen period lull

/-- A slice's cycle count, 0 standing for one cycle (14 Table 14.12). -/
def Slice.cyc (x : Slice) : Nat := max 1 x.cycles

/-- Slices of a pack that the patrol phase cannot hold are flagged once, when it becomes active (14 R390). -/
def State.flagSlices (s : State) (period lull : Nat) (l : List Slice) : State :=
  (l.filter fun x => decide (patrolCycles period lull < x.cyc)).foldl (fun s _ => s.fault { code := 0x0806 }) s

/-- The patrol memories take the active slices (14 R389, R395; R424). -/
def State.loadPatrol (s : State) : State :=
  (List.range 16).foldl (fun s t => if (s.tile t).retired then s else s.modTile t fun x => { x with patrol := s.itg.active }) s

/-- Slices run from the cursor on while the rest of the phase holds the next one (14 R390). A slice too long for the phase is
never run; `fuel` bounds the slices looked at. -/
def sliceRun (slices : List Slice) (budget : Nat) : Nat → Nat → Nat → Bool → List Nat
  | 0, _, _, _ => []
  | fuel + 1, i, left, first =>
    let i := i % slices.length
    match slices[i]? with
    | none => []
    | some x =>
      if budget < x.cyc then sliceRun slices budget fuel (i + 1) left first
      else if x.cyc ≤ left ∨ first then i :: sliceRun slices budget fuel (i + 1) (left - x.cyc) false
      else []

/-- Groups of the lull of frame `f` at rate `r` (14 R388). -/
def patrolGroups (r f : Nat) : List Nat := (List.range r).map fun j => (r * f + j) % 256

/-- The core is patrolled: not of a retired tile and with no retirement pending (14 R388). -/
def State.patrols (s : State) (k : Nat) : Bool :=
  let t := s.tile (keyTile k)
  let x := s.physOf k
  !t.retired && !t.pendRows.contains x.1 && !t.pendCols.contains x.2

/-- The outputs show core `k` failing slice `x`. -/
def patrolFails (outs : List PatrolOut) (k : Nat) (x : Slice) : Bool :=
  outs.any fun o => coreKey o.core == k && o.slice == x && crc64 o.output != x.crc

/-- Core `k` runs a slice, whose inputs and output its patrol scratch then holds (14 R389; log 15). -/
def State.runSlice (s : State) (outs : List PatrolOut) (k : Nat) (x : Slice) : State :=
  let out := ((outs.find? fun o => coreKey o.core == k && o.slice == x).map (·.output)).getD []
  { s with itg := { s.itg with scratch := Sparse.set [] s.itg.scratch k ((x.data ++ out).take 4096), slicesRun := satInc s.itg.slicesRun } }

/-- The earlier of two frames. -/
def earlier (a : Option W48) (b : W48) : W48 :=
  match a with
  | some f => if f.toNat ≤ b.toNat then f else b
  | none => b

/-- A persistent failure (14 R391, R392). -/
def State.patrolFail (s : State) (k : Nat) : State :=
  let last := Sparse.get 0#48 s.itg.lastPass k
  let x := s.physOf k
  let t := keyTile k
  let owner := s.tileOwner t
  let s := s.fault { code := 0x0802, plan := owner, unitk := 2, unit := t, d0 := last.setWidth 64,
                     d1 := BitVec.ofNat 64 (256 * x.1 + x.2) }
  let s := { s with itg := { s.itg with pfail := satInc s.itg.pfail } }
  let s := s.retireCore t x.1 x.2 0x0802
  match owner with
  | some p =>
    if ((s.img? p).map Plan.resp).getD 0 = 1 then
      s.modPlan p fun y => { y with ckpt := { y.ckpt with rewind := some (earlier y.ckpt.rewind last) } }
    else s
  | none => s

/-- A retest that passes: a passing patrol of the core, but the third transient of one core within 65,536 frames, which is a persistent
failure (14 R391). -/
def State.patrolTransient (s : State) (k : Nat) : State :=
  let f := s.frm.frame.toNat
  let s := s.fault { code := 0x0801, plan := s.tileOwner (keyTile k), unitk := 2, unit := keyTile k }
  let h := (k, f) :: s.itg.transients.filter fun e => decide (f < e.2 + 65536)
  let third := decide (3 ≤ (h.filter fun e => e.1 == k).length)
  let s := { s with itg := { s.itg with ptrans := satInc s.itg.ptrans, transients := h,
                                        lastPass := if third then s.itg.lastPass else Sparse.set 0#48 s.itg.lastPass k s.frm.frame } }
  if third then s.patrolFail k else s

/-- Cores of the twin mismatch, with every active slice (14 R394): a failing one is retired. -/
def State.patrolTwins (s : State) (slices : List Slice) (outs : List PatrolOut) : State :=
  let ks := s.itg.twinRetest.eraseDups.filter s.patrols
  let s := { s with itg := { s.itg with twinRetest := [] } }
  ks.foldl (fun s k =>
    let s := slices.foldl (fun s x => s.runSlice outs k x) s
    if slices.any fun x => patrolFails outs k x then
      let x := s.physOf k
      s.retireCore (keyTile k) x.1 x.2 0x0803
    else s) s

/-- Retests marked in the lull before, with the slice that failed. -/
def State.patrolRetests (s : State) (outs : List PatrolOut) : State :=
  let ms := s.itg.retest.filter fun m => s.patrols m.core
  let s := { s with itg := { s.itg with retest := [] } }
  ms.foldl (fun s m =>
    let s := s.runSlice outs m.core m.slice
    if patrolFails outs m.core m.slice then s.patrolFail m.core else s.patrolTransient m.core) s

/-- The rotation: the frame's groups run the slices from the cursor on; a first failure marks its core (14 R388 to R391). -/
def State.patrolRotation (s : State) (slices : List Slice) (outs : List PatrolOut) : State :=
  let f := s.frm.frame.toNat
  let groups := patrolGroups s.itg.rate f
  let budget := patrolCycles s.frm.period s.frm.lull
  let run := if slices.isEmpty then []
    else sliceRun slices budget (budget + slices.length) (f / 256 % slices.length) budget true
  let s := { s with itg := { s.itg with group := groups.headD 0 } }
  if run.isEmpty then s
  else
    let cores := (groups.flatMap fun g => (List.range 324).map fun n => g + 256 * n).filter s.patrols
    cores.foldl (fun s k =>
      let xs := run.filterMap fun i => (s.tile (keyTile k)).patrol[i]?
      let s := xs.foldl (fun s x => s.runSlice outs k x) s
      match xs.find? fun x => patrolFails outs k x with
      | some x =>
        if s.itg.retest.any fun m => m.core == k then s
        else { s with itg := { s.itg with retest := s.itg.retest ++ [{ core := k, slice := x }] } }
      | none => { s with itg := { s.itg with lastPass := Sparse.set 0#48 s.itg.lastPass k s.frm.frame } }) s

def State.setPhase (s : State) (ph : Phase) : State := s.modFrm fun f => { f with phase := ph }

/-- PATROL_PHASE: twins of a mismatch first, then retests, then the rotation. -/
def patrolPhase (outs : List PatrolOut) (s : State) : State :=
  let slices := s.itg.active
  let retested := s.itg.retest
  let s := ((s.setPhase .patrol).patrolTwins slices outs).patrolRetests outs
  let s := s.patrolRotation slices (outs.filter fun o => !retested.any fun m => m.core == coreKey o.core && m.slice == o.slice)
  s

def execPatrolPhase (outs : List PatrolOut) (s : State) : R :=
  .next (if s.runs && s.frm.phase == .vote then patrolPhase outs s else s)

/-! ### The ledger -/

/-- Capture the counts at the start of the close phase (14 R398). -/
def State.captureCounts (s : State) : State :=
  let port (p : Nat) : List Acct × Nat :=
    let x := s.port p
    (classes.map x.acct, (x.gust.filter fun f => (x.acct f.cls).isOpen && decide (f.cls < 5)).length)
  let plan (p : Nat) : List (List Nat) × Bool :=
    let x := s.plan p
    (x.segs.map fun g => [g.assigned, g.declined, g.dispatched, g.returned, g.layer],
     (x.image.map fun q => x.pos == (q.stepTable x.variant).stepLen).getD false)
  let lane (l : Nat) : List Nat :=
    let x := s.lane l
    [x.recv.toNat, x.placed.toNat, x.odd.toNat, x.corr.toNat, x.drop.toNat, x.held, x.posn.toNat, x.zfill.toNat]
  let c : Capture :=
    { ports := (List.range 6).map port
      movers := (s.frm.slots.filter fun r => r.entry.kind == .mover).map fun r => (r.entry.plan, r.seqr, r.issued, r.completed)
      tokens := (List.range 4).map fun p => ((s.plan p).issued, (s.plan p).applied)
      experts := (List.range 4).map plan
      lanes := (List.range 16).map lane }
  s.modFrm fun f => { f with capture := some c }

/-- A fault of class contained or higher of plan `c` is outstanding (14 R399). -/
def State.outstanding (s : State) (c : Nat) : Bool :=
  s.frm.faultsOut.any (fun v => v.plan == c) || (s.plan c).terminating.isSome || (s.plan c).stopped

/-- The class is audited. -/
def State.audits (s : State) (c : Nat) : Bool := c == 4 || !s.outstanding c

/-- Equations 1 to 3 of one port: failing equation and class. -/
def Capture.creditFail (s : State) (x : List Acct × Nat) : List (Nat × Nat) :=
  let cs := classes.filter fun c => s.audits c && (x.1.getD c Acct.reset).isOpen
  let a (c : Nat) : Acct := x.1.getD c Acct.reset
  (cs.filter fun c => (a c).grant + (a c).retIn != (a c).held + (a c).sent).map (fun c => (1, c)) ++
  (cs.filter fun c => (a c).accepted != (a c).queued + (a c).freed || (a c).freed != (a c).retOut + (a c).unret).map
    (fun c => (2, c)) ++
  (if (classes.all fun c => s.audits c) && ((classes.map fun c => (a c).queued).foldl (· + ·) 0 != x.2) then [(3, 0)] else []) ++
  (cs.filter fun c => decide ((a c).share < (a c).queued)).map fun c => (3, c)

/-- Every failing equation of the captured counts but 4, with its unit: port × 16 + class, tile, or lane (14 Table 14.5,
Table 14.9). The unit of a plan's token or reduction failure is the lowest tile of its region (log 32). -/
def State.ledgerFails (s : State) (x : Capture) : List (Nat × Nat) :=
  let tileOf (p : Nat) : Nat := ((s.img? p).bind fun q => (List.range 16).find? q.hasTile).getD 0
  let plans := (List.range 4).filter fun p => s.audits p && (s.plan p).inPlans
  (x.ports.zipIdx.flatMap fun e => (Capture.creditFail s e.1).map fun f => (f.1, 16 * e.2 + f.2)) ++
  ((x.movers.filter fun m => s.audits m.1 && m.2.2.1 != m.2.2.2).map fun m => (5, m.2.1)) ++
  ((plans.filter fun p => (x.tokens.getD p (0, 0)).1 != (x.tokens.getD p (0, 0)).2).map fun p => (5, tileOf p)) ++
  ((plans.filter fun p => ((s.img? p).bind fun q => (s.variantOf p).map fun v => q.reds.any fun r =>
      let l := (s.plan p).layer (redLayer r)
      l.auditDue && l.sealLines != q.sealExpected v (redLayer r) s.dom.rank).getD false).map fun p => (6, tileOf p)) ++
  ((plans.filter fun p =>
      let e := x.experts.getD p ([], false)
      (e.1.map fun g => g.getD 4 0).eraseDups.any fun l =>
        let sum (k : Nat) : Nat := ((e.1.filter fun g => g.getD 4 0 == l).map fun g => g.getD k 0).foldl (· + ·) 0
        sum 2 != sum 3 || (e.2 && 2 * sum 0 != 2 * sum 1 + sum 2)).map fun p => (7, tileOf p)) ++
  ((x.lanes.zipIdx.filter fun e => s.audits (s.lane e.2).plan &&
      (e.1.getD 0 0 != e.1.getD 1 0 + e.1.getD 2 0 + e.1.getD 3 0 + e.1.getD 4 0 + e.1.getD 5 0 ||
        e.1.getD 6 0 != e.1.getD 1 0 + e.1.getD 7 0)).map fun e => (8, e.2))

/-- The failure of lowest equation number, in unit order. -/
def firstFail (l : List (Nat × Nat)) : Option (Nat × Nat) := (sortBy (fun e => e.1) l).head?

/-- LEDGER_VIOLATION: ITG_LEDGER keeps the first equation failed, its unit and frame (14 R399, Table 14.9). -/
def State.ledgerViolation (s : State) (e : Nat × Nat) : State :=
  let s := if s.itg.ledEqn ≠ 0 then s
    else { s with itg := { s.itg with ledEqn := e.1, ledUnit := e.2 % 256, ledFrame := s.frm.frame } }
  s.raise { code := 0x0804, d0 := word64 [(e.1, 56), (e.2 % 256, 48), (s.frm.frame.toNat, 0)] }

/-- AUDIT_PHASE (14 R398). A failure goes into the vote of this lull with cause LEDGER. -/
def auditPhase (s : State) : State :=
  let s := s.setPhase .audit
  match s.frm.capture with
  | none => s
  | some x =>
    let fails := s.ledgerFails x
    let s := (List.range 4).foldl (fun s p =>
      match s.img? p with
      | some q => q.reds.foldl (fun s r => s.modLayer p (redLayer r) fun l => { l with auditDue := false }) s
      | none => s) s
    match firstFail fails with
    | some e => (s.ledgerViolation e).halting 6
    | none => s

def execAuditPhase (s : State) : R := .next (if s.runs && s.frm.phase == .close then auditPhase s else s)

end Sys2Proof.Machine
end

