-- ==== Sys2Proof/Machine/Checkpoint.lean ====
section
/-! DEFINITION. Checkpoints and restores (15 R427 to R432; 10 R282 to R284; 14 R392). The front of a
part is held in field form too, since the layout of its bytes is not stated (log 35). -/

namespace Sys2Proof.Machine

/-! ### Acceptance of a plan's writes (05 R150) -/

/-- Some frame of the plan has still to leave, or to be accepted at the other end of its first link, which gives its credit back (10
R268). -/
def State.inFlight (s : State) (p : Nat) : Bool :=
  (List.range 7).any fun k =>
    let x := s.port k
    x.outq.any (fun f => f.cls == p) || (decide (k = 6) && x.gust.any fun f => f.cls == p) ||
      ((x.acct p).isOpen && (x.acct p).sent != (x.acct p).retIn) ||
      x.replay.any fun e => match e.2 with
        | .data f => f.cls == p
        | _ => false

/-- The rank at the far end of the route's first link: a credit that comes back from there is its own acceptance. -/
def State.adjacent (s : State) (p r : Nat) : Bool :=
  r == s.dom.rank || ((s.routeOf p r).map fun k => (s.port k).peerRank == r).getD true

/-- The plan's writes have been accepted at their destinations (11 R310, 05 R150). A rank further off gives this one no sign of
it: a free value (log 49). -/
def State.acceptedAll (s : State) (p : Nat) (ranks : List Nat) : State × Bool :=
  if s.inFlight p then (s, false)
  else if ranks.all (s.adjacent p) then (s, true)
  else
    let d := s.draw
    (d.1, d.2.getLsbD 0)

/-! ### The checkpoint record (15 Table 15.10) -/

def ckFrames (r : Rec) : Nat := rf r 0 32 16
def ckInt (r : Rec) : Nat := rf r 0 16 16
def ckStream (r : Rec) : Nat := rf r 0 0 16
def ckRframes (r : Rec) : Nat := rf r 1 16 16
def ckRstream (r : Rec) : Nat := rf r 3 48 16

/-! ### What a checkpoint copies -/

/-- Device addresses of the bytes of element `i` of a persistent descriptor, its scale code included. -/
def Plan.elemBytes (q : Plan) (d : Desc) (i : Nat) : List Nat :=
  let idx := splitIdx d.sizes i
  (d.needs idx ++ (if d.scaled then [d.scaleOff idx] else [])).map (d.resolve q)

/-- First parameter and number of parameters of this rank's part of a persistent entry under a variant (15 R427, 08 R210). -/
def Plan.partOf (q : Plan) (v : Variant) (rank layer total : Nat) : Nat × Nat :=
  if layer = 0xFFFF then (0, total)
  else if q.isExp layer then (0, if rank = q.host (q.variantNum v) layer then total else 0)
  else
    match v.rankList.findIdx? fun x => x == rank with
    | none => (0, 0)
    | some k =>
      let u := unitRange (q.nunits layer) v.rankList.length k
      (u.1 * unitParams, min (u.2 * unitParams) (q.pcount layer) - u.1 * unitParams)

/-- Descriptor and layer of a persistent entry. -/
def persistDesc (q : Plan) (e : W64) : Desc := q.descs.getD (bfld e 48 16) 0
def persistLayer (e : W64) : Nat := bfld e 32 16

/-- Device addresses of the bytes that a rank holds of a persistent entry, in element order. -/
def Plan.entryAddrs (q : Plan) (v : Variant) (rank : Nat) (e : W64) : List Nat :=
  let d := persistDesc q e
  ((List.range (q.partOf v rank (persistLayer e) (prod d.sizes)).2).flatMap (q.elemBytes d)).eraseDups

/-- Addresses of the exponent table of a reduction record (15 R427). -/
def Plan.exptAddrs (q : Plan) (r : Rec) : List Nat := (List.range (q.blocks (redLayer r))).map (rf r 4 0 48 + ·)

/-- What a rank's part holds after the state block: the persistent entries in list order, and behind them the exponent tables (15 R427,
R430; log 35). -/
def Plan.partEntries (q : Plan) (v : Variant) (rank : Nat) : List (List Nat) := q.persist.map (q.entryAddrs v rank) ++ q.reds.map q.exptAddrs

/-- A stored byte with its poison, as the next read would give it; no state changes. -/
def State.peekByte (s : State) (a : Nat) : Byte × Bool :=
  match s.place a with
  | .store t off => (Sparse.get 0#8 s.store (tileAddr t off), Sparse.get false s.storePoison (tileAddr t off / 32))
  | .site i off =>
    let z := s.site i
    let l := z.line (off / 256)
    let b := off % 256
    let bad := z.state == .failed || decide (2 ≤ l.cls)
    match z.entry? (off / 256) with
    | some e => if e.valid.getLsbD b then (e.data.extractLsb' (8 * b) 8, bad || e.marks != 0) else (l.data.extractLsb' (8 * b) 8, bad)
    | none => (l.data.extractLsb' (8 * b) 8, bad)
  | _ => (0, false)

def State.peekBytes (s : State) (as : List Nat) : List Byte := as.map fun a => (s.peekByte a).1

/-- A byte to write: what is read at the one address, for the other. -/
def State.copyTo (s : State) (e : Nat × Nat) : ByteOut :=
  let b := s.peekByte e.1
  { addr := e.2, mask := 255, byte := b.1.toNat, poison := b.2 }

/-! ### The bytes of a part (15 R430) -/

def tagNKCK : List Byte := [0x4E, 0x4B, 0x43, 0x4B]

/-- Digest of an entry over its 32-bit words, formed as 11 R307 forms one: the words as signed integers, and the lines of 256 B (log
35). -/
def entryDigest (bs : List Byte) : Nat :=
  let sum := (chunks 4 bs.length bs).foldl (fun a w => a + sext (leNat w) 32) 0
  ((sum + 2 ^ 40 * (ceilDiv bs.length 256 : Int)) % (mersenne61 : Int)).toNat

/-- The header of 4 KB and the state block, behind which the first entry starts on 256 B. -/
def CkptFile.front (f : CkptFile) : List Byte :=
  (padTo 4096 (tagNKCK ++ Config.ckptHeader f)).take 4096 ++ padTo 256 (Config.stateBlock f.gen)

/-- A part: its front and its entries. -/
def CkptFile.bytes (f : CkptFile) (es : List (List Byte)) : List Byte := f.front ++ es.flatMap (padTo 256)

/-- Offset of entry `i` among entries of these lengths. -/
def CkptFile.entryAt (f : CkptFile) (ns : List Nat) (i : Nat) : Nat :=
  f.front.length + ((ns.take i).map (roundUp · 256)).foldl (· + ·) 0

/-- Last step that the plan has completed: a boundary follows it, or the next one is under way. -/
def PlanSt.lastDone (x : PlanSt) (q : Plan) : W48 :=
  if x.pos ≠ 0 ∧ (q.stepTable x.variant).stepLen ≤ x.pos then x.step else x.step - 1

/-- The state block (15 R430). -/
def State.newGen (s : State) (p : Nat) (q : Plan) (v : Variant) : Gen :=
  let x := s.plan p
  { complete := false, step := x.lastDone q, frame := s.frm.frame, variant := x.variant,
    lambda := x.layers.foldl (fun m e => Sparse.set 0 m e.1 e.2.lambda) [],
    skiprun := x.layers.foldl (fun m e => Sparse.set 0 m e.1 e.2.skiprun) [],
    lrtab := x.lrtab,
    lanes := (s.lanesOfPlan p).map fun l => (l, (s.lane l).next, (s.lane l).resv.map (·.seq)),
    digests := (q.partEntries v s.dom.rank).map fun as => entryDigest (s.peekBytes as) }

/-- What a rank that the variant leaves out keeps of a checkpoint: the plan's state, no bytes. -/
def State.emptyGen (s : State) (p : Nat) (q : Plan) (v : Variant) : Gen := { s.newGen p q v with digests := [] }

/-- Area that a checkpoint goes into: the one that does not hold the newest complete generation (15 R428). -/
def Ckpt.area (c : Ckpt) : Nat := if c.newest = 1 then 1 else 0

def Gen.reset : Gen :=
  { complete := false, step := 0, frame := 0, variant := 0, lambda := [], skiprun := [], lrtab := [], lanes := [],
    digests := [] }

def Ckpt.putGen (c : Ckpt) (k : Nat) (g : Gen) : Ckpt :=
  { c with gens := (List.range 2).map fun i => if i = k then g else c.gens.getD i Gen.reset }

/-- The front of the own part of a checkpoint in area `k` (15 R430). -/
def State.ckptFile (s : State) (p : Nat) (q : Plan) (k : Nat) (g : Gen) : CkptFile :=
  { plan := p, area := k, rank := s.dom.rank, nranks := ((q.variants[g.variant]?).map fun v => v.rankList.length).getD 0, pfp := q.pfp, gen := g }

/-- The outflow form of a generation, which is its own part, to each stream (15 R428, R430; 13 R366). -/
def State.ckptOut (s : State) (p : Nat) (step : W48) (part : List Byte) (streams : List Nat) : State :=
  (streams.filter fun n => n != 0xFFFF).eraseDups.foldl (fun s n => s.outflow n 3 p step part) s

/-- Bytes of each part of a generation area: GENSIZE / 2 GB (15 R430). -/
def ckPart (r : Rec) : Nat := 2 ^ 29 * rf r 2 48 16
/-- Device address of generation area `k`. -/
def ckArea (r : Rec) (k : Nat) : Nat := rf r (2 + k) 0 48

/-- The mirror rank: the next one, in ascending order with wrap, that the variant names (15 R428). -/
def Variant.mirror (v : Variant) (r : Nat) : Nat :=
  ((v.rankList.find? fun x => decide (r < x)).or v.rankList.head?).getD r

/-- A line of a copy for another rank, with what it brings for it. WRITE frames carry whole lines: the bytes that it does not bring are
this rank's own (log 35). -/
def State.conveyLine (s : State) (v : Variant) (p dest n : Nat) (bs : List ByteOut) : State :=
  let byteAt (i : Nat) : Byte × Bool := match bs.find? fun b => b.addr == 256 * n + i with
    | some b => (BitVec.ofNat 8 b.byte, b.poison)
    | none => ((s.peekByte (256 * n + i)).1, false)
  let l := (List.range 256).map byteAt
  let marks := ((List.range 8).filter fun w => (l.drop (32 * w)).take 32 |>.any (·.2)).foldl (fun a w => a + 2 ^ w) 0
  s.convey v { cls := p, dest := dest, op := 0, poison := BitVec.ofNat 8 marks, line := BitVec.ofNat 40 n, body := lineOf (l.map (·.1)) }

/-- Bytes of a copy or a restore go to their device addresses on rank `dest`, by general mover commands here and as WRITE frames there. -/
def State.bring (s : State) (v : Variant) (p dest : Nat) (bs : List ByteOut) : State :=
  if dest = s.dom.rank then s.putBytes none p bs
  else (outLines bs).foldl (fun s n => s.conveyLine v p dest n (bs.filter fun b => b.addr / 256 == n)) s

/-- A run of bytes from device address `a` on. -/
def bytesAt (a : Nat) (bs : List Byte) : List ByteOut := bs.zipIdx.map fun e => { addr := a + e.2, mask := 255, byte := e.1.toNat, poison := false }

/-- The own part goes into area `k` here and into the mirror part of the mirror rank's area (15 R428, R430). An address of the area that no
site or store holds is the fault of the mover command that writes there (01 R29, 02 R57). -/
def State.layPart (s : State) (v : Variant) (p k : Nat) (r : Rec) (part : List Byte) : State :=
  let part := part.take (ckPart r)
  match (List.range part.length).findSome? fun i => (s.accessFault p (ckArea r k + i)).map fun c => (c, ckArea r k + i) with
  | some (c, a) => s.accessRaise p c a 7 0
  | none =>
    (s.bring v p s.dom.rank (bytesAt (ckArea r k) part)).bring v p (v.mirror s.dom.rank) (bytesAt (ckArea r k + ckPart r) part)

/-- CHECKPOINT_START: at a step boundary the copy begins (15 R428). Poison in a copied byte is a checkpoint sink (R429). -/
def State.startCkpt (s : State) (p : Nat) : State :=
  let x := s.plan p
  let s := s.modPlan p fun x => { x with ckpt := { x.ckpt with wanted := false, streams := [] } }
  match x.image, s.variantOf p with
  | some q, some v =>
    match q.ckpt with
    | none => s
    | some r =>
      if !v.has s.dom.rank then
        s.modPlan p fun x =>
          { x with ckpt := { x.ckpt.putGen x.ckpt.area (s.emptyGen p q v) with
                             run := some (x.ckpt.area, s.frm.frame), sealed := false, late := false } }
      else
        match (q.partEntries v s.dom.rank).flatten.find? fun a => (s.peekByte a).2 with
        | some a => s.sinkFault p a
        | none =>
          let k := x.ckpt.area
          let g := s.newGen p q v
          let part := (s.ckptFile p q k g).bytes ((q.partEntries v s.dom.rank).map s.peekBytes)
          let s := s.modPlan p fun x =>
            { x with ckpt := { x.ckpt.putGen k g with run := some (k, s.frm.frame), sealed := false, late := false } }
          (s.layPart v p k r part).ckptOut p g.step part (ckStream r :: x.ckpt.streams)
  | _, _ => s

/-- Does this rank's part seal by this vote? Its lines must have been accepted here and at the mirror rank; the frame in which the copy
has run is not fixed (R428): a free value (log 35). -/
def State.sealPart (s : State) (p : Nat) : State :=
  let c := (s.plan p).ckpt
  if c.run.isNone || c.sealed then s
  else
    let a := s.acceptedAll p (((s.variantOf p).map fun v => [v.mirror s.dom.rank]).getD [])
    let d := a.1.draw
    if a.2 && d.2.getLsbD 0 then d.1.modPlan p fun x => { x with ckpt := { x.ckpt with sealed := true } } else d.1

/-- A checkpoint of a running plan on entering the doldrums with cause PARTNER (01 R45), whatever frame of its step or of its init table
it is in. A plan whose earlier checkpoint is still being copied takes this one when that is complete, and one that switches variant takes
that of its switch (log 71). -/
def State.partnerCkpt (s : State) (p : Nat) : State :=
  let x := s.plan p
  if x.inPlans && x.switchTo.isNone then
    if x.ckpt.run.isSome then s.modPlan p fun x => { x with ckpt := { x.ckpt with again := true } } else s.startCkpt p
  else s

/-- A checkpoint in progress is abandoned (R428). -/
def State.dropCkpt (s : State) (p : Nat) : State :=
  s.modPlan p fun x => { x with ckpt := { x.ckpt with run := none, again := false, sealed := false, wanted := false, streams := [] } }

/-- Every rank of the variant has voted its part sealed: the generation is complete (R428). -/
def State.sealedAll (s : State) (p : Nat) : State :=
  match (s.plan p).ckpt.run with
  | some (k, _) => s.modPlan p fun x =>
      { x with ckpt := x.ckpt.putGen k { x.ckpt.gens.getD k Gen.reset with complete := true } }
  | none => s

/-- From the tick after that vote it is the newest complete one. A further one that the doldrums have asked for begins, or waits for the next
step boundary where they are over (log 71). -/
def State.finishCkpt (s : State) (p : Nat) : State :=
  let c := (s.plan p).ckpt
  match c.run with
  | some (k, _) =>
    if (c.gens.getD k Gen.reset).complete then
      let held := s.frm.state == .doldrums
      let s := s.modPlan p fun x =>
        { x with ckpt := { x.ckpt with newest := k + 1, run := none, again := false, sealed := false,
                                       wanted := x.ckpt.wanted || (c.again && !held) } }
      if c.again && held then s.startCkpt p else s
    else s
  | none => s

/-! ### Restores -/

/-- Generation that a restore takes: the newest complete one, or the newest at or before a frame (R431, 14 R392). -/
def Ckpt.restoreFrom (c : Ckpt) (limit : Option W48) : Option (Nat × Gen) :=
  match limit with
  | none => if c.newest = 0 then none else (c.gens[c.newest - 1]?).map fun g => (c.newest - 1, g)
  | some f =>
    let ok := c.gens.zipIdx.filter fun e => e.1.complete && decide (e.1.frame.toNat ≤ f.toNat) && decide (c.newest ≠ 0)
    (ok.foldl (fun (b : Option (Gen × Nat)) e => match b with
      | some z => if z.1.frame.toNat < e.1.frame.toNat then some e else b
      | none => some e) none).map fun e => (e.2, e.1)

/-- Every absent rank of the variant has its mirror present (R428, R431). -/
def State.mirrorsHold (s : State) (v : Variant) : Bool :=
  let rs := v.rankList
  (List.range rs.length).all fun i =>
    s.dom.present.getLsbD (rs.getD i 0) || s.dom.present.getLsbD (v.mirror (rs.getD i 0))

/-- Clear every carried counter of a plan's tiles (03 R103). -/
def State.clearCarried (s : State) (q : Plan) : State :=
  (List.range 16).foldl (fun s t =>
    if q.hasTile t then s.modTile t fun x => { x with tok := Sparse.keep (fun k => decide (k < 3840)) x.tok } else s) s

/-- A part that this rank holds: the rank whose state it is, its device address and its front. -/
structure PartHeld where
  owner : Nat
  base : Nat
  file : CkptFile
deriving DecidableEq, Repr

/-- The front of a part in memory. -/
def State.frontAt (s : State) (r : Rec) (a : Nat) : Option CkptFile :=
  let bs := s.peekBytes ((List.range (ckPart r)).map (a + ·))
  if bs.take 4 == tagNKCK then Config.readFront bs else none

/-- The parts of generation `g` in area `k` that this rank gives: its own, and its mirror part where that rank is absent (15 R431). None:
a part that it should hold cannot be read. -/
def State.partsHeld (s : State) (p : Nat) (q : Plan) (r : Rec) (old : Variant) (k : Nat) (g : Gen) : Option (List PartHeld) :=
  if !old.has s.dom.rank then some []
  else
    let own : PartHeld := { owner := s.dom.rank, base := ckArea r k, file := s.ckptFile p q k g }
    match old.rankList.find? fun o => old.mirror o == s.dom.rank && !s.dom.present.getLsbD o with
    | none => some [own]
    | some o => (s.frontAt r (ckArea r k + ckPart r)).map fun f => [own, { owner := o, base := ckArea r k + ckPart r, file := f }]

/-- Device address of byte `j` of entry `i` of a part. -/
def PartHeld.addr (h : PartHeld) (ns : List Nat) (i j : Nat) : Nat := h.base + h.file.entryAt ns i + j

/-- Each entry's digest is that of its bytes in memory (15 R431). -/
def State.partGood (s : State) (q : Plan) (old : Variant) (h : PartHeld) : Bool :=
  let ns := (q.partEntries old h.owner).map (·.length)
  ns.zipIdx.all fun e => entryDigest (s.peekBytes ((List.range e.1).map (h.addr ns e.2))) == h.file.gen.digests.getD e.2 0

/-- The lowest rank of the old variant that is present gives the replicated entries, and the front, to ranks that the old variant leaves
out (log 37). -/
def State.givesWhole (s : State) (old : Variant) : Bool :=
  (old.rankList.find? fun o => s.dom.present.getLsbD o) == some s.dom.rank

/-- Bytes of a persistent entry that owner `o` held and rank `t` owns under the new variant: place in the old entry, and device address. -/
def Plan.entryMoves (q : Plan) (old new : Variant) (o t : Nat) (e : W64) : List (Nat × Nat) :=
  let d := persistDesc q e
  let src := q.entryAddrs old o e
  let a := q.partOf old o (persistLayer e) (prod d.sizes)
  let b := q.partOf new t (persistLayer e) (prod d.sizes)
  (List.range b.2).flatMap fun i =>
    let g := b.1 + i
    if a.1 ≤ g ∧ g < a.1 + a.2 then
      ((q.elemBytes d (g - a.1)).map fun x => (src.findIdx? fun y => y == x).getD 0).zip (q.elemBytes d i)
    else []

/-- What part `h` gives to rank `t` of the new variant: the shard units that it owns now, the replicated entries of its own part, and all
of that to a rank which the old variant leaves out (15 R431). -/
def State.partMoves (s : State) (q : Plan) (old new : Variant) (h : PartHeld) (t : Nat) : List (Nat × Nat) :=
  let ns := (q.partEntries old h.owner).map (·.length)
  let whole := h.owner == t || (h.owner == s.dom.rank && !old.has t && s.givesWhole old)
  (q.persist.zipIdx.flatMap fun e =>
    if persistLayer e.1 ≠ 0xFFFF ∨ whole then
      (q.entryMoves old new h.owner t e.1).map fun m => (h.addr ns e.2 m.1, m.2)
    else []) ++
  (if whole then q.reds.zipIdx.flatMap fun e => (q.exptAddrs e.1).zipIdx.map fun x => (h.addr ns (q.persist.length + e.2) x.2, x.1) else [])

/-- The bytes of a generation go to the ranks that the new variant names (15 R431). -/
def State.restoreData (s : State) (p : Nat) (q : Plan) (r : Rec) (old new : Variant) (k : Nat) (hs : List PartHeld) : State :=
  new.rankList.foldl (fun s t =>
    let s := hs.foldl (fun s h => s.bring new p t ((s.partMoves q old new h t).map s.copyTo)) s
    match hs.head? with
    | some h =>
      if !old.has t && s.givesWhole old then s.bring new p t (bytesAt (ckArea r k) h.file.front) else s
    | none => s) s

/-- What each lane expects after a restore (12 R350). -/
def State.restoreLanes (s : State) (p : Nat) (g : Gen) : State :=
  let s := s.emptyLanes p
  g.lanes.foldl (fun s e =>
    if (s.lane e.1).plan = p then
      s.modLane e.1 fun x => { x with next := e.2.1, expectResv := e.2.2, stagedAll := 0 }
    else s) s

/-- A new epoch on every stream that a plan owns, at its load and at each restore (13 R362): its lanes' streams, RSTREAM, and its
outflow streams. -/
def State.planEpochs (s : State) (p : Nat) (q : Plan) : State :=
  let recs := (s.lanesOfPlan p).map fun l => (s.lane l).record
  let real (n : Nat) : Bool := n != 0xFFFF
  let ins := ((recs.map laneStream ++ q.ckpt.toList.map ckRstream).filter real).eraseDups
  let outs := ((recs.map laneMstream ++ q.ckpt.toList.map ckStream ++ q.streams).filter real).eraseDups
  outs.foldl State.newOutEpoch (ins.foldl State.newEpoch s)

/-- The plan's own state as a generation holds it. The watch counts of the step that is abandoned are cleared, and the snapshot of the last
completed step stays (log 72). -/
def PlanSt.fromGen (x : PlanSt) (q : Plan) (g : Gen) : PlanSt :=
  { x with
    step := g.step + 1
    pos := 0
    initLeft := 0
    atBoundary := false
    stopped := false
    terminating := none
    grace := q.graceCnt
    lrtab := g.lrtab
    segs := []
    watch := []
    issued := 0
    applied := 0
    layers := q.reds.foldl (fun m r => Sparse.set RedLayer.reset m (redLayer r)
      { RedLayer.reset with lambda := Sparse.get 0 g.lambda (redLayer r), skiprun := Sparse.get 0 g.skiprun (redLayer r) }) [] }

/-- REWIND_NONE: the plan is terminated (R431). A rank that the variant leaves out learns it from the vote. -/
def State.rewindNone (s : State) (p : Nat) : State :=
  match s.variantOf p with
  | some v => if v.has s.dom.rank then s.fault { code := 0x090B, plan := some p } else s
  | none => s.fault { code := 0x090B, plan := some p }

/-- The plan takes up a generation's state and begins its restore frames (15 R431). -/
def State.restoreState (s : State) (p : Nat) (q : Plan) (g : Gen) : State :=
  let s := s.clearCarried q
  let s := s.modPlan p fun x =>
    { x.fromGen q g with
      pstate := .restoring
      ckpt := { x.ckpt with restore := some 0, rewind := none, rewindVoted := none, late := false, noted := true } }
  ((s.restoreLanes p g).planEpochs p q).openAccts

/-- GENERATION_RESTORE (R431): pending steering has been applied in the record phase before (14 R396); the restore frames follow. `note`
designates the generation as the resume point (10 R283, 14 R392). A part that cannot be read, or whose digest disagrees, does not qualify (log 35). -/
def State.beginRestore (s : State) (p : Nat) (limit : Option W48) (note : Bool) : State :=
  let s := s.dropCkpt p
  match s.img? p, s.variantOf p, (s.plan p).ckpt.restoreFrom limit with
  | some q, some new, some (k, g) =>
    let old := (q.variants[g.variant]?).getD new
    match q.ckpt, q.ckpt.bind fun r => s.partsHeld p q r old k g with
    | some r, some hs =>
      if !s.mirrorsHold old || !hs.all (s.partGood q old) then s.rewindNone p
      else
        let s := (s.restoreState p q g).restoreData p q r old new k hs
        if note then s.resumePoint p (k + 1) g limit.isSome else s
    | _, _ => s.rewindNone p
  | _, _, _ => s.rewindNone p

/-- A rank that joins late begins the restore of a re-admitted plan with its partners (10 R284): the state block and its bytes come over the
ports. -/
def State.joinRestore (s : State) (p : Nat) : State :=
  match s.img? p with
  | some q => (s.restoreState p q Gen.reset).modPlan p fun x => { x with ckpt := { x.ckpt with fetch := true } }
  | none => s

/-- The state block is there, in a front that carries its sender's RANK: the plan of a rank that joined late takes it up, and its area holds
that generation. -/
def State.takeFront (s : State) (p : Nat) : State :=
  match s.img? p, (s.img? p).bind (·.ckpt) with
  | some q, some r =>
    if !(s.plan p).ckpt.fetch then s
    else
      let other (f : CkptFile) : Bool := f.rank != s.dom.rank && f.plan == p && f.pfp == q.pfp
      match (List.range 2).findSome? fun k => ((s.frontAt r (ckArea r k)).filter other).map fun f => (k, f.gen) with
      | none => s
      | some (k, g) =>
        let g := { g with complete := true, digests := [] }
        (s.modPlan p fun x => { x.fromGen q g with ckpt := { x.ckpt.putGen k g with newest := k + 1, fetch := false } }).restoreLanes p g
  | _, _ => s

/-! ### Host restore (R432) -/

/-- RESTORE_FORM: the plan is not loaded. -/
def State.restoreForm (s : State) (p : Nat) : State :=
  let s := s.raise { code := 0x090A, plan := some p, cls := some 1 }
  (s.emptyLanes p).modPlan p fun x => { x with pstate := .rejected, vcode := 0x090A, vrank := s.dom.rank }

/-- The checkpoint is laid into generation area 0 here and into the mirror rank's mirror part, and the lanes expect what it says (R350). -/
def State.hostRestore (s : State) (p : Nat) (v : Variant) (r : Rec) (f : CkptFile) (part : List Byte) : State :=
  let g := { f.gen with complete := true }
  let s := (s.modPlan p fun x => { x with ckpt := { x.ckpt.putGen 0 g with newest := 1 } }).openAccts
  (s.layPart v p 0 r part).restoreLanes p g

/-- DATA on a stream that a host restore waits for: the bytes passed on are the checkpoint once they are whole. One of another plan, image or
rank, or whose digests disagree, raises RESTORE_FORM. -/
def State.takeRestore (s : State) (n : Nat) : State :=
  match s.restorePlan n with
  | none => s
  | some p =>
    let bs := (s.inStream n).passed
    match s.img? p, (s.img? p).bind (·.ckpt), Config.readFront bs with
    | some q, some r, some f =>
      match q.variants[f.gen.variant]? with
      | none => (s.setIn { s.inStream n with passed := [] }).restoreForm p
      | some v =>
        if f.pfp ≠ q.pfp ∨ f.rank ≠ s.dom.rank ∨ f.plan ≠ p ∨ bs.take 4 ≠ tagNKCK then (s.setIn { s.inStream n with passed := [] }).restoreForm p
        else
          let ns := (q.partEntries v s.dom.rank).map (·.length)
          let len := f.entryAt ns ns.length
          if bs.length < len then s
          else
            let s := s.setIn { s.inStream n with passed := bs.drop len }
            let good := ns.zipIdx.all fun e => entryDigest ((bs.drop (f.entryAt ns e.2)).take e.1) == f.gen.digests.getD e.2 0
            if good then s.hostRestore p v r f (bs.take len) else s.restoreForm p
    | _, _, _ => s

end Sys2Proof.Machine
end

