-- ==== Sys2Proof/Machine/Directives.lean ====
section
/-! DEFINITION. Directives (13 R369 to R376; 01 R46): receipt, the checks and precedence of the effect tick, and their effects. The
restart itself is in Boot. -/

namespace Sys2Proof.Machine

/-! ### The body (Table 13.5) -/

def dOpc (b : Rec) : Nat := rf b 0 56 8
def dPlans (b : Rec) : Nat := rf b 0 48 4
def dSeq (b : Rec) : Nat := rf b 0 0 32
def dArg (b : Rec) (k : Nat) : Nat := (b.getD (k + 1) 0).toNat
/-- Plans that PLANS names. -/
def dNamed (b : Rec) : List Nat := (List.range 4).filter (dPlans b).testBit

/-- Opcode, class (stop, hold, checkpoint, resume, tuning) and named bits of the arguments of a directive (Table 13.6). -/
structure DirForm where
  opc : Nat
  cls : Nat
  mask : List Nat

def dirForm : DirOp → DirForm
  | .stop => { opc := 0x01, cls := 0, mask := [0, 0, 0] }
  | .restart => { opc := 0x02, cls := 0, mask := [0x3, 0, 0] }
  | .hold => { opc := 0x03, cls := 1, mask := [0x1, 0xFFFF, 0] }
  | .checkpoint => { opc := 0x04, cls := 2, mask := [0xFFFF, 0, 0] }
  | .resume => { opc := 0x05, cls := 3, mask := [0, 0, 0] }
  | .lrEdit => { opc := 0x10, cls := 4, mask := [0xFF, 0xFFFFFFFFFFFF, 0xFFFFFFFF] }
  | .patrol => { opc := 0x11, cls := 4, mask := [0x1F, 0, 0] }
  | .redundancy => { opc := 0x12, cls := 4, mask := [0x1, 0, 0] }
  | .variant => { opc := 0x13, cls := 4, mask := [0xF, 0, 0] }
  | .imageWrite => { opc := 0x14, cls := 4, mask := [0xFFFF0001, 0xFFFFFFFFFFFF, 0] }

def allDirOps : List DirOp :=
  [.stop, .restart, .hold, .checkpoint, .resume, .lrEdit, .patrol, .redundancy, .variant, .imageWrite]
/-- The opcode is one of Table 13.6. -/
def knownDir (o : Nat) : Bool := allDirOps.any fun x => (dirForm x).opc == o

/-! ### Form (Table 13.7 reason 2) -/

/-- Reserved bits of the body are 0. -/
def dirReserved (op : DirOp) (b : Rec) : Bool :=
  rf b 0 52 3 == 0 && rf b 0 32 16 == 0 &&
    ((List.range 3).all fun k => let m := (dirForm op).mask.getD k 0; (dArg b k &&& m) == dArg b k)

/-- Plans that a directive may name: running ones; a VARIANT also names a withdrawn one (log 36). -/
def State.runningFor (s : State) (op : DirOp) (p : Nat) : Bool :=
  (s.plan p).inPlans || (op == .variant && ((s.plan p).pstate == .withdrawn || (s.plan p).pstate == .restoring))
def State.namedPlans (s : State) (op : DirOp) (b : Rec) : List Nat := (dNamed b).filter (s.runningFor op)

/-- Arguments are in range and PLANS names a running plan where one is required. -/
def State.dirArgs (s : State) (op : DirOp) (b : Rec) : Bool :=
  let a0 := dArg b 0
  match op with
  | .stop => true
  | .resume => true
  | .restart => a0 != 3
  | .hold => a0 == 0 || ((dNamed b).length == 1 && !(s.namedPlans op b).isEmpty)
  | .checkpoint => !(s.namedPlans op b).isEmpty
  | .lrEdit => (dNamed b).length == 1 && (s.namedPlans op b).any fun p => decide (a0 < (s.plan p).lrtab.length)
  | .patrol => decide (1 ≤ a0 ∧ a0 ≤ 16)
  | .redundancy => !(s.namedPlans op b).isEmpty
  | .variant => !(s.namedPlans op b).isEmpty && (decide (a0 ≤ 3) || a0 == 0xF)
  | .imageWrite => decide (1 ≤ dArg b 1 ∧ dArg b 1 ≤ slotSize)

def State.wellFormedDir (s : State) (op : DirOp) (b : Rec) : Bool :=
  dOpc b == (dirForm op).opc && dirReserved op b && s.dirArgs op b

/-! ### Receipt (R370) -/

/-- The four words of a body, PORTM as the receiving port is (R369). -/
def dirBody (port : Nat) (ws : Rec) : Rec :=
  let w0 := ws.getD 0 0
  let base := w0 &&& ~~~(1#64 <<< 55)
  [if port = 1 then base ||| (1#64 <<< 55) else base, ws.getD 1 0, ws.getD 2 0, ws.getD 3 0]

/-- DIRACK (13 R370). -/
def State.sendDirack (s : State) (port : Nat) (b : Rec) (result reason : Nat) (arrival : W48) : State :=
  s.portSend port (.dirack port (dSeq b) result reason arrival)
    (dgBytes 0x11 0 s.dom.rank 0 0 (wordsBytes [word64 [(result, 56), (reason, 48), (dSeq b, 0)], arrival.setWidth 64,
      (arrival + 2).setWidth 64]))

/-- The journal record of a directive (13 Table 13.9). -/
def Directive.journalRec (d : Directive) (outcome reason : Nat) (w : Option Directive) : JrnRec :=
  { index := 0, kind := 0, outcome := outcome, arrivalFrame := d.arrival, reason := reason, port := d.port,
    effectFrame := d.arrival + 2, time := d.time, src := d.src, wseq := (w.map fun x => dSeq x.body).getD 0,
    wrank := (w.map (·.rank)).getD 0, wport := (w.map (·.port)).getD 0, udp := d.udp, body := d.body }

/-- A refusal or busy answer is journaled at receipt; DIRECTIVE_REFUSED is logged (R377, R383). -/
def State.refuseDir (s : State) (d : Directive) (result reason : Nat) : State :=
  let s := s.journalDir (d.journalRec result reason none)
  let s := if result = 3 then { s with host := { s.host with dirBusy := satInc s.host.dirBusy } } else s
  s.fault { code := 0x0703 }

/-- Answer to a directive at receipt: result and reason. -/
def State.dirAnswer (s : State) (op : DirOp) (d : Directive) : Nat × Nat :=
  if jrnBufMax ≤ s.jrn.buf.length then (3, 3)
  else if s.frm.state = .start then (2, 4)
  else if s.frm.state = .stopped ∧ op ≠ .restart ∧ op ≠ .imageWrite ∧ knownDir (dOpc d.body) then (2, 4)
  else if !s.wellFormedDir op d.body then (2, 2)
  else if s.dir.used.contains d.port then (3, 3)
  else (0, 0)

/-- A repeat of a directive of the last 256 frames. -/
def State.repeatOf (s : State) (d : Directive) : Option SeenDir :=
  s.dir.seen.find? fun x => x.port == d.port && x.src == d.src && x.udp == d.udp && x.body == d.body &&
    decide (s.frm.frame.toNat < x.arrival.toNat + 256)

/-- A directive arrives at one of the rank's ports. -/
def takeDir (op : DirOp) (i : DirIn) (s : State) : State :=
  let port := i.port.val
  let s := s.rxdg port
  let d : Directive := { op := op, rank := s.dom.rank, port := port, src := i.src, udp := i.udp, body := dirBody port i.words,
                         arrival := s.frm.frame, time := s.ptpNow }
  match s.repeatOf d with
  | some x => s.sendDirack port d.body x.result x.reason x.arrival
  | none =>
    let a := s.dirAnswer op d
    let s := if a.1 = 0 then
        { s with dir := { s.dir with queue := s.dir.queue ++ [d], used := port :: s.dir.used } }
      else s.refuseDir d a.1 a.2
    let e : SeenDir := { port := port, src := d.src, udp := d.udp, body := d.body, arrival := d.arrival, result := a.1, reason := a.2 }
    let keep := s.dir.seen.filter fun x => decide (s.frm.frame.toNat < x.arrival.toNat + 256)
    let s := { s with dir := { s.dir with seen := e :: keep } }
    s.sendDirack port d.body a.1 a.2 d.arrival

/-- The directive is this row's: its opcode, or a reserved one, which is malformed. -/
def dirIs (op : DirOp) (i : DirIn) : Bool :=
  let o := dOpc i.words
  o == (dirForm op).opc || !knownDir o

/-- A port takes directives: the management port with its link up, the host port outside recovery (13 R369, 15 R414). -/
def State.takesDirs (s : State) (port : Nat) : Bool := s.reach port && (port == 0 || s.flt.mgmtUp)

/-- A directive for another rank is relayed to it (13 R361). -/
def receiveDir (op : DirOp) (i : DirIn) (s : State) : State :=
  if !s.takesDirs i.port.val || !dirIs op i then s
  else if i.port.val = 1 ∧ !s.goushOk i.eth then s
  else if i.port.val = 0 ∧ !s.frameOk i.eth then s
  else if i.port.val = 0 ∧ !s.dgOk i.eth i.src s.dirPort then (s.rxdg 0).discardDg
  else if s.forOther i.port.val i.rank then
    (s.rxdg 0).relayOut i.rank (fromSender i.src i.udp (dgBytes 0x10 0 i.rank 0 0 (wordsBytes (hdrWords i.words))))
  else takeDir op i s

/-- STOP. -/
def execStop (d : DirIn) (s : State) : R := .next (receiveDir .stop d s)
/-- RESTART. -/
def execRestart (d : DirIn) (s : State) : R := .next (receiveDir .restart d s)
/-- HOLD. -/
def execHold (d : DirIn) (s : State) : R := .next (receiveDir .hold d s)
/-- CHECKPOINT. -/
def execCheckpoint (d : DirIn) (s : State) : R := .next (receiveDir .checkpoint d s)
/-- RESUME. -/
def execResume (d : DirIn) (s : State) : R := .next (receiveDir .resume d s)
/-- LR_EDIT. -/
def execLrEdit (d : DirIn) (s : State) : R := .next (receiveDir .lrEdit d s)
/-- PATROL. -/
def execPatrol (d : DirIn) (s : State) : R := .next (receiveDir .patrol d s)
/-- REDUNDANCY. -/
def execRedundancy (d : DirIn) (s : State) : R := .next (receiveDir .redundancy d s)
/-- VARIANT. -/
def execVariant (d : DirIn) (s : State) : R := .next (receiveDir .variant d s)
/-- IMAGE_WRITE. -/
def execImageWrite (d : DirIn) (s : State) : R := .next (receiveDir .imageWrite d s)

/-! ### Checks at the effect tick (R373) -/

/-- Variant that a plan would run: the pinned one while it matches, otherwise the lowest of its kind (10 R277, 13 Table 13.6);
4 for none. -/
def State.choose (s : State) (p : Nat) (pin : Option Nat) (redundant : Bool) : Nat :=
  match s.img? p with
  | none => 4
  | some q =>
    let fits (v : Nat) : Bool := ((q.variants[v]?).map fun x => x.fits s.dom.roster s.dom.links).getD false
    match pin with
    | some v => if fits v then v else q.pickOf redundant s.dom.roster s.dom.links
    | none => q.pickOf redundant s.dom.roster s.dom.links

/-- A switch to variant `v` needs a checkpoint that the plan cannot take (10 R284). -/
def State.noSwitch (s : State) (p v : Nat) : Bool :=
  ((s.img? p).map fun q => q.ckpt.isNone).getD true && (v != (s.plan p).variant || !(s.plan p).inPlans)

/-- A cause ahead of THERMAL is pending: THERMAL ends after it (14 R386; 17 R473). -/
def Frm.waitsAhead (f : Frm) : Bool := f.pend.contains 6 || f.pend.contains 7 || f.pend.contains 3

/-- A RESUME changes something, and the cause allows it or there is a latch to clear. -/
def State.resumes (s : State) : Bool :=
  let f := s.frm
  if f.state == .doldrums && (f.cause == 3 || f.cause == 6 || f.cause == 7) && !f.holdLatch then false
  else f.holdLatch || f.overrunHold || f.pend.contains 1 || f.pend.contains 2 || f.pend.contains 4 ||
    (f.pend.contains 5 && !f.thermUp && !f.waitsAhead)

/-- Reason for which a directive is refused against the state reached; 0 for none. -/
def State.dirCheck (s : State) (d : Directive) : Nat :=
  let b := d.body
  if s.frm.state = .stopped ∧ d.op ≠ .restart ∧ d.op ≠ .imageWrite then 4
  else if !s.wellFormedDir d.op b then 2
  else
    match d.op with
    | .resume => if s.resumes then 0 else 4
    | .hold => if dArg b 0 = 0 ∧ s.frm.holdLatch ∧ s.frm.state = .doldrums then 4 else 0
    | .redundancy =>
      if (s.namedPlans d.op b).any fun p =>
          let v := s.choose p none (dArg b 0 == 1)
          decide (4 ≤ v) || s.noSwitch p v then 6 else 0
    | .variant =>
      if (s.namedPlans d.op b).any fun p =>
          let pin := if dArg b 0 = 0xF then none else some (dArg b 0)
          let v := s.choose p pin (s.plan p).redundant
          (dArg b 0 != 0xF && v != dArg b 0) || (decide (v < 4) && s.noSwitch p v) then 6 else 0
    | .imageWrite =>
      if dArg b 0 % 2 = s.boot.slot then 7
      else if s.img.any fun w => w.slot == dArg b 0 % 2 then 4 else 0
    | _ => 0

/-! ### Precedence (R374, R375) -/

/-- Two directives of one effect frame contradict. -/
def contradict (a b : Directive) : Bool :=
  let stop (x : Directive) : Bool := x.op == .stop || x.op == .restart
  let hold (x : Directive) : Bool := x.op == .hold || x.op == .resume
  let overlap := (dPlans a.body &&& dPlans b.body) != 0
  stop a || stop b || (hold a && hold b) ||
    (a.op == b.op && match a.op with
      | .checkpoint => overlap
      | .redundancy => overlap
      | .variant => overlap
      | .lrEdit => dPlans a.body == dPlans b.body && dArg a.body 0 == dArg b.body 0
      | .patrol => true
      | .imageWrite => dArg a.body 0 % 2 == dArg b.body 0 % 2
      | _ => false)

/-- Place in the order: class, management before host, higher SEQ first, lower rank first. -/
def Directive.order (d : Directive) : Nat :=
  (((dirForm d.op).cls * 2 + (1 - d.port)) * 2 ^ 32 + (2 ^ 32 - 1 - dSeq d.body)) * 64 + d.rank % 64

/-- A table obeys 08 R215. -/
def lrOk : List (W48 × W32) → Bool
  | a :: b :: r => decide (a.1.toNat < b.1.toNat) && decide (b.1.toNat ≤ a.1.toNat + 2 ^ 24) && lrOk (b :: r)
  | _ => true

/-- A learning-rate edit of plan `p` laid over a table. -/
def lrLay (p : Nat) (t : List (W48 × W32)) (d : Directive) : List (W48 × W32) :=
  if d.op = .lrEdit ∧ dNamed d.body = [p] then
    t.set (dArg d.body 0) (BitVec.ofNat 48 (dArg d.body 1), BitVec.ofNat 32 (dArg d.body 2))
  else t

/-- The table with the accepted edits and `d` obeys R215. -/
def State.editOk (s : State) (acc : List Directive) (d : Directive) : Bool :=
  (dNamed d.body).all fun p => lrOk ((acc ++ [d]).foldl (lrLay p) (s.plan p).lrtab)

/-- Bodies compared without PORTM (log 36). -/
def sameBody (a b : Directive) : Bool := dirBody 0 a.body == dirBody 0 b.body

/-- What becomes of a directive at its effect tick: outcome, reason, winner. -/
structure Verdict where
  dir : Directive
  outcome : Nat
  reason : Nat
  winner : Option Directive
deriving DecidableEq, Repr

/-- Resolve the directives in order. -/
def State.resolveDirs (s : State) : List Directive → List Directive → List Verdict
  | _, [] => []
  | acc, d :: ds =>
    match acc.find? fun a => contradict a d with
    | some w => { dir := d, outcome := 1, reason := if sameBody w d then 1 else 0, winner := some w } :: s.resolveDirs acc ds
    | none =>
      if d.op = .lrEdit ∧ !s.editOk acc d then
        { dir := d, outcome := 2, reason := 5, winner := none } :: s.resolveDirs acc ds
      else { dir := d, outcome := 0, reason := 0, winner := none } :: s.resolveDirs (acc ++ [d]) ds

/-- Verdicts of an effect frame: the refused ones, then the rest in order. -/
def State.verdicts (s : State) (ds : List Directive) : List Verdict :=
  let bad := ds.filter fun d => s.dirCheck d != 0
  let ok := sortBy Directive.order (ds.filter fun d => s.dirCheck d == 0)
  bad.map (fun d => { dir := d, outcome := 2, reason := s.dirCheck d, winner := none }) ++ s.resolveDirs [] ok

/-- The rank that received a directive journals its outcome (R377). -/
def State.journalVerdict (s : State) (v : Verdict) : State :=
  if v.dir.rank = s.dom.rank then
    let s := s.journalDir (v.dir.journalRec v.outcome v.reason v.winner)
    if v.outcome = 2 then s.fault { code := 0x0703 } else s
  else s

/-! ### Causes (14 R386) -/

/-- Causes in order of precedence: LEDGER, NO_PLAN, PARTNER, THERMAL, SKIP_LIMIT, OVERRUN, DIRECTIVE. -/
def causeOrder : List Nat := [6, 7, 3, 5, 4, 1, 2]

/-- Cause that FRM_STATE records; 0 for none. -/
def Frm.recorded (f : Frm) : Nat := (causeOrder.find? f.pend.contains).getD 0

/-! ### Effects (Table 13.6) -/

/-- A plan ends on this rank (01 R30, 14 R400): its tiles go idle, its accounts close, its lanes and checkpoints are dropped. -/
def State.endPlan (s : State) (p : Nat) (st : PState) (code : Nat) : State :=
  let s := s.stopPlan p
  let s := s.modPlan p fun x => { x with pstate := st, tcode := code, terminating := none, segs := [] }
  let s := { s with frm := { s.frm with faultsOut := s.frm.faultsOut.filter fun v => v.plan != p } }
  ((s.closePlan p).emptyLanes p).dropCkpt p

/-- STOP. -/
def State.stopAll (s : State) : State :=
  let s := (List.range 4).foldl (fun s p => match (s.plan p).pstate with
    | .running | .held | .withdrawn | .restoring => s.endPlan p .stopped 0
    | _ => s) s
  s.abandonWrites.modFrm fun f =>
    { f with state := .stopped, cause := 0, pend := [], holdLatch := false, overrunHold := false, finishPlan := none }

/-- RESUME (R371, R372): the latch and OVERRUN_HOLD are cleared with the causes that a resume ends. -/
def State.resumeNow (s : State) : State :=
  s.modFrm fun f =>
    { f with holdLatch := false, overrunHold := false,
             pend := f.pend.filter fun c => !(c == 1 || c == 2 || c == 4 || (c == 5 && !f.thermUp && !f.waitsAhead)) }

/-- A VARIANT in the doldrums with cause PARTNER: a withdrawn plan restores from its most recent checkpoint (R371). -/
def State.pinVariant (s : State) (p : Nat) (pin : Option Nat) : State :=
  let s := s.modPlan p fun x => { x with pin := pin }
  let v := s.choose p pin (s.plan p).redundant
  if (s.plan p).pstate = .withdrawn ∧ v < 4 then (s.modPlan p fun x => { x with variant := v }).beginRestore p none true else s

/-- IMAGE_WRITE: the slot is marked invalid, and its bytes come in a new epoch of STREAM or from IMG_SEG (R376). -/
def State.openImageWrite (s : State) (d : Directive) : State :=
  let n := dArg d.body 0 / 2 ^ 16 % 2 ^ 16
  let s := s.openWrite { slot := dArg d.body 0 % 2, stream := n, length := dArg d.body 1, port := d.port, bytes := [] }
  if d.port = 1 ∧ n = 0xFFFF then s else s.newEpoch n

/-- Effect of an accepted directive. RESTART is left as a request, carried out once the tick's directives are resolved. -/
def State.applyDir (s : State) (d : Directive) : State :=
  let b := d.body
  let a0 := dArg b 0
  let named := s.namedPlans d.op b
  match d.op with
  | .stop => s.stopAll
  | .restart => { s with boot := { s.boot with restart := true, named := if a0 = 0 then none else some (a0 - 1) } }
  | .hold =>
    let s := s.modFrm fun f => { f with holdLatch := true }
    if a0 = 0 then s.modFrm fun f => { f with pend := if f.pend.contains 2 then f.pend else f.pend ++ [2] }
    else named.foldl (fun s p => s.modPlan p fun x =>
      { x with holdAtStep := true, ckpt := { x.ckpt with wanted := true, streams := x.ckpt.streams ++ [dArg b 1] } }) s
  | .checkpoint => named.foldl (fun s p => s.modPlan p fun x =>
      { x with ckpt := { x.ckpt with wanted := true, streams := x.ckpt.streams ++ [a0] } }) s
  | .resume => s.resumeNow
  | .lrEdit => named.foldl (fun s p => s.modPlan p fun x => { x with lrtab := lrLay p x.lrtab d }) s
  | .patrol => { s with itg := { s.itg with rate := a0 } }
  | .redundancy => named.foldl (fun s p => s.modPlan p fun x => { x with redundNext := some (a0 == 1), pin := none }) s
  | .variant => named.foldl (fun s p => s.pinVariant p (if a0 = 0xF then none else some a0)) s
  | .imageWrite => s.openImageWrite d

/-- The frame state and cause that the events of this boundary lead to, against which its directives are checked (R373; 01 R46). -/
def State.reached (s : State) : State :=
  s.modFrm fun f =>
    { f with cause := if f.state = .stopped then 0 else f.recorded,
             state := if f.state = .stopped then .stopped else if f.recorded = 0 then .work else .doldrums }

/-- DIRECTIVE_PRECEDENCE: check, resolve, journal and apply the effect frame's directives. -/
def State.applyDirs (s : State) : State :=
  let vs := s.reached.verdicts s.frm.agreedDirs
  let s := vs.foldl State.journalVerdict s
  let s := (vs.filter fun v => v.outcome == 0).foldl (fun s v => s.applyDir v.dir) s
  s.modFrm fun f => { f with agreedDirs := [] }

end Sys2Proof.Machine
end

