-- ==== Sys2Proof/Machine/Mover.lean ====
section
/-! DEFINITION. Mover commands (05 R145, R150, R151, R154; 01 R29). -/

namespace Sys2Proof.Machine

/-- A mover command (05 Table 5.6): bits of 64-bit word `k`. -/
def mcf (w : BitVec 256) (k lo len : Nat) : Nat := bfld w (64 * k + lo) len

/-- The command list of a mover slot. -/
def Plan.moverList (p : Plan) (k : Nat) : List (BitVec 256) := p.moverLists.getD k []

/-- Codes that a mover writes: the source's where it is in range, its FILL code elsewhere (05 Table 5.9). -/
def moved (fill : Nat) (dst : List (Option (List Nat))) (src : List (Option (Nat × Bool))) : List (List Nat × Nat × Bool) :=
  (dst.zip src).filterMap fun e => e.1.map fun idx => (idx, (e.2.getD (fill, false)).1, (e.2.getD (fill, false)).2)

/-- What one command does to memory: moved, waiting at a site, or faulting. -/
inductive MoveOut where
  | fault (code addr : Nat)
  | wait (s : State)
  | ok (s : State)

def State.move (s : State) (u plan : Nat) (p : Plan) (w : BitVec 256) : MoveOut :=
  let src : Desc := p.descs.getD (mcf w 0 48 16) 0#1024
  let dst : Desc := p.descs.getD (mcf w 0 32 16) 0#1024
  if src.empty || dst.empty then .ok s
  else
    let so := (mcf w 1 0 32, mcf w 1 32 32, mcf w 2 0 32)
    let d0 := (mcf w 2 32 32, mcf w 3 0 32, mcf w 3 32 32)
    match s.readBlock u plan p src (src.block so.1 so.2.1 so.2.2) (src.scaleBlock so.1 so.2.1 so.2.2) with
    | .fault c a => .fault c a
    | .wait s => .wait s
    | .ok s b =>
      let out := dst.blockOut p (moved src.fill (dst.block d0.1 d0.2.1 d0.2.2) b.elems)
        (moved 127 (dst.scaleBlock d0.1 d0.2.1 d0.2.2) b.scales)
      match s.writable u plan out with
      | .fault c a => .fault c a
      | .wait s => .wait s
      | .ok s => .ok (s.finishXfer u plan out)

def State.slot? (s : State) (i : Nat) : Option SlotRun := s.frm.slots[i]?
def State.modSlot (s : State) (i : Nat) (f : SlotRun → SlotRun) : State :=
  s.modFrm fun x => { x with slots := modAt i f x.slots }

/-- A mover slot that runs now. -/
def State.moverSlot (s : State) (i : Nat) : Option (SlotRun × Plan) :=
  match s.slot? i with
  | some r =>
    if s.runs && r.started && !r.done && r.entry.kind == .mover && (s.plan r.entry.plan).executes then
      (s.img? r.entry.plan).map fun p => (r, p)
    else none
  | none => none

/-- MOVER_COMMAND: the slot's next command moves its block. A command that meets a held site, or a line that an older request waits
for, takes its place in the site's queue and is taken again (09 R243, R249; log 48). -/
def moverCommand (i : Nat) (s : State) : State :=
  match (if s.stalled (moverUnit i) then none else s.moverSlot i) with
  | none => s
  | some (r, p) =>
    match (p.moverList r.entry.addr)[r.issued]? with
    | none => s
    | some w =>
      match s.move (moverUnit i) r.entry.plan p w with
      | .wait s => s
      | .fault c a => s.accessRaise r.entry.plan c a (if r.seqr < 16 then 1 else 7) (if r.seqr < 16 then r.seqr else 0)
      | .ok s => s.modSlot i fun r => { r with issued := r.issued + 1 }

def execMoverCommand (i : Nat) (s : State) : R := .next (moverCommand i s)

/-- MOVER_COMMAND_COMPLETE: the oldest command in progress returns its token when its last line is accepted (05 R145, R150). -/
def moverComplete (i : Nat) (s : State) : State :=
  match (if s.stalled (moverUnit i) then none else s.moverSlot i) with
  | none => s
  | some (r, p) =>
    if r.issued ≤ r.completed then s
    else
      match (p.moverList r.entry.addr)[r.completed]? with
      | none => s
      | some w =>
        let s := (s.modSlot i fun r => { r with completed := r.completed + 1 }).issueToken r.entry.plan 1
        match s.addToken r.entry.plan (mcf w 0 28 4) (mcf w 0 16 12) 1 with
        | some s => s
        | none =>
          let t := mcf w 0 28 4
          s.fault { code := 0x0207, plan := some r.entry.plan, unitk := 1, unit := t, d0 := (s.tile t).fault.word }

def execMoverCommandComplete (i : Nat) (s : State) : R := .next (moverComplete i s)

end Sys2Proof.Machine
end

