-- ==== Sys2Proof/Machine/Training.lean ====
section
/-! DEFINITION. The training step's conductor acts (08): learning rates and step constants (R215, R216), closing an expert segment
(R219, R222), watch records (R223, R224; 04 R128). -/

namespace Sys2Proof.Machine

/-! ### Learning rate (R215) -/

def toNatF32 (n : Nat) : W32 := toF32 (.fin false n 0)

/-- Quotient of two positive integers held as FP32, rounded to nearest-even. -/
def divF32 (a b : W32) : W32 :=
  match f32 a, f32 b with
  | .fin _ m e, .fin _ n f =>
    if n = 0 then toF32 (.inf false)
    else toF32 (.fin false (sticky (m * 2 ^ 64 / n) (m * 2 ^ 64 % n != 0)) (e - f - 65))
  | _, _ => toF32 .nan

/-- Rate between two breakpoints. -/
def lrBetween (s : Nat) (a b : W48 × W32) : W32 :=
  let t := divF32 (toNatF32 (s - a.1.toNat)) (toNatF32 (b.1.toNat - a.1.toNat))
  ffma t (fsub b.2 a.2) a.2

/-- Rate at step `s` before the group multiplier. -/
def lrAt (s : Nat) : List (W48 × W32) → W32
  | [] => 0
  | [a] => a.2
  | a :: b :: r =>
    if s < a.1.toNat then a.2 else if s < b.1.toNat then lrBetween s a b else lrAt s (b :: r)

/-- GRPS and LRN of a plan. -/
def Plan.grps (q : Plan) : Nat := q.training? 2 17 7
def Plan.lrn (q : Plan) : Nat := q.training? 2 24 8

/-- Rates of the groups for step `s`; none with LRN or GRPS 0 (R216). -/
def PlanSt.rates (x : PlanSt) (q : Plan) (s : Nat) : List W32 :=
  if q.lrn = 0 ∨ q.grps = 0 then []
  else (List.range q.grps).map fun j => fmul (lrAt s x.lrtab) (q.grpmul.getD j 0)

/-! ### Step constants (R216) -/

/-- The 512 bytes of the step constants. -/
def stepBytes (step first : W48) (rates : List W32) : List Byte :=
  let bs := leBytes 8 step.toNat ++ leBytes 8 first.toNat ++ rates.flatMap fun r => leBytes 4 r.toNat
  bs ++ List.replicate (512 - bs.length) 0

/-- Write them at STEPC on every tile of the region. -/
def State.stepConstants (s : State) (p : Nat) (step first : W48) : State :=
  let x := s.plan p
  match x.image with
  | none => s
  | some q =>
    if q.training.isNone then s
    else
      let rates := x.rates q step.toNat
      let off := q.training? 2 32 32
      let s := (List.range 16).foldl (fun s t =>
        if q.hasTile t then s.putStore (tileAddr t off) (stepBytes step first rates) false else s) s
      s.modPlan p fun x => { x with rate0 := rates.headD 0 }

/-! ### Expert segments (R219, R222) -/

/-- Highest accepted row of a segment, and the end of its 32-row block. -/
def segFillRows (g : SegIn) : List Nat :=
  if g.rows.isEmpty then []
  else
    let m := maxOf g.rows
    (List.range ((m / 32 + 1) * 32 - (m + 1))).map (m + 1 + ·)

/-- Blocks of 32 rows that hold an accepted token. -/
def segBlocks (g : SegIn) : Nat := (g.rows.map (· / 32)).eraseDups.length

/-- Bytes of the fill: every element of each row takes the FILL code. -/
def segFill (q : Plan) (g : SegIn) : List ByteOut :=
  let d : Desc := q.descs.getD g.desc 0
  (segFillRows g).flatMap fun r => (List.range (d.size 0)).flatMap fun c =>
    d.denseOut q (splitIdx d.sizes ((g.row0 + r) * d.size 0 + c)) d.fill false

/-- What QUOTA leaves of a segment (R218, R225): an assignment whose number is QUOTA or more is declined at its source, so with 0 all of
them are. -/
def withinQuota (g : SegIn) (quota : Nat) : SegIn :=
  if quota = 0 then { g with rows := [], declined := g.assigned, dispatched := 0, returned := 0 }
  else { g with rows := g.rows.filter fun r => decide (r < quota) }

/-- QUOTA of a layer's expert entry (R217). -/
def Plan.quota (q : Plan) (layer : Nat) : Nat := rf ((q.experts.find? fun e => rf e 0 48 16 == layer).getD []) 0 20 16

/-- SEGMENT_CLOSE. -/
def segmentClose (p : Nat) (g : SegIn) (s : State) : State :=
  match s.img? p with
  | none => s
  | some q =>
    if !(s.plan p).executes || q.training.isNone || !(q.experts.any fun e => rf e 0 48 16 == g.layer) then s
    else
      let g := withinQuota g (q.quota g.layer)
      let s := (s.putBytes none p (segFill q g)).setCw q g.word (BitVec.ofNat 32 (segBlocks g))
      s.modPlan p fun x =>
        { x with segs := x.segs ++ [{ layer := g.layer, seg := g.seg, assigned := g.assigned, accepted := g.rows.length,
                                      declined := g.declined, dispatched := g.dispatched, returned := g.returned, closed := true }] }

def execSegmentClose (p : Fin 4) (g : SegIn) (s : State) : R := .next (if s.runs then segmentClose p.val g s else s)

/-! ### Watch records (R223, R224) -/

/-- The watched-tensor counts of the step go to the snapshot and are cleared (04 R128). -/
def State.watchSnapshot (s : State) (p : Nat) : State :=
  s.modPlan p fun x => { x with watchSnap := x.watch, watch := [], snapStep := x.step }

/-- Sum over a layer's segments. -/
def segSum (x : PlanSt) (layer : Nat) (f : Segment → Nat) : Nat :=
  ((x.segs.filter fun g => g.layer == layer).map f).foldl (· + ·) 0

/-- PNUM or PCOUNT of a layer entry is 0: a layer without parameters (R225). -/
def bareLayer (e : Rec) : Bool := rf e 0 17 8 == 0 || rf e 1 16 32 == 0

/-- Layer entry of this rank's record (08 Table 8.7): the layer's sums come from its trailer lines. A layer without parameters has counts
only (R225). -/
def PlanSt.watchLayer (x : PlanSt) (e : Rec) : WatchLayer :=
  let layer := rf e 0 48 16
  let l := x.layer layer
  let run := if l.commitNext = 1 then 0 else l.skiprun
  let skip := (l.committed || l.commitNext == 2) && run != 0
  let bare := bareLayer e
  { layer := layer, lambda := if bare then 0 else l.lambda, skip := skip && !bare, upd := if skip || bare then 0 else l.upd,
    wgt := if bare then 0 else l.wgt, skiprun := run,
    clipped := l.rootClip, nonfin := l.rootMark,
    assigned := segSum x layer (·.assigned), declined := segSum x layer (·.declined),
    dispatched := segSum x layer (·.dispatched), returned := segSum x layer (·.returned) }

/-- Layer and format of a watch declaration: [51:48] FMT, [47:32] LAYER. -/
def watchPair (w : W64) : Nat × Nat := (bfld w 32 16, bfld w 48 4)

/-- Format entries: sums over the layer's watched tensors of a format, from the snapshot. -/
def PlanSt.watchFormats (x : PlanSt) (q : Plan) : List WatchFmt :=
  let pairs := sortBy (fun e => e.1 * 16 + e.2) (q.watches.map watchPair).eraseDups
  pairs.map fun e =>
    let ws := q.watches.filter fun w => watchPair w == e
    { layer := e.1, fmt := e.2,
      counts := (List.range 4).map fun j => (ws.map fun w => (Sparse.get 0#48 x.watchSnap (watchKey (bfld w 52 12) j)).toNat).foldl (· + ·) 0 }

/-- RANK_WATCH_RECORD: formed for the step ended and sent to the leader; kept until the domain record is due. -/
def State.rankWatch (s : State) (p : Nat) (q : Plan) : State :=
  if q.training.isNone then s
  else
    let x := s.plan p
    let r : WatchRec :=
      { plan := p, rank := s.dom.rank, step := x.step, first := x.first, grace := q.graceCnt - x.grace, part := false, ranks := 1,
        rate0 := x.rate0, layers := q.layers.map x.watchLayer, formats := x.watchFormats q }
    let s := s.modPlan p fun x => { x with rwatch := some r }
    if s.frm.leader = s.dom.rank then s else s.send (.rankWatch r)

/-- Sum the integer fields of two records; the rest is the first's. -/
def WatchRec.add (a b : WatchRec) : WatchRec :=
  { a with
    ranks := a.ranks + b.ranks
    layers := a.layers.map fun x =>
      match b.layers.find? fun y => y.layer == x.layer with
      | some y => { x with skiprun := x.skiprun + y.skiprun, clipped := x.clipped + y.clipped, nonfin := x.nonfin + y.nonfin, assigned := x.assigned + y.assigned,
                           declined := x.declined + y.declined, dispatched := x.dispatched + y.dispatched,
                           returned := x.returned + y.returned }
      | none => x
    formats := a.formats.map fun x =>
      match b.formats.find? fun y => y.layer == x.layer && y.fmt == x.fmt with
      | some y => { x with counts := (List.range 4).map fun j => x.counts.getD j 0 + y.counts.getD j 0 }
      | none => x }

/-- RATIO: √(UPD_SQ / WGT_SQ), correctly rounded; 0 when WGT_SQ is 0. -/
def watchRatio (u w : W32) : W32 :=
  match f32 u, f32 w with
  | _, .fin _ 0 _ => 0
  | .fin false m e, .fin false n f =>
    let k := e - f
    let odd := k % 2 != 0
    let m := if odd then 2 * m else m
    let h : Int := (if odd then k - 1 else k) / 2
    let v := m * 2 ^ 160 / n
    let t := isqrt 128 v
    toF32 (.fin false (sticky t (t * t * n != m * 2 ^ 160)) (h - 81))
  | .inf false, .fin false _ _ => toF32 (.inf false)
  | .fin false _ _, .inf false => 0
  | _, _ => toF32 .nan

/-- The bytes of a watch record (Tables 8.6 to 8.8). -/
def WatchRec.bytes (r : WatchRec) : List Byte :=
  let lay (x : WatchLayer) : List W64 :=
    [word64 [(x.layer % 65536, 48), (wrapInt x.lambda 8, 40), (bit x.skip, 39), ((watchRatio x.upd x.wgt).toNat, 0)],
     word64 [(x.upd.toNat, 32), (x.wgt.toNat, 0)], word64 [(x.skiprun % 65536, 48), (x.clipped % 2 ^ 48, 0)],
     word64 [(x.nonfin % 2 ^ 48, 0)], word64 [(x.assigned % 2 ^ 32, 32), (x.declined % 2 ^ 32, 0)],
     word64 [(x.dispatched % 2 ^ 32, 32), (x.returned % 2 ^ 32, 0)], 0, 0]
  let fm (x : WatchFmt) : List W64 :=
    word64 [(x.layer % 65536, 48), (x.fmt % 16, 44)] :: (List.range 4).map fun j => word64 [(x.counts.getD j 0 % 2 ^ 48, 0)]
  wordsBytes ([word64 [(r.plan % 4, 62), (r.grace % 4, 60), (bit r.part, 59), (r.step.toNat, 0)], r.first.setWidth 64,
    word64 [(r.layers.length % 65536, 48), (r.formats.length % 65536, 32), (r.ranks % 65536, 16)], word64 [(r.rate0.toNat, 0)]] ++
    r.layers.flatMap lay ++ r.formats.flatMap fm)

/-- ROOT_WATCH_DEADLINE: the leader writes the domain record from its own and those that have arrived; PART is set when one is
missing (R223). -/
def rootWatch (p : Nat) (recs : List WatchRec) (s : State) : State :=
  let x := s.plan p
  match x.rwatch, x.image with
  | some own, some q =>
    if s.frm.leader ≠ s.dom.rank then s
    else
      let others := (recs.filter fun r => r.plan == p && r.step == own.step && r.rank != s.dom.rank)
      let r := others.foldl WatchRec.add own
      let want := ((s.variantOf p).map fun v => v.rankList.length).getD 1
      let r := { r with part := decide (r.ranks < want) }
      let s := s.modPlan p fun x => { x with rwatch := none }
      let s := s.outflow (q.training? 5 16 16) 1 p r.step r.bytes
      (List.range s.flt.collectors.length).foldl (fun s c => s.send (.watchMsg c r)) s
  | _, _ => s

def execRootWatchDeadline (p : Fin 4) (recs : List WatchRec) (s : State) : R :=
  .next (if s.runs then rootWatch p.val recs s else s)

end Sys2Proof.Machine
end

