-- ==== Sys2Proof/Machine/Engine.lean ====
section
/-! DEFINITION. What port and hub-engine slots do for a gradient reduction: contributions, count lines and digests (08 R209; 11 R304,
R305, R307), the root's exponents and seal (R310, R311, R313), the next step's exponents (R318), broadcasts, trailer lines and the scale
exponent (08 R212, R213; 04 R126). -/

namespace Sys2Proof.Machine

/-! ### The shard of an act -/

/-- One owner's shard of a layer, as the reduction record, the variant in force and this rank's place in the owner's tree give it. -/
structure Walk where
  rcd : Rec
  layer : Nat
  round : Nat
  owner : Nat
  /-- first block of the shard and its blocks. -/
  first : Nat
  blocks : Nat
  params : Nat
  root : Bool
  parent : Option Nat
  kids : List Nat
  /-- child position under the parent. -/
  pos : Nat
  ranks : List Nat
  /-- gradient sets that this rank forms under the variant in force. -/
  sets : Nat
deriving DecidableEq, Repr

/-- A count word of the plan, as every tile of its region holds it. -/
def State.cwOf (s : State) (q : Plan) (i : Nat) : Nat :=
  (((List.range 16).find? q.hasTile).map fun t => (Sparse.get 0#32 (s.tile t).cw i).toNat).getD 0

/-- None where the act does nothing here: no such record, an owner without a shard, a rank outside the tree, a round that no report
started (11 R311). -/
def State.walk (s : State) (p : Nat) (q : Plan) (red owner round : Nat) : Option Walk :=
  match q.reds[red]?, s.variantOf p with
  | some r, some v =>
    let layer := redLayer r
    let sh := q.shard v layer owner
    let me := s.dom.rank
    let up := q.parent v layer owner me
    if sh.2 = 0 ∨ (me ≠ owner ∧ up = none) ∨ (round ≠ 0 ∧ s.cwOf q (redRword r + (round - 1)) ≠ 1) then none
    else some {
      rcd := r, layer := layer, round := round, owner := owner, first := sh.1, blocks := sh.2,
      params := min (128 * (sh.1 + sh.2)) (q.pcount layer) - 128 * sh.1,
      root := decide (me = owner), parent := if me = owner then none else up, kids := q.children v layer owner me,
      pos := ((q.children v layer owner (up.getD me)).findIdx? fun c => c == me).getD 0,
      ranks := q.treeRanks v layer owner, sets := q.setCount v me }
  | _, _ => none

/-- A leaf with one gradient set sends its G16 lines to its parent (11 R304). -/
def Walk.leaf (w : Walk) : Bool := w.kids.isEmpty && w.sets == 1 && !w.root

/-- Device addresses of the shard's sums and count lines in its round, of its exponent bytes, and of the lines of the round's digest area
(11 R294, Table 11.2). -/
def Walk.sums (w : Walk) (q : Plan) : Nat := redSumBase q w.rcd w.round + 512 * w.first
def Walk.counts (w : Walk) (q : Plan) : Nat := redCountBase q w.rcd w.round + 256 * (w.first / 64)
def Walk.countLines (w : Walk) : Nat := ceilDiv w.blocks 64
def Walk.expt (w : Walk) : Nat := rf w.rcd 4 0 48 + w.first
def Walk.digest (w : Walk) : Nat := redDigest w.rcd + 0x500 * w.round

/-! ### Acts -/

/-- An act waits for a site, or is done. -/
inductive JobOut where
  | wait (s : State)
  | ok (s : State)

/-- Line numbers of `n` bytes from an address. -/
def lineRun (a n : Nat) : List Nat := (List.range (ceilDiv (a % 256 + n) 256)).map (a / 256 + ·)

/-- Unit `u` reads lines and goes on with them, or waits for their sites. -/
def State.withLines (s : State) (u p : Nat) (ns : List Nat) (f : State → Lines → State) : JobOut :=
  let ns := lineNums (ns.map (256 * ·))
  match s.access u p ns ns with
  | .fault c a => .ok (s.accessRaise p c a 7 0)
  | .wait s => .wait s
  | .ok s =>
    let r := s.takeLines ns
    .ok ((f r.1 r.2).leavePlace u).drainSites

def Lines.line (c : Lines) (a : Nat) : BitVec 2048 × BitVec 8 :=
  ((c.find? fun l => l.num == a / 256).map fun l => (l.data, l.marks)).getD (0, 0)

/-- A frame of the plan's class leaves for a rank (10 R265). -/
def State.emit (s : State) (p dest op addr : Nat) (body : BitVec 2048) (marks : BitVec 8) : State :=
  s.originate { cls := p, dest := dest, op := op, poison := marks, line := BitVec.ofNat 40 (addr / 256), body := body } AddIn.clean

/-- A TSIG frame (10 Table 10.3). -/
def State.emitSig (s : State) (p dest : Nat) (sig : Option Token) : State :=
  match sig with
  | none => s
  | some (t, tok, n) => s.emit p dest 3 (256 * (t % 16 * 2 ^ 36 + tok % 2 ^ 12 * 2 ^ 24 + n % 2 ^ 24)) 0 0

/-! ### Contributions (08 R209; 11 R304 to R307) -/

/-- A digest line (11 Table 11.3). -/
structure Digest where
  clip : Bool
  nonf : Bool
  twin : Bool
  d : Nat
  lines : Nat
deriving DecidableEq, Repr

def Digest.line (g : Digest) (layer round : Nat) (root : Bool) (clipped markers : Nat) : BitVec 2048 :=
  lineOf (wordsBytes [word64 [(bit g.clip, 63), (bit g.nonf, 62), (bit g.twin, 61), (g.d % 2 ^ 61, 0)],
    word64 [(layer % 65536, 48), (g.lines % 2 ^ 48, 0)], word64 [(round % 4, 62), (bit root, 61)],
    word64 [(clipped % 2 ^ 48, 0)], word64 [(markers % 2 ^ 48, 0)]] ++ List.replicate 216 0)

def Digest.of (d : BitVec 2048) : Digest :=
  { clip := bfld d 63 1 == 1, nonf := bfld d 62 1 == 1, twin := bfld d 61 1 == 1, d := bfld d 0 61, lines := bfld d 64 48 }

/-- Sum of digests: D modulo 2^61 − 1, LINES, flags ORed (11 R307). -/
def Digest.add (a b : Digest) : Digest :=
  { clip := a.clip || b.clip, nonf := a.nonf || b.nonf, twin := a.twin || b.twin, d := (a.d + b.d) % mersenne61, lines := a.lines + b.lines }

/-- A block of a gradient set as quantised: its G16 codes, how many saturated, whether its data were poisoned. -/
structure Quant where
  block : Nat
  codes : List Nat
  clips : Nat
  mark : Bool
deriving DecidableEq, Repr

/-- Quantise block `b` of the shard from the FP32 gradients at `g`: LDEXP with 254 − E, then G16 under R118; missing elements are 0
(08 R209, 11 R298). -/
def Walk.quant (w : Walk) (c : Lines) (g b : Nat) : Quant :=
  let e := c.byte (w.expt + b)
  let n := min 128 (w.params - 128 * b)
  let xs := (List.range n).map fun i => c.num (g + 4 * (128 * b + i)) 4
  let vs := xs.map fun x => convert 12 false 0 (f32 (ldexp (BitVec.ofNat 32 x.1) (BitVec.ofInt 32 (254 - (e.1.toNat : Int)))))
  { block := b, codes := vs.map (·.code) ++ List.replicate (128 - n) 0, clips := (vs.map (·.cnt.overflowed)).foldl (· + ·) 0,
    mark := e.2 || xs.any (·.2) }

/-- The G16 line of a block (11 R298). -/
def Quant.line (z : Quant) : BitVec 2048 := lineOf (z.codes.flatMap (leBytes 2))

/-- Own digest of the sets' lines: S sums their elements, markers as 0; LINES is the shard's block count (11 R307). -/
def Walk.ownDigest (w : Walk) (zs : List Quant) (twin : Bool) : Digest :=
  let s := (zs.flatMap (·.codes)).foldl (fun (a : Int) x => if x = 0x8000 then a else a + sext x 16) 0
  { clip := zs.any fun z => z.clips != 0, nonf := zs.any fun z => z.codes.contains 0x8000, twin := twin,
    d := ((s + 2 ^ 40 * (w.blocks : Int)) % (mersenne61 : Int)).toNat, lines := w.blocks }

/-- A count line: how many elements of each of 64 blocks saturated, all sets together (11 R305). -/
def countLine (zs : List Quant) (k : Nat) : BitVec 2048 :=
  packElems ((List.range 64).map fun i => (((zs.filter fun z => z.block == 64 * k + i).map (·.clips)).foldl (· + ·) 0 : Nat))

/-- The digest that a rank forwards goes into its parent's child line, then the TSIG (11 R304, Table 11.2). -/
def State.forwardDigest (s : State) (p : Nat) (w : Walk) (g : Digest) (sig : Option Token) : State :=
  match w.parent with
  | none => s
  | some r => (s.emit p r 0 (w.digest + 0x100 * (1 + w.pos)) (g.line w.layer w.round false 0 0) 0).emitSig p r sig

def State.contribute (s : State) (u p : Nat) (q : Plan) (w : Walk) (grads : List Nat) (sig : Option Token) : JobOut :=
  s.withLines u p (grads.flatMap (fun g => lineRun g (4 * w.params)) ++ lineRun w.expt w.blocks) fun s c =>
    let zs := grads.flatMap fun g => (List.range w.blocks).map (w.quant c g)
    let dest := if w.leaf then w.parent.getD s.dom.rank else s.dom.rank
    let s := zs.foldl (fun s z => s.emit p dest 1 (w.sums q + 512 * z.block) z.line (if z.mark then 255 else 0)) s
    let s := (List.range w.countLines).foldl (fun s k => s.emit p dest 2 (w.counts q + 256 * k) (countLine zs k) 0) s
    -- under redundancy the quantising core's twin forms the digest
    let g := w.ownDigest zs (s.plan p).redundant
    let s := s.emit p s.dom.rank 0 w.digest (g.line w.layer w.round false 0 0) 0
    if w.leaf then s.forwardDigest p w g sig else s

/-- The seal of a rank: its own digest and those of its children (11 R307). -/
def Walk.seal (w : Walk) (c : Lines) : Digest :=
  (List.range w.kids.length).foldl (fun g k => g.add (Digest.of (c.line (w.digest + 0x100 * (1 + k))).1)) (Digest.of (c.line w.digest).1)

/-- Lines of the shard's sums, its count lines and the digests that its seal sums. -/
def Walk.area (w : Walk) (q : Plan) : List Nat :=
  lineRun (w.sums q) (512 * w.blocks) ++ lineRun (w.counts q) (256 * w.countLines) ++ lineRun w.digest (256 * (1 + w.kids.length))

def State.forward (s : State) (u p : Nat) (q : Plan) (w : Walk) (sig : Option Token) : JobOut :=
  match w.parent with
  | none => .ok s
  | some r =>
    if w.leaf then .ok s
    else s.withLines u p (w.area q) fun s c =>
      let pass (s : State) (a : Nat) : State := s.emit p r 2 a (c.line a).1 (c.line a).2
      let s := (List.range (2 * w.blocks)).foldl (fun s k => pass s (w.sums q + 256 * k)) s
      let s := (List.range w.countLines).foldl (fun s k => pass s (w.counts q + 256 * k)) s
      let g := w.seal c
      (s.emit p s.dom.rank 0 (w.digest + 0x300) (g.line w.layer w.round false 0 0) 0).forwardDigest p w g sig

/-! ### The root (11 R310, R313, R318) -/

/-- Clipped elements of block `b` of the shard. -/
def Walk.count (w : Walk) (q : Plan) (c : Lines) (b : Nat) : Nat := (c.num (w.counts q + 4 * b) 4).1

/-- Exponents of the shard. -/
def Walk.exps (w : Walk) (c : Lines) : List Nat := (List.range w.blocks).map fun b => (c.byte (w.expt + b)).1.toNat

/-- The root keeps what a round began with and which blocks clipped (11 R318). -/
def State.noteRound (s : State) (p : Nat) (q : Plan) (w : Walk) (c : Lines) : State :=
  let hit := (List.range w.blocks).filter fun b => w.count q c b != 0
  s.modLayer p w.layer fun l =>
    let old := if w.round = 0 then [] else l.exps
    { l with exps := if old.any fun e => e.1 == w.round then old else old ++ [(w.round, w.exps c)],
             clips := ((if w.round = 0 then [] else l.clips) ++ hit).eraseDups }

/-- Bytes of an exponent table as lines: the old lines with the shard's bytes replaced. -/
def Walk.exptLines (w : Walk) (c : Lines) (new : List Nat) : List (Nat × BitVec 2048) :=
  (lineRun w.expt w.blocks).map fun n =>
    (256 * n, lineOf ((List.range 256).map fun i =>
      let a := 256 * n + i
      if w.expt ≤ a ∧ a < w.expt + w.blocks then BitVec.ofNat 8 (new.getD (a - w.expt) 0) else (c.byte a).1))

/-- E + 2 in the exponent table (11 R310; log 49 beyond a byte). -/
def raiseExp (e : Nat) : Nat := if e + 2 < 256 then e + 2 else (Config.exponentOver e).toNat

def State.raiseExps (s : State) (u p : Nat) (q : Plan) (w : Walk) : JobOut :=
  if !w.root || redPolicy w.rcd == 0 then .ok s
  else s.withLines u p (lineRun (w.counts q) (256 * w.countLines) ++ lineRun w.expt w.blocks) fun s c =>
    let new := (w.exps c).zipIdx.map fun e => if w.count q c e.2 != 0 then raiseExp e.1 else e.1
    let s := s.noteRound p q w c
    ((w.exptLines c new).filter fun l => l.2 != (c.line l.1).1).foldl (fun s l =>
      w.ranks.foldl (fun s r => s.emit p r 0 l.1 l.2 0) s) s

/-- Elements of the shard's area that hold the marker (11 R313). -/
def Walk.markers (w : Walk) (q : Plan) (c : Lines) : Nat :=
  ((List.range (128 * w.blocks)).filter fun i => (c.num (w.sums q + 4 * i) 4).1 == 0x80000000).length

def State.commitSeal (s : State) (u p : Nat) (q : Plan) (w : Walk) : JobOut :=
  if !w.root then .ok s
  else
    let a := s.acceptedAll p w.ranks
    if !a.2 then .wait a.1
    else a.1.withLines u p (w.area q ++ lineRun w.expt w.blocks) fun s c =>
    let s := if ((s.plan p).layer w.layer).exps.any (fun e => e.1 == w.round) && redPolicy w.rcd == 1 then s else s.noteRound p q w c
    let clipped := ((List.range w.blocks).map (w.count q c)).foldl (· + ·) 0
    s.emit p s.dom.rank 0 (w.digest + 0x300) ((w.seal c).line w.layer w.round true clipped (w.markers q c)) 0

/-- The next step's exponent of a block (11 R318): exponents at the step's start and of the committed round, largest magnitude of its
elements, whether it clipped. -/
def nextExp (skip clip : Bool) (es ec mag : Nat) : Nat :=
  if skip then (if clip then min (es + 2) 254 else es)
  else
    let t : Int := if mag = 0 then (es : Int) - 1 else ((bitLen mag : Int) - 1) + ec - 13
    let t := if clip then max t (es + 2) else t
    (min (max (max t ((es : Int) - 1)) 1) 254).toNat

def State.nextExps (s : State) (u p : Nat) (q : Plan) (w : Walk) : JobOut :=
  let l := (s.plan p).layer w.layer
  let w := { w with round := l.commRound }
  if !w.root then .ok s
  else s.withLines u p (lineRun (w.sums q) (512 * w.blocks) ++ lineRun w.expt w.blocks) fun s c =>
    let of (k : Nat) : List Nat := ((l.exps.find? fun e => e.1 == k).map (·.2)).getD (w.exps c)
    let new := (List.range w.blocks).map fun b =>
      let mag := ((List.range 128).map fun i => (sext (c.num (w.sums q + 512 * b + 4 * i) 4).1 32).natAbs).foldl max 0
      nextExp (l.skiprun != 0) (l.clips.contains b) ((of 0).getD b 0) ((of l.commRound).getD b 0) mag
    (w.exptLines c new).foldl (fun s e => s.emit p s.dom.rank 0 e.1 e.2 0) s

/-! ### Broadcasts (08 R213) and the scale exponent (04 R126) -/

/-- Magnitude code of a finite FP16 code, 0 for the others. -/
def finiteMag (h : Nat) : Nat := if h % 2 ^ 15 < 0x7C00 then h % 2 ^ 15 else 0

/-- Largest finite magnitude code of `n` FP16 codes. -/
def Lines.maxMag (c : Lines) (a n : Nat) : Nat := ((List.range n).map fun i => finiteMag (c.num (a + 2 * i) 2).1).foldl max 0

/-- Shard units of the walk's shard. -/
def Walk.units (w : Walk) : Nat := ceilDiv w.params unitParams

/-- Trailer lines of the owner's shard: 30 units each (08 R213); a skipped update has UPD_SQ +0 (R212). -/
def Walk.trailers (w : Walk) (l : RedLayer) (c : Lines) (codes sums : Nat) : List (BitVec 2048) :=
  let skip := l.skiprun != 0
  let head := word64 [(w.layer % 65536, 48), (wrapInt l.lambda 8, 40), (bit skip, 39), (w.first / (unitParams / 128) % 65536, 16),
    (c.maxMag codes w.params, 0)]
  (List.range (ceilDiv w.units 30)).map fun k =>
    let pairs := (List.range 30).flatMap fun i =>
      let j := 30 * k + i
      if j < w.units then [if skip then 0 else (c.num (sums + 8 * j) 4).1, (c.num (sums + 8 * j + 4) 4).1] else [0, 0]
    lineOf (wordsBytes [head, 0] ++ pairs.flatMap (leBytes 4))

def State.trailer (s : State) (u p : Nat) (w : Walk) (codes sums dst : Nat) : JobOut :=
  if !w.root then .ok s
  else s.withLines u p (lineRun codes (2 * w.params) ++ lineRun sums (8 * w.units)) fun s c =>
    (w.trailers ((s.plan p).layer w.layer) c codes sums).zipIdx.foldl (fun s e => s.emit p s.dom.rank 0 (dst + 256 * e.2) e.1 0) s

def State.spread (s : State) (u p : Nat) (w : Walk) (base lines : Nat) (sig : Option Token) : JobOut :=
  if w.kids.isEmpty then .ok s
  else s.withLines u p (lineRun base (256 * lines)) fun s c =>
    w.kids.foldl (fun s r =>
      ((List.range lines).foldl (fun s k =>
        let x := c.line (base + 256 * k)
        s.emit p r 0 (base + 256 * k) x.1 x.2) s).emitSig p r sig) s

/-- The step of the scale exponent that M, an FP16 magnitude code, asks for (04 R126): 2^14 is 0x7400, 2^12 is 0x6C00. -/
def lambdaStep (m : Nat) (l : Int) : Int :=
  if 0x7400 ≤ m ∧ l < 63 then 1 else if 0 < m ∧ m < 0x6C00 ∧ -64 < l then -1 else 0

/-- A weight code follows its scale exponent: halved to nearest-even, or doubled. -/
def rescaleCode (k : Int) (h : Nat) : Nat := if h % 2 ^ 15 < 0x7C00 then fp16.encode ((fp16.decode h).scale (-k)) else h

/-- UPD_SQ and WGT_SQ of the units that the trailers of a layer's shards carry, in ascending unit order (08 R213, Table 8.7): [31:16] of a
trailer line is the first unit of its shard. -/
def Lines.unitPairs (c : Lines) (trailers : List (Nat × Nat)) : List (W32 × W32) :=
  let all := trailers.flatMap fun t => (List.range t.2).map fun j =>
    let a := t.1 + 256 * (j / 30) + 16 + 8 * (j % 30)
    ((c.num (t.1 + 2) 2).1 + j, BitVec.ofNat 32 (c.num a 4).1, BitVec.ofNat 32 (c.num (a + 4) 4).1)
  (sortBy (·.1) all).map (·.2)

def State.rescale (s : State) (u p red : Nat) (q : Plan) (trailers copies : List (Nat × Nat)) : JobOut :=
  match q.reds[red]? with
  | none => .ok s
  | some r =>
    s.withLines u p (trailers.flatMap (fun t => lineRun t.1 (256 * ceilDiv t.2 30)) ++ copies.flatMap fun a => lineRun a.1 (2 * a.2)) fun s c =>
      let l := (s.plan p).layer (redLayer r)
      let m := (trailers.map fun t => (c.num t.1 2).1).foldl max 0
      let pairs := c.unitPairs trailers
      let k := lambdaStep m l.lambda
      let s := s.modLayer p (redLayer r) fun l =>
        { l with lambda := l.lambda + k, upd := (pairs.map (·.1)).foldl fadd 0, wgt := (pairs.map (·.2)).foldl fadd 0 }
      if k = 0 then s
      else s.putBytes (some u) p (copies.flatMap fun a => (List.range a.2).flatMap fun i =>
        let x := c.num (a.1 + 2 * i) 2
        (leBytes 2 (rescaleCode k x.1)).zipIdx.map fun b => { addr := a.1 + 2 * i + b.2, mask := 255, byte := b.1.toNat, poison := x.2 })

/-! ### Outflow (13 R366) -/

/-- Lines go to an outflow stream. A line with a mark is not sent, nor any after it: the plan stops (09 R242). -/
def State.handOut (s : State) (u p stream base lines : Nat) : JobOut :=
  if !s.outRoom stream then .wait s
  else s.withLines u p (lineRun base (256 * lines)) fun s c =>
    let good := ((List.range lines).map fun k => c.line (base + 256 * k)).takeWhile fun x => x.2 == 0
    let s := s.outflow stream 0 p (s.plan p).step (good.flatMap fun x => lineBytes x.1)
    if good.length < lines then s.sinkFault p (base + 256 * good.length) else s

/-! ### Programs -/

def State.runJob (s : State) (u p : Nat) (q : Plan) (j : EngineJob) : JobOut :=
  let on (red owner round : Nat) (f : Walk → JobOut) : JobOut := match s.walk p q red owner round with
    | none => .ok s
    | some w => f w
  match j with
  | .contribute red owner round grads sig => on red owner round fun w => s.contribute u p q w grads sig
  | .forward red owner round sig => on red owner round fun w => s.forward u p q w sig
  | .raise red owner round => on red owner round fun w => s.raiseExps u p q w
  | .commit red owner round => on red owner round fun w => s.commitSeal u p q w
  | .exponents red owner => on red owner 0 fun w => s.nextExps u p q w
  | .trailer red owner codes sums dst => on red owner 0 fun w => s.trailer u p w codes sums dst
  | .spread red owner base lines sig => on red owner 0 fun w => s.spread u p w base lines sig
  | .rescale red trailers copies => s.rescale u p red q trailers copies
  | .outflow stream base lines => s.handOut u p stream base lines

/-- The acts left of the program of slot `i`, in order, up to one that waits; `done` when none is left. -/
def State.runJobs (i p : Nat) (q : Plan) : List EngineJob → State → State × Bool
  | [], s => (s, true)
  | j :: js, s =>
    match s.runJob (moverUnit i) p q j with
    | .wait s => (s, false)
    | .ok s => State.runJobs i p q js (s.modSlot i fun r => { r with jobs := r.jobs + 1 })

/-- The program's waits are met (03 R102). -/
def State.tokensMet (s : State) (ws : List Token) : Bool :=
  ws.all fun w => decide (w.2.2 ≤ (Sparse.get 0#24 (s.tile w.1).tok w.2.1).toNat)

/-- The program's own signals, when its acts are done. -/
def State.placeSignals (s : State) (p : Nat) (sigs : List Token) : State :=
  sigs.foldl (fun s g =>
    let s := s.issueToken p g.2.2
    match s.addToken p g.1 g.2.1 g.2.2 with
    | some s => s
    | none => s.fault { code := 0x0207, plan := some p, unitk := 1, unit := g.1, d0 := (s.tile g.1).fault.word }) s

/-- A port or engine slot works as far as it can; `true` when its program has ended. -/
def State.workSlot (s : State) (i : Nat) (r : SlotRun) : State × Bool :=
  match (s.img? r.entry.plan).bind fun q => (q.engine? r.entry.addr).map fun e => (q, e) with
  | none => (s, true)
  | some (q, e) =>
    if !s.tokensMet e.waits || s.stalled (moverUnit i) then (s, false)
    else
      let t := State.runJobs i r.entry.plan q (e.jobs.drop r.jobs) s
      if t.2 && (t.1.plan r.entry.plan).executes then (t.1.placeSignals r.entry.plan e.signals, true) else (t.1, false)

end Sys2Proof.Machine
end

