-- ==== Sys2Proof/Machine/Frame.lean ====
section
/-! DEFINITION. The work window: slots (01 R19 to R21; 03 R105), late slots, grace and FINISH (01 R37 to R42), and the late reports
that other chapters add (11 R317; 15 R429, R431). -/

namespace Sys2Proof.Machine

/-! ### Units of a slot -/

/-- Two rectangles of cores share a core. -/
def SlotEntry.overlaps (a b : SlotEntry) : Bool :=
  decide (a.top < b.top + b.height ∧ b.top < a.top + a.height ∧ a.left < b.left + b.width ∧ b.left < a.left + a.width)

/-- Two slots of a frame occupy a common unit. -/
def SlotRun.sharesUnit (a b : SlotRun) : Bool :=
  a.entry.kind == b.entry.kind &&
    (if a.entry.kind = .cores then a.entry.overlaps b.entry
     else (a.entry.kind != .mover || a.seqr == b.seqr) && a.entry.units.any b.entry.units.contains)

/-- Slot `j` comes before slot `i`: its start cycle is lower, or it stands earlier in its table. -/
def SlotRun.before (a : SlotRun) (j : Nat) (b : SlotRun) (i : Nat) : Bool :=
  decide (a.entry.start < b.entry.start) || (a.entry.start == b.entry.start && decide (j < i))

/-- Every earlier slot on the same units has completed (01 R20). -/
def State.unitsFree (s : State) (i : Nat) (r : SlotRun) : Bool :=
  s.frm.slots.zipIdx.all fun e => e.2 == i || e.1.done || !e.1.before e.2 r i || !e.1.sharesUnit r

/-- Cores of the slot's rectangle. -/
def SlotEntry.cores (e : SlotEntry) : List Nat :=
  (List.range e.height).flatMap fun r => (List.range e.width).map fun c => keyAt (e.top + r) (e.left + c)

/-- State of a core at slot start (03 R105): its pocket stays. -/
def Core.begin (c : Core) (slot : Nat) (e : SlotEntry) (top left : Nat) : Core :=
  { Core.reset with
    pocket := c.pocket
    pocketPoison := c.pocketPoison
    active := true
    slot := slot
    plan := e.plan
    top := top
    left := left
    height := e.height
    prog := e.addr }

/-- Start one core, and its twin on its own rectangle (14 R393). -/
def State.beginCore (s : State) (i : Nat) (e : SlotEntry) (pairs : List TwinPair) (k : Nat) : State :=
  let s := s.modCore k fun c => c.begin i e e.top e.left
  match pairs.find? fun t => t.primary == k with
  | some t => s.modCore t.twin fun c =>
      c.begin i e (globalRow t.twin + e.top - globalRow k) (globalCol t.twin + e.left - globalCol k)
  | none => s

/-- Cores that a slot runs on, twins included. -/
def State.slotCores (s : State) (r : SlotRun) : List Nat :=
  let pairs := s.twinPairs r.entry.plan
  r.entry.cores ++ (pairs.filter fun t => r.entry.cores.contains t.primary).map (·.twin)

/-! ### Start and completion (01 R20) -/

/-- The slot may start now. -/
def State.startable (s : State) (i : Nat) (r : SlotRun) : Bool :=
  s.runs && s.frm.phase == .work && (s.plan r.entry.plan).executes && !r.started && !r.done && s.unitsFree i r

/-- SLOT_START. -/
def slotStart (i : Nat) (s : State) : State :=
  match s.slot? i with
  | none => s
  | some r =>
    if s.startable i r then
      let s := s.modSlot i fun r => { r with started := true }
      if r.entry.kind = .cores then
        r.entry.cores.foldl (State.beginCore · i r.entry (s.twinPairs r.entry.plan)) s
      else s
    else s

def execSlotStart (i : Nat) (s : State) : R := .next (slotStart i s)

/-- Every core has retired END with its fenced signals and held words gone, or every mover command has returned its token. A
port's or an engine's end is the command itself. -/
def State.slotEnded (s : State) (r : SlotRun) : Bool :=
  match r.entry.kind with
  | .cores => (s.slotCores r).all fun k => let c := s.core k; c.ended && c.fenced.isEmpty && c.twin.isEmpty
  | .mover =>
    let n := (((s.img? r.entry.plan).map fun q => q.moverList r.entry.addr).getD []).length
    r.issued == n && r.completed == n
  | _ => true

/-- SLOT_COMPLETE. A port or engine slot first does what its program has left to do; it has not ended while an act waits. -/
def slotComplete (i : Nat) (s : State) : State :=
  match s.slot? i with
  | none => s
  | some r =>
    if s.runs && s.frm.phase == .work && r.started && !r.done && (s.plan r.entry.plan).executes && s.slotEnded r then
      let w := if r.entry.kind = .port ∨ r.entry.kind = .engine then s.workSlot i r else (s, true)
      if !w.2 then w.1
      else
        let ks := w.1.slotCores r
        let s := w.1.modSlot i fun r => { r with done := true }
        let s := if r.entry.kind = .cores then ks.foldl (fun s k => s.modCore k fun c => { c with active := false }) s else s
        s.reportDone
    else s

def execSlotComplete (i : Nat) (s : State) : R := .next (slotComplete i s)

/-- Deadlines are measured: in WORK and GRACE. -/
def State.measures (s : State) : Bool := s.frm.phase == .work && (s.frm.state == .work || s.frm.state == .grace)

/-! ### Grants (01 R39, R42) -/

/-- A grant reaches the rank. -/
def State.applyGrant (s : State) (p d g : Nat) : State :=
  let move (r : SlotRun) : SlotRun := if d ≤ r.deadline then { r with deadline := r.deadline + 1900 * g, late := false } else r
  let s := s.modFrm fun f =>
    { f with slots := f.slots.map move, moved := f.moved + g, grants := (d, g) :: f.grants, grantPlans := p :: f.grantPlans, state := .grace }
  let s := s.modPlan p fun x => { x with grace := x.grace - 1, graces := satInc x.graces }
  s.fault { code := 0x0130, plan := some p }

/-- GRACE_GRANT: an announcement of the leader arrives. -/
def graceGrant (p : Nat) (frame : W48) (d g : Nat) (s : State) : State :=
  if s.frm.frame == frame && s.measures && s.frm.leader != s.dom.rank then s.applyGrant p d g else s

def execGraceGrant (p : AtPort (Fin 4)) (frame : W48) (d g : Nat) (s : State) : R :=
  .next (s.onNotice p.1.val (.grant p.2.val frame d g) (graceGrant p.2.val frame d g))

/-! ### FINISH (01 R40, R42) -/

/-- FINISH reaches the rank: deadlines are suspended, and the doldrums follow this frame's lull. -/
def State.applyFinish (s : State) (p : Nat) : State :=
  let s := s.modFrm fun f => { f with state := .finish, finishPlan := some p, overrunHold := true }
  let s := s.modPlan p fun x => { x with finishes := satInc x.finishes }
  (s.raise { code := 0x0131, plan := some p }).reportDone

/-- FINISH. -/
def finish (p : Nat) (frame : W48) (s : State) : State :=
  if s.frm.frame == frame && s.measures && s.frm.leader != s.dom.rank then s.applyFinish p else s

def execFinish (p : AtPort (Fin 4)) (frame : W48) (s : State) : R :=
  .next (s.onNotice p.1.val (.finish p.2.val frame) (finish p.2.val frame))

/-! ### The leader's decision (01 R38 to R40, R42) -/

/-- The report is superseded by a grant already made. -/
def Frm.superseded (f : Frm) (d seen : Nat) : Bool :=
  decide (seen < f.grants.length) && (match f.grants with
    | g :: _ => decide (g.1 ≤ d)
    | [] => false)

/-- The leader takes one report. -/
def State.takeLate (s : State) (p : Nat) (d seen : Nat) : State :=
  if !s.measures || s.frm.superseded d seen then s
  else if 0 < (s.plan p).grace then
    let g := ((s.img? p).map Plan.graceLen).getD 0
    (s.applyGrant p d g).notify (.grant p s.frm.frame d g)
  else (s.applyFinish p).notify (.finish p s.frm.frame)

/-- The plan's late slots count: it runs or is being restored, and nothing ends it. -/
def PlanSt.overruns (x : PlanSt) : Bool := (x.inPlans || x.pstate == .restoring) && x.terminating.isNone

/-- A late report at the leader; its own takes effect at once. -/
def State.lateAt (s : State) (p : Nat) (frame : W48) (d seen : Nat) : State :=
  if s.frm.leader == s.dom.rank && s.frm.frame == frame && (s.plan p).overruns then s.takeLate p d seen else s

/-- LATE_REPORT. -/
def execLateReport (o : LateIn) (s : State) : R :=
  .next (s.onNotice o.port.val (.late o.rank o.plan.val o.frame o.d o.grantsSeen) fun s => s.lateAt o.plan.val o.frame o.d o.grantsSeen)

/-! ### Late slots (01 R38) -/

/-- The rank reports a late slot to the leader. -/
def State.reportLate (s : State) (p d : Nat) : State :=
  let seen := s.frm.grants.length
  if s.frm.leader = s.dom.rank then s.lateAt p s.frm.frame d seen else s.notify (.late s.dom.rank p s.frm.frame d seen)

/-- LATE_SLOT. -/
def lateSlot (i : Nat) (s : State) : State :=
  match s.slot? i with
  | none => s
  | some r =>
    if s.runs && s.measures && (s.plan r.entry.plan).executes && !r.done && !r.late then
      let s := s.modSlot i fun r => { r with late := true }
      let s := if r.seqr < 16 then s.modTile r.seqr fun t => { t with late := satInc t.late } else s
      let s := s.modPlan r.entry.plan fun x => { x with lates := satInc x.lates }
      s.reportLate r.entry.plan r.deadline
    else s

def execLateSlot (i : Nat) (s : State) : R := .next (lateSlot i s)

/-! ### The end of FINISH (01 R40, R41) -/

/-- The leader announces the lull's start once every rank has reported completion. -/
def State.announceLull (s : State) : State :=
  if s.frm.state == .finish && !s.frm.lullAnnounced && s.allDone && (s.dom.present &&& ~~~(s.frm.completed ||| BitVec.ofNat 64 (2 ^ s.dom.rank))) == 0 then
    (s.modFrm fun f => { f with lullAnnounced := true }).notify (.lull s.frm.frame)
  else s

/-- FINISH_LULL_ANNOUNCE: at the leader, completion reports of the ranks in `done` arrive; elsewhere, its announcement. -/
def finishLull (p : Nat) (done : W64) (s : State) : State :=
  if s.runs && s.frm.leader == s.dom.rank then
    if s.frm.state = .finish then (s.modFrm fun f => { f with completed := f.completed ||| done }).announceLull else s
  else s.onNotice p (.lull s.frm.frame) fun s => if s.frm.state = .finish then s.modFrm fun f => { f with lullAnnounced := true } else s

def execFinishLullAnnounce (d : AtPort W64) (s : State) : R := .next (finishLull d.1.val d.2 s)

/-- HUNG_SLOT (01 R41): the slot's plan gets OVERRUN_HUNG, and the leader ends FINISH. -/
def hungSlot (i : Nat) (s : State) : State :=
  match s.slot? i with
  | none => s
  | some r =>
    if s.runs && s.frm.phase == .work && s.frm.state == .finish && !r.done then
      let s := s.fault { code := 0x0132, plan := some r.entry.plan, unitk := if r.seqr < 16 then 1 else 7,
                         unit := if r.seqr < 16 then r.seqr else 0 }
      if s.frm.leader = s.dom.rank ∧ s.allDone then
        (s.modFrm fun f => { f with lullAnnounced := true }).notify (.lull s.frm.frame)
      else s
    else s

def execHungSlot (i : Nat) (s : State) : R := .next (hungSlot i s)

/-! ### Late checkpoints and restores -/

/-- After the vote of the lull. -/
def State.voted (s : State) : Bool :=
  match s.frm.phase with
  | .vote | .patrol | .record | .guard => true
  | _ => false

/-- A late checkpoint or restore is one late report at the next tick. -/
def State.oweLate (s : State) (p code : Nat) : State :=
  let s := s.fault { code := code, plan := some p }
  let s := s.modPlan p fun x => { x with ckpt := { x.ckpt with late := true } }
  s.modFrm fun f => { f with lateNext := f.lateNext ++ [(p, true)] }

/-- CKPT_LATE (15 R429): the leader alone sees from the vote of frame CKFRAMES − 1 that a part is not sealed. -/
def ckptLate (p : Nat) (s : State) : State :=
  let c := (s.plan p).ckpt
  match c.run, (s.img? p).bind (·.ckpt) with
  | some (k, f), some r =>
    if s.runs && s.frm.leader == s.dom.rank && s.voted && (s.plan p).inPlans && !c.late &&
        !(c.gens.getD k Gen.reset).complete && s.frm.frame.toNat + 1 == f.toNat + ckFrames r then
      s.oweLate p 0x0908
    else s
  | _, _ => s

def execCkptLate (p : Fin 4) (s : State) : R := .next (ckptLate p.val s)

/-- RESTORE_LATE (15 R431), handled as CKPT_LATE. -/
def restoreLate (p : Nat) (s : State) : State :=
  let c := (s.plan p).ckpt
  match c.restore, (s.img? p).bind (·.ckpt) with
  | some k, some r =>
    if s.runs && s.frm.leader == s.dom.rank && s.voted && (s.plan p).pstate == .restoring && !c.late &&
        k == ckRframes r then
      s.oweLate p 0x0909
    else s
  | _, _ => s

def execRestoreLate (p : Fin 4) (s : State) : R := .next (restoreLate p.val s)

end Sys2Proof.Machine
end

