-- ==== Sys2Proof/Machine/Lull.lean ====
section
/-! DEFINITION. The lull (01 R16 to R18, Table 1.1): its start with the close phase and the memory track (09 R247, R248, R253,
R254), the vote (10 R278, R279, R282, R287), the record phase and the guard phase. -/

namespace Sys2Proof.Machine

/-! ### Memory track (09 Table 9.8) -/

/-- Step 1: every write-combining entry is merged, while the site serves. -/
def State.mergeAll (s : State) (i : Nat) : State :=
  ((s.site i).wcb.foldl (fun s e => if (s.site i).serves then s.merge i e.line Xfer.clean else s) s).drainSite i

/-- Step 2: refresh catches up and the temperature is read, which sets the pace of the next frame (09 R246), with the inner-code
corrections that the devices report (09 Table 9.11). No command carries either: free values (log 37). -/
def State.refreshSite (s : State) (i : Nat) : State :=
  let d := s.draw
  d.1.modSite i fun z =>
    { z with refreshes := z.refreshes + 1, hot := d.2.getLsbD 0, odecc := satAdd z.odecc (bfld d.2 1 31) }

/-- Spare row groups of a site (09 R254). -/
def spareGroups (tier : Nat) : Nat := if tier = 2 then 32768 else 16384

/-- Lowest spare row group not in use (09 R254). -/
def Site.nextSpare (z : Site) : Nat :=
  let used := (z.retmap ++ z.retPend).map (·.2)
  ((List.range (used.length + 1)).find? fun k => !used.contains k).getD 0

/-- Line `l` is among the `n` lines from `lo` on, which wrap at the end of the addressable part. -/
def Site.inRun (z : Site) (lo n l : Nat) : Bool :=
  decide ((l + siteLines z.tier - lo % max 1 (siteLines z.tier)) % max 1 (siteLines z.tier) < n)

/-- Read, correct and write back the lines of a run that hold data or an error (09 R237, R238). -/
def State.sweep (s : State) (i lo n : Nat) : State :=
  let z := s.site i
  let ls := ((z.lines.map (·.1) ++ z.upsets.map (·.1)).eraseDups).filter (z.inRun lo n)
  ls.foldl (fun s l =>
    let m := s.meets i l Xfer.clean
    (m.1.fetchLine i l m.2).1) s

/-- Some line of a row group is poison or invalid. -/
def Site.groupBad (z : Site) (g : Nat) : Bool := z.lines.any fun e => e.1 / 64 == g && decide (2 ≤ e.2.cls)

/-- A row group whose delta has been written moves to its spare (09 R253). A copy that fails its EDC a third time holds the site, and the
group waits for a later lull (R237, R249). -/
def State.moveGroup (s : State) (i : Nat) (e : Nat × Nat) : State :=
  if !(s.site i).serves || !s.deltaDone 7 i e.1 then s
  else
    let s := s.edcLines ((List.range 64).map fun l => siteAddr i (64 * e.1 + l) / 256) 1
    if !(s.site i).serves then s
    else
      let s := s.modSite i fun z => { z with retmap := z.retmap ++ [e], retPend := z.retPend.filter (· != e) }
      (s.sweep i (64 * e.1) 64).siteFault 0x0313 i (64 * e.1) none none

/-- The row groups of a site whose deltas have been written. -/
def State.moveGroups (s : State) (i : Nat) : State := (s.site i).retPend.foldl (fun s e => s.moveGroup i e) s

/-- A candidate row group takes a spare and waits for its delta (09 R253, 14 R397), or finds none (R254). The delta's CAUSE is the fault
that made the group a candidate (14 Table 14.4). -/
def State.retireGroup (s : State) (i g : Nat) : State :=
  let z := s.site i
  let s := s.modSite i fun z => { z with retq := z.retq.drop 1 }
  if z.nextSpare < spareGroups z.tier then
    (s.modSite i fun z => { z with retPend := z.retPend ++ [(g, z.nextSpare)] }).queueDelta
      (s.mkDelta 7 i z.nextSpare g (if z.groupBad g then 0x0303 else 0x0302))
  else if z.spareOut then s
  else (s.modSite i fun z => { z with spareOut := true }).siteFault 0x0314 i (64 * g) none none

/-- Up to `n` candidates, oldest first. -/
def State.queueGroups (s : State) (i : Nat) : Nat → State
  | 0 => s
  | n + 1 =>
    match (s.site i).retq with
    | [] => s
    | g :: _ => (s.retireGroup i g).queueGroups i n

/-- Step 3: up to `n` candidates, each applied once its delta is written. -/
def State.retireGroups (s : State) (i n : Nat) : State :=
  if (s.site i).serves then (s.moveGroups i).queueGroups i n else s

/-- Lines of one scrub. -/
def scrubLen : Nat := 4096

/-- Lines that a scrub reaches: all of them, or those before the first whose transfer fails its EDC a third time (09 R237). -/
def Site.scrubReach (z : Site) : Nat :=
  let c := max 1 (siteLines z.tier)
  (((z.upsets.map (·.1)).eraseDups.filter fun l => decide (3 ≤ (z.upset l).edcFails)).map fun l => (l + c - z.cursor % c) % c).foldl min scrubLen

/-- Step 4: scrub from the cursor on; it wraps at the end of the addressable part. A line whose EDC fails a third time holds the site, and
the cursor stands at it. -/
def State.scrub (s : State) (i : Nat) : State :=
  let z := s.site i
  if !z.serves then s
  else
    let n := z.scrubReach
    let c := max 1 (siteLines z.tier)
    let s := s.edcLines ((((z.upsets.map (·.1)).eraseDups.filter fun l => z.inRun z.cursor (n + 1) l)).map fun l => siteAddr i l / 256) 0
    (s.sweep i z.cursor n).modSite i fun z =>
      { z with scrubbed := satAdd z.scrubbed n, cursor := (z.cursor + n) % c }

/-- Sites of a stripe record. -/
def stripeSites (r : Rec) : List Nat :=
  (List.range (rf r 0 48 8)).map fun i => rf r (3 + i / 8) (8 * (i % 8)) 8

/-- Stripe groups of every plan loaded. -/
def State.groups (s : State) : List (List Nat) :=
  (List.range 4).flatMap fun p => ((s.img? p).map fun q => q.stripes.map stripeSites).getD []

/-- Sites joined to a set by one stripe group, `n` times over. -/
def joinSites (groups : List (List Nat)) : Nat → List Nat → List Nat
  | 0, l => l
  | n + 1, l =>
    joinSites groups n ((List.range 24).filter fun i => l.contains i || groups.any fun g => g.contains i && g.any l.contains)

/-- Retrain set of a site (09, Addresses and stripe groups): itself and every site that shares a group with it, transitively. -/
def State.retrainSet (s : State) (i : Nat) : List Nat := joinSites s.groups 24 [i]

/-- The site's set is due in the lull of frame `f` (09 R248). -/
def State.retrainDue (s : State) (i f : Nat) : Bool :=
  let set := s.retrainSet i
  let iv := (set.map fun j => (s.site j).retrainIv).filter fun v => v != 0
  match iv with
  | [] => false
  | v :: vs =>
    let n := vs.foldl min v
    f % n == (set.foldl min i * (n / 24)) % n

/-- Step 5: the scheduled retrain. -/
def State.schedule (s : State) (i : Nat) : State :=
  if (s.site i).serves && s.retrainDue i s.frm.frame.toNat then s.modSite i fun z => { z with state := .retrainSched } else s

/-- The memory track of one site. A held site takes no part in steps 1, 3 and 4, a held or failed one skips its retrain (09 R248,
R249). -/
def State.memoryTrack (s : State) (i : Nat) : State :=
  match (s.site i).state with
  | .ready => ((((s.mergeAll i).refreshSite i).retireGroups i 4).scrub i).schedule i
  | .retrainUnsched => s.refreshSite i
  | .retrainSched => s.refreshSite i
  | _ => s

/-! ### Deltas (14 R397) -/

/-- What a written delta of this start-up or of the running module lets happen (14 R397): a tile retires; in a lull a row group moves to
its spare. Rows, columns and lanes wait for their boundary. -/
def State.deltaWritten (s : State) (d : Delta) : State :=
  if d.kind = 3 ∧ d.unit < 16 ∧ s.boot.mapDone then s.tileRetires d.unit
  else if d.kind = 7 ∧ s.inLull then s.moveGroups d.unit
  else s

/-- DELTA_RECORD_WRITE (14 R397): the oldest waiting delta is appended, or its write fails and is retried in a later lull. -/
def deltaWrite (ok : Bool) (s : State) : State :=
  match s.itg.deltas with
  | [] => s
  | d :: ds =>
    if ok then (({ s with itg := { s.itg with deltas := ds } }.appendDelta d).deltaWritten d).storePacks else s.fault { code := 0x0807 }

def execDeltaRecordWrite (ok : Bool) (s : State) : R := .next (if s.live then deltaWrite ok s else s)

/-! ### END_OF_WORK_WINDOW -/

/-- Frame counters are cleared on every tile, after their capture (03 R102). -/
def State.clearTokens (s : State) : State :=
  (List.range 16).foldl (fun s t => s.modTile t fun x => { x with tok := Sparse.keep (fun k => decide (3840 ≤ k)) x.tok }) s

/-- Carried counters whose clear frame this is (03 R103): the plan has just run frame `pos − 1` of its step. -/
def State.clearCarry (s : State) (p : Nat) : State :=
  let x := s.plan p
  match x.image with
  | none => s
  | some q =>
    if x.pstate != .running || x.pos == 0 then s
    else
      let stab := ((q.variants[x.variant]?).map Variant.stab).getD 0
      let toks := (q.carry.filter fun e => bfld e 30 2 == stab && bfld e 32 16 + 1 == x.pos).map fun e => bfld e 48 16
      (List.range 16).foldl (fun s t =>
        if q.hasTile t then s.modTile t fun y => { y with tok := Sparse.keep (fun k => !toks.contains k) y.tok } else s) s

/-- The window may end: no slot is under way, and FINISH ends by the leader's announcement (01 R40). -/
def State.windowEnds (s : State) : Bool :=
  s.runs && s.frm.phase == .work && s.frm.state != .start && s.allDone &&
    (s.frm.state != .finish || s.frm.lullAnnounced)

/-- The lull's identity frame on every port that is up (10 R273). -/
def State.lullIdentity (s : State) : State :=
  (List.range 6).foldl (fun s p => if (s.port p).up && s.sends then s.sendIdentity p else s) s

/-- END_OF_WORK_WINDOW: the close phase, and the tracks beside the phases. -/
def endOfWorkWindow (s : State) : State :=
  if s.windowEnds then
    let s := s.captureCounts
    let s := s.modFrm fun f =>
      { f with phase := .close,
               state := match f.state with
                 | .work | .grace | .finish => .lull
                 | x => x }
    let s := (List.range 4).foldl State.clearCarry s.clearTokens
    let s := s.deliverBatches.lullIdentity.lullProbes
    (List.range 24).foldl State.memoryTrack s
  else s

def execEndOfWorkWindow (s : State) : R := .next (endOfWorkWindow s)

/-! ### The vote -/

/-- Ranks heard on ports that are up. -/
def State.hears (s : State) : W64 :=
  (List.range 6).foldl (fun a p => if (s.port p).up then a ||| BitVec.ofNat 64 (2 ^ (s.port p).peerRank) else a) 0

/-- Counts of a credit account as the vote carries them: SENT, ACCEPTED, ACKED, RET_IN, RET_OUT; empty for a closed one. -/
def Acct.counts (a : Acct) : List Nat := if a.isOpen then [a.sent, a.accepted, a.acked, a.retIn, a.retOut] else []

/-- Counts captured at the close phase. -/
def State.voteCredits (s : State) : List (List (List Nat)) :=
  match s.frm.capture with
  | some c => c.ports.map fun e => e.1.map Acct.counts
  | none => []

/-- P and L that the plans of this rank govern (01 R34). -/
def State.ownPL (s : State) : Nat × Nat :=
  match (List.range 4).find? fun p => match (s.plan p).pstate with
    | .running | .held | .withdrawn | .restoring => true
    | _ => false with
  | some p => ((s.img? p).map fun q => (q.period, q.lull)).getD (s.frm.period, s.frm.lull)
  | none => (s.frm.period, s.frm.lull)

/-- Directives that arrived in the frame before this one (01 R46). -/
def State.dirsDue (s : State) : List Directive := s.dir.queue.filter fun d => decide (d.arrival.toNat < s.frm.frame.toNat)

/-- A set of plans as bits. -/
def planBits (f : Nat → Bool) : BitVec 4 := BitVec.ofNat 4 ((List.range 4).foldl (fun a p => if f p then a + 2 ^ p else a) 0)

/-- A rank's vote. The leader's carries its PTP time of the next tick (13 R381): the vote phase begins 3 µs into the lull. -/
def State.ownVote (s : State) : Vote :=
  { rank := s.dom.rank
    frame := s.frm.frame
    late := s.frm.slots.any (·.late) || !s.frm.grants.isEmpty || s.frm.finishPlan.isSome
    hold := s.dev.holdRaised
    directives := s.dirsDue
    ports := (List.range 6).map fun p => (s.port p).state
    hears := s.hears
    digest := s.frm.digest.getD 0
    reports := s.frm.reportsOut.take 8
    faults := s.frm.faultsOut
    causes := s.frm.causesOut
    vcodes := (List.range 4).map fun p => (s.plan p).vcode
    sealed := planBits fun p => (s.plan p).ckpt.sealed
    switching := planBits fun p => (s.plan p).inPlans && (s.plan p).switchTo.isSome
    period := s.ownPL.1
    lull := s.ownPL.2
    tickPtp := s.ptpNow.toInt + 1000 * ((s.frm.lull : Int) - 3)
    unlocked := s.clk.ptp != 3
    credits := s.voteCredits
    closes := s.frm.closesOut
    rewinds := (List.range 4).filterMap fun p => ((s.plan p).ckpt.rewind).map fun f => (p, f) }

/-- A vote frame arrives at port `e.1`, and waits in the control class of its gust queue (10 R264, R267). -/
def State.voteIn (s : State) (e : Fin 6 × Vote) : State :=
  let h := s.hear e.1.val
  if h.2 && (h.1.port e.1.val).up then h.1.queueControl e.1.val (.vote e.2) else h.1

/-- A vote of this frame from a rank not yet heard is held, and passed on (10 R278). -/
def State.takeVote (p : Nat) (a : State × List Vote) (f : LinkFrame) : State × List Vote :=
  match f with
  | .vote v =>
    if v.frame != a.1.frm.frame || a.2.any (fun w => w.rank == v.rank) then a
    else (a.1.flood (some p) (.vote v), a.2 ++ [v])
  | _ => a

/-- What waits in the control class of a port is taken, in order. -/
def State.takeCtl (a : State × List Vote) (p : Nat) : State × List Vote :=
  (a.1.port p).ctl.foldl (State.takeVote p) (a.1.modPort p fun x => { x with ctl := [] }, a.2)

/-- The votes that arrive by the end of the phase, beside the own one. -/
def State.takeVotes (s : State) (own : Vote) (votes : List (Fin 6 × Vote)) : State × List Vote :=
  (List.range 6).foldl State.takeCtl (votes.foldl State.voteIn s, [own])

/-- Ports up in a vote, as bits. -/
def Vote.upBits (v : Vote) : Nat :=
  v.ports.zipIdx.foldl (fun a e => if (e.1 == .up || e.1 == .degraded) && decide (e.2 < 6) then a + 2 ^ e.2 else a) 0

/-- Some other rank hears rank `r`. -/
def heardIn (vs : List Vote) (r : Nat) : Bool := vs.any fun v => v.rank != r && v.hears.getLsbD r

/-- Roster and links that the votes give for the coming tick: a rank no peer hears is absent (10 R282), and port states are those
voted (R278). -/
def State.votedRoster (s : State) (vs : List Vote) : List Presence × List Nat :=
  let a := s.assembled
  let ranks := a.1.zipIdx.map fun e => if e.2 == s.dom.rank || heardIn vs e.2 then e.1 else Presence.absent
  let links := a.2.zipIdx.map fun e => ((vs.find? fun v => v.rank == e.2).map Vote.upBits).getD e.1
  (ranks, links)

/-- Every plan that a lost rank leaves without its variant still has a matching one. -/
def State.stillMatches (s : State) (ranks : List Presence) (links : List Nat) : Bool :=
  (List.range 4).all fun p =>
    let x := s.plan p
    !(x.inPlans || x.pstate == .withdrawn) || decide ((((s.imagePlan p).map fun q => q.pickOf x.redundant ranks links).getD 4) < 4)

/-- PARTNER_LOST for each rank newly absent, a foreign one too: domain-halting only when no variant matches; the cause itself comes at the tick with
the withdrawn plan (10 R282). -/
def State.partnersLost (s : State) (ranks : List Presence) (links : List Nat) : State :=
  let gone := (List.range 64).filter fun r => s.dom.roster.getD r .absent != .absent && ranks.getD r .absent == .absent
  let cls := if s.stillMatches ranks links then 0 else 2
  gone.foldl (fun s _ => s.raise { code := 0x0405, cls := some cls }) s

/-- Equation 4 of one link direction: sender's and receiver's counts (14 Table 14.5). -/
def eqFour (snd rcv : List Nat) : Bool :=
  snd.isEmpty || rcv.isEmpty ||
    decide (snd.getD 2 0 ≤ rcv.getD 1 0 ∧ rcv.getD 1 0 ≤ snd.getD 0 0 ∧ snd.getD 3 0 ≤ rcv.getD 4 0)

/-- A class is audited across links: no contained fault of its plan stands here or in any vote (14 R399). -/
def State.auditsIn (s : State) (vs : List Vote) (c : Nat) : Bool :=
  s.audits c && (c == 4 || !vs.any fun v => v.faults.any fun f => f.plan == c)

/-- Links and classes whose counts break equation 4: unit port × 16 + class, the own port where this rank is an end. -/
def State.linkFails (s : State) (vs : List Vote) : List (Nat × Nat) :=
  vs.flatMap fun v => (List.range 6).flatMap fun p =>
    match farEnd s.dom.shape v.rank p with
    | none => []
    | some (r, q) =>
      match vs.find? fun w => w.rank == r with
      | none => []
      | some w => (classes.filter fun c => s.auditsIn vs c && !eqFour ((v.credits.getD p []).getD c []) ((w.credits.getD q []).getD c [])).map
          fun c => (4, 16 * (if r = s.dom.rank then q else p) + c)

/-- A failure of equation 4 takes the domain into the doldrums at the coming tick (14 R399). -/
def State.ledgerCause (s : State) (fails : List (Nat × Nat)) : State :=
  if fails.isEmpty then s else s.modFrm fun f => { f with agreedCauses := f.agreedCauses ++ [6] }

/-- And is raised. -/
def State.auditLinks (s : State) (fails : List (Nat × Nat)) : State :=
  match fails with
  | [] => s
  | e :: _ => s.ledgerViolation e

/-- Lines lost in flight on accounts whose two ends are in the votes: sending rank, port, class and SENT − ACCEPTED (14 R400). -/
def State.lostLines (s : State) (vs : List Vote) : List (Nat × Nat × Nat × Nat) :=
  vs.flatMap fun v => (v.closes.filter (·.sending)).filterMap fun a =>
    (farEnd s.dom.shape v.rank a.port).bind fun e =>
      ((vs.find? fun w => w.rank == e.1).bind fun w => w.closes.find? fun b => !b.sending && b.port == e.2 && b.cls == a.cls).map
        fun b => (v.rank, a.port, a.cls, a.count - b.count)

/-- The leader journals them, in a device entry of code 5, which Table 13.15 does not list (14 R400; log 18). -/
def State.journalLost (s : State) (vs : List Vote) : State :=
  if s.frm.leader = s.dom.rank then
    (s.lostLines vs).foldl (fun s e =>
      s.devEntry [word64 [(e.2.2.1, 20), (e.2.1, 16), (e.1, 8), (5, 0)], BitVec.ofNat 64 (e.2.2.2 % 2 ^ 48), 0, 0]) s
  else s

/-- Rewinds that the votes carry: each rank takes the earliest frame, and acts on it at the plan's next step boundary (14 R392; log
55). -/
def State.agreeRewinds (s : State) (vs : List Vote) : State :=
  (vs.flatMap (·.rewinds)).foldl (fun s e => s.modPlan e.1 fun x =>
    if x.inPlans then { x with ckpt := { x.ckpt with rewindVoted := some (earlier x.ckpt.rewindVoted e.2) } } else x) s

/-- Closure entries made since the last vote whose other end is absent are marked unresolved in DETAIL2 [48] (14 R400). -/
def State.markUnresolved (s : State) (vs : List Vote) : State :=
  let mark := s.frm.voteMark
  let lost (r : FaultRec) : Bool :=
    r.code == 0x0809 && decide (mark ≤ r.num) && !vs.any fun v => v.rank == (s.port r.unit).peerRank
  { s with flt := { s.flt with recs := mapIf lost (fun r => { r with d2 := r.d2 ||| (1#64 <<< 48) }) s.flt.recs } }

/-- Every rank of a variant has voted its part of a plan's checkpoint sealed. -/
def Variant.sealedBy (v : Variant) (p : Nat) (vs : List Vote) : Bool :=
  v.rankList.all fun r => vs.any fun w => w.rank == r && w.sealed.getLsbD p

/-- Variant onto which a plan that waits on this late rank restores (10 R284): the one that the roster of the coming tick gives it, once
the ranks of the one that it gives without this rank have sealed the checkpoint of its switch, which their votes name (log 37). -/
def State.rejoins (s : State) (p : Nat) (vs : List Vote) : Option Nat :=
  let x := s.plan p
  match x.image with
  | none => none
  | some q =>
    if !vs.any fun w => w.switching.getLsbD p then none
    else
    let r := s.votedRoster vs
    let v := q.pickOf x.redundant r.1 r.2
    if x.pstate = .withdrawn ∧ 4 ≤ x.variant ∧ q.ckpt.isSome ∧ ((q.variants[v]?).map fun v => v.has s.dom.rank).getD false ∧
        ((q.variants[q.pickOf x.redundant (r.1.set s.dom.rank .absent) r.2]?).map fun v => v.sealedBy p vs).getD false then some v
    else none

/-- Plans whose part every rank of the variant has voted sealed (15 R428); a late rank restores with them (10 R284). -/
def State.sealVotes (s : State) (vs : List Vote) : State :=
  (List.range 4).foldl (fun s p =>
    match s.variantOf p, s.rejoins p vs with
    | some v, _ => if v.sealedBy p vs then s.sealedAll p else s
    | none, some v => s.modPlan p fun x => { x with switchTo := some v }
    | none, none => s) s

/-- Reports of RESCALE_EXHAUSTED, which every rank reads and the leader of the coming tick handles (11 R312, R315). -/
def State.exhausted (s : State) (reps : List RootReport) : State :=
  s.modFrm fun f => { f with lateNext := f.lateNext ++ (reps.filter (·.exh)).map fun r => (r.plan, false) }

/-- Words of the agreed result, from which its digest is formed (10 R278): `ptp` is the leader's time of the next tick, 0 where its vote
is missing. -/
def Frm.resultWords (f : Frm) (ptp : Int) (ranks : List Presence) (links : List Nat) : List W64 :=
  [f.frame.setWidth 64, presentBits ranks, BitVec.ofNat 64 f.leader, BitVec.ofInt 64 ptp] ++
  links.map (BitVec.ofNat 64) ++ f.agreedCauses.map (BitVec.ofNat 64) ++
  f.agreedFaults.map (fun v => BitVec.ofNat 64 (65536 * v.plan + v.code)) ++
  f.agreedReports.map (fun r => BitVec.ofNat 64 (r.layer * 2 ^ 48 + r.owner * 2 ^ 42 + r.round * 2 ^ 40)) ++
  f.agreedDirs.flatMap (·.body)

/-- First entry of each plan, lowest rank first. -/
def agreeFaults (vs : List Vote) : List VoteFault :=
  let all := vs.flatMap (·.faults)
  (List.range 4).filterMap fun p => all.find? fun f => f.plan == p

/-- Lowest-numbered running plan and its variant in force, from which the frame leader follows (10 R277). -/
def State.leadKey (s : State) : Option (Nat × Nat) := s.firstPlan.map fun p => (p, (s.plan p).variant)

/-- What the votes agree, put where the coming tick takes it; what has been voted is gone from the outgoing lists. -/
def State.agree (s : State) (vs : List Vote) : State :=
  let lead := vs.find? fun v => v.rank == s.frm.leader
  let r := s.votedRoster vs
  let reps := vs.flatMap fun v => v.reports.take 8
  let due := s.dirsDue
  let f := s.frm
  let leader := if lead.isSome then f.leader
    else (((vs.map (·.rank)).find? fun k => k != f.leader).getD f.leader)
  let f := { f with
    agreedFaults := agreeFaults vs
    agreedCauses := (f.agreedCauses ++ (if vs.any Vote.hold then [5] else []) ++ vs.flatMap Vote.causes).eraseDups
    agreedDirs := vs.flatMap Vote.directives
    agreedReports := reps
    agreedPL := lead.map fun (v : Vote) => (v.period, v.lull)
    tickPtp := ((lead.map Vote.tickPtp).getD (s.ptpNow.toInt + 1000 * ((f.lull : Int) - 3)))
    thermUp := vs.any Vote.hold
    leader := leader
    leadLost := if lead.isSome then f.leadLost else some s.leadKey
    faultsOut := []
    closesOut := []
    causesOut := []
    reportsOut := f.reportsOut.drop 8 }
  let f := { f with digest := some (Config.voteDigest (f.resultWords ((lead.map Vote.tickPtp).getD 0) r.1 r.2)) }
  { s with frm := f, dir := { s.dir with queue := s.dir.queue.filter fun d => !due.contains d },
           dom := { s.dom with nextRoster := some r } }

/-- The leader's digest of the previous result differs from the own one, once the rank has one (10 R279). -/
def State.disagrees (s : State) (vs : List Vote) : Bool :=
  s.frm.leader != s.dom.rank && vs.any fun v => v.rank == s.frm.leader && (match s.frm.digest with
    | some d => v.digest != d
    | none => false)

/-- VOTE_PHASE: the own vote is flooded, and the result follows from the votes held. -/
def votePhase (votes : List (Fin 6 × Vote)) (s : State) : State :=
  let s := (List.range 4).foldl State.sealPart (s.setPhase .vote)
  let own := s.ownVote
  let r := (s.flood none (.vote own)).takeVotes own votes
  let s := r.1
  let vs := sortBy Vote.rank r.2
  if s.disagrees vs then s.split
  else
    let r := s.votedRoster vs
    let fails := s.linkFails vs
    let s := ((((s.partnersLost r.1 r.2).markUnresolved vs).journalLost vs).ledgerCause fails).agree vs
    let s := ((s.voteReports s.frm.agreedReports).exhausted s.frm.agreedReports).auditLinks fails
    let s := (s.agreeRewinds vs).sealVotes vs
    s.modFrm fun f => { f with voteMark := s.flt.next }

def execVotePhase (votes : List (Fin 6 × Vote)) (s : State) : R :=
  .next (if s.runs && s.frm.phase == .audit then votePhase votes s else s)

/-! ### The record phase -/

/-- A twin mismatch has stopped the plan on this rank, and it is to be withdrawn (14 R394). -/
def PlanSt.mismatched (x : PlanSt) : Bool := x.redundant && x.stopped && x.terminating.isNone

/-- The coming tick restores the plan, or withdraws it first: a rewind at the step boundary just reached (14 R392), a variant that the voted
roster no longer matches (10 R282), a switch whose checkpoint is complete (R284). -/
def State.restoreDue (s : State) (p : Nat) : Bool :=
  let x := s.plan p
  x.inPlans && ((x.atBoundary && x.ckpt.rewindVoted.isSome) ||
    (match s.dom.nextRoster, s.variantOf p with
      | some r, some v => !v.fits r.1 r.2
      | _, _ => false) ||
    (x.switchTo.isSome && !x.ckpt.wanted && (match x.ckpt.run with
      | some (k, _) => (x.ckpt.gens.getD k Gen.reset).complete
      | none => true)))

/-- No running plan owns the tile. A plan being restored counts as running; one that the coming tick restores is at its boundary (14 R396),
and one that a twin mismatch has stopped does not run (R394). -/
def State.steerFree (s : State) (t : Nat) : Bool :=
  (List.range 4).all fun p =>
    !(((s.plan p).inPlans && !(s.plan p).mismatched && !s.restoreDue p) || (s.plan p).pstate == .restoring) ||
      !((s.img? p).map (·.hasTile t)).getD false

/-- Pending steering that this lull applies (14 R394, R396). -/
def State.recordSteering (s : State) : State :=
  (List.range 16).foldl (fun s t => if s.steerFree t then s.applySteer t else s) s

/-- A step of the plan has just ended: its last frame is this one (01 R24). -/
def State.stepEnds (s : State) (p : Nat) : Bool :=
  let x := s.plan p
  x.pstate == .running && !x.stopped && decide (0 < x.pos) &&
    ((x.image.map fun q => x.pos == (q.stepTable x.variant).stepLen).getD false)

/-- The record phase at a step boundary. -/
def State.recordStep (s : State) (p : Nat) : State :=
  match s.img? p with
  | none => s
  | some q =>
    if s.stepEnds p then
      let s := s.watchSnapshot p
      let s := if ((s.variantOf p).map fun v => v.has s.dom.rank).getD false then s.rankWatch p q else s
      let s := if q.stateless then s.applySteerOf q else s
      s.modPlan p fun x => { x with atBoundary := true }
    else s

/-- Summary records (14 R402): no LAST_FAULT changes. -/
def State.summarise (s : State) : State :=
  let one (f : FaultUnit) (e : Nat × Nat) : FaultUnit :=
    let code := e.1 % 65536
    let r := s.mkRec { code := code } true
    f.push { r with d0 := BitVec.ofNat 64 e.2, d1 := BitVec.ofNat 64 (e.1 / 65536), d2 := 0, d3 := 0 }
  { s with flt := { s.flt.unsummed.foldl one s.flt with unsummed := [] } }

/-- A summary that drops a record raises REPORT_OVERFLOW once per full episode (14 R402). -/
def State.summaries (s : State) : State :=
  let t := s.summarise
  if t.flt.rptDrop ≠ s.flt.rptDrop ∧ t.flt.overflowed = false then
    { t with flt := { t.flt with overflowed := true } }.raise { code := 0x080A }
  else t

/-- RECORD_PHASE. -/
def recordPhase (s : State) : State :=
  let s := (List.range 4).foldl State.recordStep (s.setPhase .record)
  s.recordSteering.summaries

def execRecordPhase (s : State) : R := .next (if s.runs && s.frm.phase == .patrol then recordPhase s else s)

/-! ### The guard phase -/

/-- Step that the coming tick may open for a plan: its step counter. -/
def State.opensStep (s : State) (p : Nat) : Option W48 :=
  let x := s.plan p
  match x.image with
  | none => none
  | some q =>
    if x.inPlans && x.initLeft == 0 && !x.stopped then
      if x.pos = 0 then some x.step
      else if (q.stepTable x.variant).stepLen ≤ x.pos then some (x.step + 1) else none
    else if x.pstate = .restoring ∧ x.ckpt.restore = (q.ckpt.map ckRframes) then some x.step else none

/-- Step constants of a plan whose next step may open at the coming tick (08 R216). -/
def State.guardConstants (s : State) (p : Nat) : State :=
  match s.opensStep p with
  | some n => if ((s.variantOf p).map fun v => v.has s.dom.rank).getD false then s.stepConstants p n (s.frm.frame + 1) else s
  | none => s

/-- PACK_ACTIVATION (14 R395). -/
def State.activatePacks (s : State) : State :=
  let new := s.itg.newPacks
  let act (k : Pack) : Pack := match new.find? fun n => n.packId == k.packId with
    | some n => { n with active := true }
    | none => k
  let s := { s with itg := { s.itg with packs := s.itg.packs.map (Option.map act), newPacks := [] } }
  (s.flagSlices s.frm.period s.frm.lull (new.flatMap Pack.slices)).loadPatrol

/-- GUARD_PHASE: constants are written, packs become active. -/
def guardPhase (s : State) : State :=
  let s := s.setPhase .guard
  ((List.range 4).foldl State.guardConstants s).activatePacks

def execGuardPhase (s : State) : R := .next (if s.runs && s.frm.phase == .record then guardPhase s else s)

end Sys2Proof.Machine
end

