-- ==== Sys2Proof/Machine/Boot.lean ====
section
/-! DEFINITION. Start-up and reset (15 R409 to R414, R419, R423 to R425, R435; 17 R464, R465, R467): from reset release to the spare
map. -/

namespace Sys2Proof.Machine

/-! ### Reset -/

/-- A site over a reset: only the retirement map in its reserve is kept (R423; log 40). -/
def Site.kept (z : Site) (powerOn : Bool) : Site := { Site.reset with retmap := if powerOn then [] else z.retmap }

/-- The next journal INDEX, as start-up finds it in the eMMC: one more than the highest among records whose CRC is good (R410). -/
def Journal.found (j : Journal) : Journal :=
  let is := (j.ring.filter (·.crcOk)).map fun r => r.index.toNat
  { Journal.reset with ring := j.ring, next := if is.isEmpty then 0 else BitVec.ofNat 48 (is.foldl max 0 + 1) }

/-- Every volatile state at its reset value; what lies in OTP, in the eMMC, on the board and in the queue stays. -/
def State.resetVolatile (s : State) : State :=
  { State.reset with
    pending := s.pending
    clk := { Clk.reset with now := s.clk.now }
    pwr := { Pwr.reset with rankStraps := s.pwr.rankStraps, forceRec := s.pwr.forceRec, thermTrip := s.pwr.thermTrip }
    sites := (List.range 24).foldl (fun m i => Sparse.set Site.reset m i ((s.site i).kept false)) []
    jrn := s.jrn.found
    emmc := s.emmc
    otp := s.otp
    boot := { Boot.reset with boots := s.boot.boots, starts := s.boot.starts, inOpens := s.boot.inOpens, outOpens := s.boot.outOpens }
    tx := s.tx
    draws := s.draws }

/-- RESET_ASSERTION (17 R464): at once, in any state, with no fault record and no journal write. -/
def execResetAssertion (s : State) : R := .next s.resetVolatile

/-! ### Clocks and PLLs (17 R467; 02 R58) -/

/-- The input that serves and whether the standby is within specification; none if neither is. -/
def serving (ref100 : BitVec 2) : Option (Nat × Bool) :=
  if ref100.getLsbD 0 then some (0, ref100.getLsbD 1) else if ref100.getLsbD 1 then some (1, false) else none

/-- A PLL delta (02 R58; log 33). -/
def Tile.takePll (t : Tile) (kind : Nat) : Tile :=
  if kind = 4 then { t with pllSpare := true }
  else if kind = 5 then { t with pllFailed := if t.pllFailed.contains 1 then t.pllFailed else 1 :: t.pllFailed }
  else t

/-- PLL deltas of the fuses and the eMMC select the PLL of each tile (R409; log 33). -/
def State.selectPlls (s : State) : State :=
  (s.otp.fuses ++ s.emmc.deltas).foldl (fun s d =>
    if !d.crcOk || decide (16 ≤ d.unit) then s else s.modTile d.unit fun t => t.takePll d.kind) s

/-- OTP is read in step 2 (16 R446), its revocation bits as they stand then (R416). -/
def State.readOtp (s : State) : State :=
  { s with dev := { s.dev with serial := s.otp.serial, mac := s.otp.mac, mmac := s.otp.mmac },
           boot := { s.boot with revoked := s.otp.revoked } }

/-! ### Images (15 R413, R418) -/

/-- The slot fails: IMAGE_INVALID, and the slot is marked INVALID. -/
def State.slotFails (s : State) (k : Nat) : State :=
  let d := s.emmc.dir.getD DirCopy.presumed
  (s.fault { code := 0x0902 }).saveDir (d.setSlot k { d.slot k with state := 2 })

/-- Sections that step 4 reads: all but the plans. -/
def earlySection (t : Nat) : Bool := t != 6

/-- Read and check the image of a slot (step 4); none where the slot fails. -/
def State.trySlot (s : State) (d : DirCopy) (k : Nat) : State × Option Image :=
  match s.emmc.slot k with
  | none => (s.slotFails k, none)
  | some i =>
    if (d.slot k).state ≠ 1 ∨ !i.valid s.keyring then (s.slotFails k, none)
    else if !i.digestsOk earlySection then ((s.slotFails k).fault { code := 0x0904 }, none)
    else (s, some i)

/-- Collectors of a device configuration (Table 15.7); an all-zero entry is none. -/
def collectorsOf (r : Rec) : List Collector :=
  ((List.range 4).filterMap fun k =>
    let a : W128 := BitVec.ofNat 128 (beNat (leBytes 8 (r.getD (28 + 4 * k) 0).toNat ++ leBytes 8 (r.getD (29 + 4 * k) 0).toNat))
    let port := rf r (30 + 4 * k) 0 16
    if a = 0 ∧ port = 0 then none else some { addr := a, port := port, cum := 0, interval := 10 })

/-- Outflow streams of the host configuration, each in the epoch that this start-up begins (13 R362, R366). -/
def State.outStreams (s : State) : List OutStream :=
  (List.range s.nout).map fun i =>
    { stream := s.outStreamNo i, epoch := s.outEpoch (s.outStreamNo i), next := 0, flight := [], queue := [], window := none, stalled := false,
      addr := s.outAddr i, port := s.outPort i }

/-- A pack of the image is verified as on arrival (14 R395). -/
def State.imagePack (s : State) (bs : List Byte) : State :=
  match (parsePack bs).filter fun p => packSigned s.keyring bs && s.itg.packResult p == 0 with
  | some p => s.takePack p
  | none => s.fault { code := 0x0805 }

/-- Packs at start-up: those of the eMMC area, then those of the image; all are active once the patrol memories are loaded (R424). The
patrol phase that their slices are held against is that of the P and L of a rank without a plan (01 R34; log 40). -/
def State.bootPacks (s : State) (i : Image) : State :=
  let held := (List.range 16).map fun k => (s.emmc.packs[k]?).map fun p => { p with active := true }
  let s := { s with itg := { s.itg with builtin := i.builtin, packs := held } }
  let s := i.packs.foldl State.imagePack s
  let act (p : Pack) : Pack := ((s.itg.newPacks.find? fun n => n.packId == p.packId).getD p)
  let s := { s with itg := { s.itg with newPacks := [], packs := s.itg.packs.map (Option.map fun p => { act p with active := true }) } }
  s.flagSlices (idleP s.boot.cfg) (idleL s.boot.cfg) s.itg.active

/-- Shape of the cable and the module's place in it (10 R271, R272). -/
def State.joinDomain (s : State) : State :=
  let shape := rf s.boot.cfg 0 0 6
  { s with dom := { s.dom with shape := shape, out := decide (ranksOf shape ≤ s.dom.rank) } }

/-- The sites that the site table declares start to train (R423; 09 R227). -/
def State.trainSites (s : State) : State :=
  (List.range 24).foldl (fun s i =>
    let t := bfld (siteWord s.boot.cfg i) 62 2
    if t = 0 then s else s.modSite i fun z => { z with state := .training, tier := t }) s

/-- Steps 4 and 5 with a good image: its configuration is in force, the host port trains, and step 6 begins. -/
def State.loadImage (s : State) (k : Nat) (i : Image) : State :=
  let s := { s with
    boot := { s.boot with stage := 6, slot := k, keyIdx := i.keyIdx, image := some i, cfg := i.device }
    otp := { s.otp with revoked := s.otp.revoked ||| BitVec.ofNat 4 (rf i.device 0 8 4) }
    flt := { s.flt with collectors := collectorsOf i.device } }
  let s := { s with host := { s.host with outs := s.outStreams, link := if s.clk.ref156.getLsbD 2 then 1 else 0 } }
  ((s.bootPacks i).joinDomain).trainSites

/-- Recovery (R414): the rank runs alone as its own leader, in STOPPED. -/
def State.enterRecovery (s : State) : State :=
  let s := s.fault { code := 0x0903 }
  { s with
    boot := { s.boot with recovery := true, slot := 2, stage := 0xB }
    dom := { s.dom with out := true, tick0 := true }
    pwr := { s.pwr with tickPulses := s.pwr.tickPulses + 1 }
    frm := { s.frm with state := .stopped, phase := .work, period := 1000, lull := 20, leader := s.dom.rank, idle := 1 } }

/-- Steps 3 to 5 from the slot named, or the directory's (R413, R435). -/
def State.bootFrom (s : State) (named : Option Nat) : State :=
  let r := s.readDir
  let k := (named.getD r.2.select) % 2
  let a := r.1.trySlot r.2 k
  match a.2 with
  | some i => a.1.loadImage k i
  | none =>
    let s := { a.1 with boot := { a.1.boot with fallback := true } }
    let b := s.trySlot r.2 (1 - k)
    match b.2 with
    | some i => b.1.loadImage (1 - k) i
    | none => b.1.enterRecovery

/-- Step 2 with a good ROM: the hub leaves reset, and this start-up is counted (13 R362). -/
def State.leaveReset (s : State) : State :=
  let s := s.readOtp
  { s with dom := { s.dom with rank := s.pwr.rankStraps }, pwr := { s.pwr with inReset := false },
           boot := { s.boot with starts := s.boot.starts + 1 } }

/-- Steps 2 to 5. The ROM self-check fails: the hub stays in reset. The eMMC is not brought up within its bound: step 3 goes on until
EMMC_FAIL. FORCE_REC_N low reads neither slot (17 R465). -/
def State.bootUp (s : State) (romOk emmcOk : Bool) (named : Option Nat) : State :=
  if !romOk then s
  else
    let s := s.leaveReset
    if !emmcOk then { s with boot := { s.boot with stage := 3 } }
    else
      let s := s.selectPlls
      if s.pwr.forceRec then s.readDir.1.enterRecovery else s.bootFrom named

/-- Without power the retirement maps in the reserves are lost with the rest (log 40). -/
def State.clearSites (s : State) : State := { s with sites := [] }

/-- RESET_RELEASE. A tripped module needs VAUX removed before it starts again (17 R474). -/
def resetRelease (r : ResetIn) (s : State) : State :=
  if r.powerOn || !s.pwr.thermTrip then
    let s := s.resetVolatile
    let s := { s with
      pwr := { s.pwr with rankStraps := r.straps.val, forceRec := r.forceRec, thermTrip := false }
      boot := { s.boot with boots := if r.powerOn then 0 else s.boot.boots } }
    let s := if r.powerOn then s.clearSites else s
    match serving r.ref100 with
    | none => { s with pwr := { s.pwr with refBad := true } }
    | some (i, standby) =>
      let s := { s with clk := { s.clk with serving := i, standbyOk := standby, ref156 := r.ref156 } }
      s.bootUp r.romOk r.emmcOk none
  else s

def execResetRelease (r : ResetIn) (s : State) : R := .next (if s.pwr.inReset then resetRelease r s else s)

/-- EMMC_FAIL: bring-up has exceeded its bound (Table 15.1). -/
def execEmmcFail (s : State) : R :=
  .next (if s.runs && s.boot.stage == 3 then s.fault { code := 0x0907 } else s)

/-- The device resets itself (R413, R435): the clock inputs and the straps stay as they are. Whether the ROM check and the eMMC pass
steps 2 and 3 again no command says: a free value (log 37). -/
def State.internalReset (s : State) (restarts : Nat) (named : Option Nat) : State :=
  let clk := s.clk
  let s := s.resetVolatile
  let s := { s with clk := { s.clk with serving := clk.serving, standbyOk := clk.standbyOk, ref156 := clk.ref156 },
                    boot := { s.boot with boots := min 0xFFFF (s.boot.boots + restarts) } }
  let d := s.draw
  d.1.bootUp (d.2.getLsbD 0) (d.2.getLsbD 1) named

/-- What waits for the eMMC is written out in its order: deltas, then the journal buffer (R411, R435). -/
def State.writeOut (s : State) : State :=
  let s := s.itg.deltas.foldl State.appendDelta { s with itg := { s.itg with deltas := [] } }
  { s with jrn := { s.jrn with ring := (s.jrn.buf.reverse ++ s.jrn.ring).take jrnRingMax, buf := [] } }

/-- RESTART (R435) at its tick: the plans have ended as under STOP; what waits for the eMMC is written out, so that the PLL choices of
pending deltas take effect, and the rank resets itself and starts from the slot named. -/
def State.restart (s : State) : State := s.stopAll.writeOut.internalReset 1 s.boot.named

/-! ### Step 6 -/

/-- Every site and the self-test are done: step 7. -/
def State.stepSix (s : State) : State :=
  if s.boot.stage = 6 ∧ s.boot.selfTestDone ∧ (List.range 24).all fun i => (s.site i).state != .training then
    { s with boot := { s.boot with stage := 7 } }
  else s

/-- Lowest rate declared in the site's controller domain (02 R69; 09 R228). -/
def rateOf (r : Rec) (i : Nat) : Nat :=
  let ws := ((List.range 3).map fun j => siteWord r (i / 3 * 3 + j)).filter fun w => bfld w 62 2 != 0
  (ws.map fun w => bfld w 56 6).foldl min 63

/-- Kind-7 deltas of a site, in the image and in the delta area. -/
def State.rowDeltas (s : State) (i : Nat) : List Delta :=
  ((s.boot.image.map (·.deltas)).getD [] ++ s.emmc.deltas).filter fun d => d.kind == 7 && d.unit == i && d.crcOk

/-- A map entry that no delta records gets a device-written delta. The fault that led to it is not known: its CAUSE is a free
value. -/
def State.mapDelta (s : State) (i : Nat) (e : Nat × Nat) : State :=
  let d := s.draw
  d.1.queueDelta (d.1.mkDelta 7 i e.2 e.1 (d.2.setWidth 16).toNat)

/-- The union of the retirement map and the deltas governs (R423). -/
def State.mergeMap (s : State) (i : Nat) : State :=
  let ds := s.rowDeltas i
  let map := (s.site i).retmap
  let extra := (map.filter fun e => !ds.any fun d => d.index == e.1)
  let lacks := ds.filter fun d => !map.any fun e => e.1 == d.index
  let s := s.modSite i fun z => { z with retmap := z.retmap ++ (lacks.map fun d => (d.index, d.spare)).eraseDups }
  extra.foldl (fun s e => s.mapDelta i e) s

/-- SITE_TRAINING_COMPLETE (09 R226, R239): every addressable line is zero, class plain, residue 0. -/
def siteTrained (i : Nat) (ok : Bool) (s : State) : State :=
  let s := { s with boot := { s.boot with sitesDone := s.boot.sitesDone ||| BitVec.ofNat 32 (2 ^ i) } }
  if ok then
    let w := siteWord s.boot.cfg i
    let rate := rateOf s.boot.cfg i
    let s := s.modSite i fun z => { z with state := .ready, rate := rate, retrainIv := bfld w 40 16, lines := [], upsets := [] }
    (s.mergeMap i).stepSix
  else
    ((s.modSite i fun z => { z with state := .failed }).siteFault 0x0312 i 0 none none).stepSix

def execSiteTrainingComplete (i : Fin 24) (ok : Bool) (s : State) : R :=
  .next (if s.runs && s.boot.stage == 6 && (s.site i.val).state == .training then siteTrained i.val ok s else s)

/-! ### The spare map -/

/-- Apply a core, tile or PLL delta (02 R58, R59, R61). A third row or a third column retires the tile, whatever spares of the other kind
remain (log 58). -/
def Tile.take (t : Tile) (d : Delta) : Tile :=
  match d.kind with
  | 1 => if t.rows.contains d.index then t
         else if t.rows.length < 2 then { t with rows := sortBy id (d.index :: t.rows) } else { t with retired := true }
  | 2 => if t.cols.contains d.index then t
         else if t.cols.length < 2 then { t with cols := sortBy id (d.index :: t.cols) } else { t with retired := true }
  | 3 => { t with retired := true }
  | k => t.takePll k

/-- A lane delta: the lane is failed, and the port's spare stands in for it if it is free (10 R262). -/
def Port.takeLane (x : Port) (lane : Nat) : Port :=
  { x with laneFail := x.laneFail ||| BitVec.ofNat 9 (2 ^ lane),
           spareFor := if lane < 8 ∧ x.spareFor = 15 ∧ !x.laneFail.getLsbD 8 then lane else x.spareFor }

/-- Apply one delta of the spare map; one whose CRC fails is ignored and counted (R425). -/
def State.takeDelta (s : State) (d : Delta) : State :=
  if !d.crcOk then { s with flt := { s.flt with corr := satInc s.flt.corr } }
  else if d.kind = 6 then
    if d.unit < 6 ∧ d.index < 9 then s.modPort d.unit fun x => x.takeLane d.index else s
  else if d.unit < 16 then s.modTile d.unit fun t => t.take d
  else s

/-- The spare map in force before the deltas of this start-up: fuses, image, eMMC (14 R397). -/
def State.spareMap (s : State) : List Delta := s.otp.fuses ++ (s.boot.image.map (·.deltas)).getD [] ++ s.emmc.deltas

/-- Tile `t` as the spare map gives it. -/
def State.mapTile (s : State) (t : Nat) : Tile :=
  ((s.spareMap ++ s.boot.selfDeltas).filter fun d => d.unit == t && d.crcOk).foldl Tile.take (s.tile t)

/-- A delta of the self-test, which waits for the eMMC (14 R397). -/
def State.selfDelta (s : State) (kind t i : Nat) : State :=
  let d := s.mkDelta kind t 0 i 0x0906
  { s with boot := { s.boot with selfDeltas := s.boot.selfDeltas ++ [d] } }.queueDelta d

/-- A failing core retires its row if the tile has one left, otherwise its column, otherwise the tile (02 R60, R61). -/
def State.selfCore (s : State) (e : Nat × Nat × Nat) : State :=
  let t := e.1
  let x := s.mapTile t
  let s := s.fault { code := 0x0906, unitk := 2, unit := t, d1 := BitVec.ofNat 64 (e.2.1 * 256 + e.2.2) }
  if x.retired || x.rows.contains e.2.1 || x.cols.contains e.2.2 then s
  else if x.rows.length < 2 then s.selfDelta 1 t e.2.1
  else if x.cols.length < 2 then s.selfDelta 2 t e.2.2
  else (s.selfDelta 3 t 0).fault { code := 0x0211, unitk := 1, unit := t, d0 := (s.tile t).fault.word }

/-- A failing tile-store bank or patrol memory retires the tile (delta kind 3). -/
def State.selfTile (s : State) (t : Nat) : State :=
  let s := s.fault { code := 0x0906, unitk := 1, unit := t }
  if (s.mapTile t).retired then s
  else s.selfDelta 3 t 0

/-- SELF_TEST_COMPLETE (R424): every pocket, accumulator, tile store and patrol scratch holds zeros without a mark, and the patrol
memories hold the active slices. -/
def selfTest (r : SelfTestIn) (s : State) : State :=
  let s := { s with store := [], storePoison := [], cores := [], itg := { s.itg with scratch := [] } }.loadPatrol
  let s := (r.cores.filter fun e => decide (e.1 < 16 ∧ e.2.1 < 74 ∧ e.2.2 < 74)).foldl State.selfCore s
  let s := (r.tiles.filter fun t => decide (t < 16)).foldl State.selfTile s
  { s with boot := { s.boot with selfTestDone := true } }.stepSix

def execSelfTestComplete (r : SelfTestIn) (s : State) : R :=
  .next (if s.runs && s.boot.stage == 6 && !s.boot.selfTestDone then selfTest r s else s)

/-! ### Step 7 -/

/-- The bytes of the spare-map hash (R425): TIL_STEER of every tile, LANE_FAIL of every port, the retired row groups of each site. -/
def State.spareBytes (s : State) : List Byte :=
  (List.range 16).flatMap (fun t => leBytes 8 (s.tileView t).steer.toNat) ++
  (List.range 6).flatMap (fun p => leBytes 2 ((s.port p).laneFail).toNat) ++
  (List.range 24).flatMap fun i => (sortBy id ((s.site i).retmap.map (·.1))).flatMap fun g => leBytes 8 g

/-- Every port with a cable trains (10 R273); a module out of the domain trains all (R272). -/
def State.trainPorts (s : State) : State :=
  (List.range 6).foldl (fun s p =>
    if s.dom.out || (farEnd s.dom.shape s.dom.rank p).isSome then s.modPort p fun x => { x with state := .training } else s) s

/-- A retirement of this start-up whose delta is not yet written stays pending (14 R397). -/
def State.selfPending (s : State) (d : Delta) : State :=
  s.modTile d.unit fun t =>
    if d.kind = 1 then { t with pendRows := t.pendRows ++ [d.index] }
    else if d.kind = 2 then { t with pendCols := t.pendCols ++ [d.index] }
    else t

/-- SPARE_MAP_APPLY: fuses, image deltas, device deltas, and last those of this start-up that have been written, or lost to a full area; the
others wait (14 R397). Row-group deltas have been applied in step 6 and only count here where their CRC fails. -/
def spareMapApply (s : State) : State :=
  let wait := s.boot.selfDeltas.filter s.itg.deltas.contains
  let unheld := s.boot.selfDeltas.filter fun d => !s.itg.deltas.contains d && !s.emmc.deltas.contains d
  let all := s.spareMap ++ unheld
  let bad := (all.filter fun d => !d.crcOk && d.kind == 7).length
  let s := (all.filter fun d => d.kind != 7).foldl State.takeDelta s
  let s := wait.foldl State.selfPending s
  let s := { s with flt := { s.flt with corr := satAdd s.flt.corr bad } }
  { s with boot := { s.boot with stage := 8, mapDone := true, spHash := sha384 s.spareBytes } }.trainPorts

def execSpareMapApply (s : State) : R := .next (if s.runs && s.boot.stage == 7 then spareMapApply s else s)

end Sys2Proof.Machine
end

