-- ==== Sys2Proof/Machine/Matrix.lean ====
section
/-! DEFINITION. Matrix steps (03 R73 to R82, R95; 04 R113 to R115), accumulator handles (03 R83, R85), spills (03 R86,
R88, R104) and CHAIN. -/

namespace Sys2Proof.Machine

/-! ### Accumulator handles -/

def Core.handle (c : Core) (h : Nat) : Option AccTile := Sparse.get none c.acc h
def Core.setHandle (c : Core) (h : Nat) (a : Option AccTile) : Core := { c with acc := Sparse.set none c.acc h a }
/-- Handles bound; the accumulator memory holds eight tiles (03 R83, R85). -/
def Core.bound (c : Core) : Nat := c.acc.length

def AccTile.fresh (int32 : Bool) : AccTile := { int32 := int32, data := [], poison := false }
def AccTile.at (a : AccTile) (r c : Nat) : W32 := Sparse.get 0#32 a.data (32 * r + c)
def AccTile.put (a : AccTile) (r c : Nat) (v : W32) : AccTile := { a with data := Sparse.set 0#32 a.data (32 * r + c) v }

/-! ### MSTEP -/

/-- Cycles per group per cell (03 Table 3.2): the class is that of the wider operand (R74). -/
def cyclesPerGroup (fa fb g : Nat) : Nat :=
  let cls (f : Nat) : Nat := if f = 0 ∨ f = 5 then 0 else if f = 7 ∨ f = 8 then 2 else 1
  match max (cls fa) (cls fb) with
  | 0 => g / 2
  | 1 => g
  | _ => 2 * g

/-- Bytes of a panel (03 R77). -/
def panelBytes (fmt g : Nat) (scaled : Bool) : Nat := 32 * g * pocketBits fmt + (if scaled then 256 else 0)

/-- Element code `(row, group, i)` of a panel at `base` (03 R77). -/
def panelElem (m : Mem) (base fmt g row grp i : Nat) : Nat :=
  let w := pocketBits fmt
  let bit := ((row * 8 + grp) * g + i) * w
  let a := base + bit / 8
  if w = 4 then fld (Sparse.get 0#8 m a).toNat (bit % 8) 4
  else leNat (Mem.bytes m a (w / 8))

/-- Scale code of a group of a panel, none where the panel is read unscaled. -/
def panelScale (m : Mem) (base fmt g : Nat) (scaled : Bool) (row grp : Nat) : Option Nat :=
  if scaled then some (Sparse.get 0#8 m (base + 32 * g * pocketBits fmt + 8 * row + grp)).toNat else none

/-- What one core of the chain brings to a step: its pocket and the two panel addresses. -/
structure StepSrc where
  pocket : Mem
  a : Nat
  b : Nat
deriving DecidableEq, Repr

/-- In-range elements of cell group `grp` at chain position `pos` (04 R115: K index below KLEN). -/
def groupCount (g pos grp klen : Nat) : Nat := min g (klen - (8 * pos + grp) * g)

/-- Block partial of one cell for output `(m, n)` (04 R113). -/
def cellPartial (w : W128) (src : StepSrc) (pos grp m n : Nat) : W32 :=
  let g := groupLen (bfld w 103 2)
  let fa := bfld w 109 4
  let fb := bfld w 105 4
  let sa := bfld w 115 1 == 1
  let sb := bfld w 114 1 == 1
  blockPartial (panelScale src.pocket src.a fa g sa m grp) (panelScale src.pocket src.b fb g sb n grp)
    ((List.range (groupCount g pos grp (bfld w 77 14))).map fun i =>
      (elemVal fa sa (panelElem src.pocket src.a fa g m grp i), elemVal fb sb (panelElem src.pocket src.b fb g n grp i)))

/-- The integer sum of one cell (03 R75, INT32 type). -/
def cellInt (w : W128) (src : StepSrc) (pos grp m n : Nat) : Int :=
  let g := groupLen (bfld w 103 2)
  let fa := bfld w 109 4
  let fb := bfld w 105 4
  (List.range (groupCount g pos grp (bfld w 77 14))).foldl (fun x i =>
    x + sext (panelElem src.pocket src.a fa g m grp i) (pocketBits fa) *
        sext (panelElem src.pocket src.b fb g n grp i) (pocketBits fb)) 0

/-- Partials in chain order then cell order (03 R79). -/
def chainPartials {α : Type} (f : StepSrc → Nat → Nat → α) (srcs : List StepSrc) : List α :=
  srcs.zipIdx.flatMap fun p => (List.range 8).map fun grp => f p.1 p.2 grp

/-- The running sum that leaves the chain's bottom for output `(m, n)` (03 R79, 04 R115). -/
def chainSum (w : W128) (srcs : List StepSrc) (m n : Nat) : W32 :=
  if bfld w 116 1 = 1 then
    BitVec.ofInt 32 ((chainPartials (fun s p g => cellInt w s p g m n) srcs).foldl (· + ·) 0)
  else
    match chainPartials (fun s p g => cellPartial w s p g m n) srcs with
    | [] => 0#32
    | x :: xs => xs.foldl fadd x

/-- The new accumulator tile of a step (03 R82). -/
def stepTile (w : W128) (srcs : List StepSrc) (t : AccTile) : AccTile :=
  let add := bfld w 117 1 == 1
  let int32 := bfld w 116 1 == 1
  let k0 := bfld w 77 14 == 0
  if k0 && add then t
  else
    (List.range (bfld w 97 6)).foldl (fun t m => (List.range (bfld w 91 6)).foldl (fun t n =>
      let s := if k0 then 0#32 else chainSum w srcs m n
      t.put m n (if add then (if int32 then t.at m n + s else fadd (t.at m n) s) else s)) t) t

/-- Retired physical rows inside the chain (03 R80, 02 R62). -/
def chainRetired (s : State) (keys : List Nat) : Nat :=
  (keys.zip keys.tail).foldl (fun x p =>
    if keyTile p.1 = keyTile p.2 then
      let r := (s.tile (keyTile p.1)).rows
      x + (physIdx r (keyRow p.2) - physIdx r (keyRow p.1) - 1)
    else x) 0

/-- Cycles from issue to retire of a step (03 R80). -/
def stepCycles (s : State) (w : W128) (keys : List Nat) : Nat :=
  let seam := keys.any fun k => keyTile k != keyTile (keys.headD 0)
  128 * cyclesPerGroup (bfld w 109 4) (bfld w 105 4) (groupLen (bfld w 103 2)) + 9 * keys.length + 4 +
    (if seam then 6 else 0) + chainRetired s keys

/-- The panels a core brings. -/
def stepSrc (w : W128) (c : Core) : StepSrc :=
  { pocket := c.pocket, a := bfld w 41 16 + (c.areg (bfld w 69 4)).toNat, b := bfld w 9 16 + (c.areg (bfld w 37 4)).toNat }

def panelA (w : W128) : Nat := panelBytes (bfld w 109 4) (groupLen (bfld w 103 2)) (bfld w 115 1 == 1)
def panelB (w : W128) : Nat := panelBytes (bfld w 105 4) (groupLen (bfld w 103 2)) (bfld w 114 1 == 1)

/-- The step has an extent of 0: it writes nothing, binds nothing and raises no fault (03 R82). -/
def stepEmpty (w : W128) : Bool := bfld w 97 6 == 0 || bfld w 91 6 == 0

/-- Every core of the chain retires the step. -/
def stepRetire (w : W128) (keys : List Nat) (lat : Nat) (s : State) : State :=
  keys.foldl (fun s k => s.modCore k fun c =>
    (({ c with atStep := false }.incAreg (bfld w 69 4) (bfld w 57 12) 12 16).incAreg (bfld w 37 4) (bfld w 25 12) 12 16).retire
      lat) s

/-- The step's tile goes to the bottom core, and the step retires on every core of the chain. -/
def stepRun (w : W128) (keys : List Nat) (poison : Bool) (t : AccTile) (s : State) : State :=
  let t' := stepTile w ((keys.map s.core).map (stepSrc w)) t
  let t' := if bfld w 117 1 == 1 && bfld w 77 14 == 0 then t' else { t' with poison := t'.poison || poison }
  stepRetire w keys (stepCycles s w keys) (s.modCore (keys.getLastD 0) fun c => c.setHandle (bfld w 73 4) (some t'))

/-- The step takes effect on the bottom core once every core of the chain has reached it (03 R81 to R83). -/
def stepEffect (w : W128) (keys : List Nat) (s : State) : State :=
  let bot := keys.getLastD 0
  let cores := keys.map s.core
  let srcs := cores.map (stepSrc w)
  if stepEmpty w then stepRetire w keys (stepCycles s w keys) s
  else
    let b := s.core bot
    let h := bfld w 73 4
    let int32 := bfld w 116 1 == 1
    let add := bfld w 117 1 == 1
    let poison := (cores.zip srcs).any fun p =>
      anyMark p.1.pocketPoison p.2.a (panelA w) || anyMark p.1.pocketPoison p.2.b (panelB w)
    match b.handle h with
    | none =>
      if add then s.coreFault bot 0x0205
      else if 8 ≤ b.bound then s.coreFault bot 0x0204
      else stepRun w keys poison (AccTile.fresh int32) s
    | some t => if t.int32 != int32 then s.coreFault bot 0x0206 else stepRun w keys poison t s

/-- MSTEP reaches core `k`: the core waits until its whole chain has reached the step (03 R81). -/
def mstepBody (k : Nat) (w : W128) (c : Core) (s : State) : State :=
  let src := stepSrc w c
  if !stepEmpty w && !(pocketOk src.a (panelA w) 32 && pocketOk src.b (panelB w) 32) then s.coreFault k 0x0203
  else
    let s := s.modCore k fun c => { c with atStep := true }
    let keys := chainKeys s k
    if keys.all fun j =>
        let d := s.core j
        d.active && d.atStep && d.plan == c.plan && d.prog + d.pc == c.prog + c.pc
    then stepEffect w keys s else s

def execMstep (k : CoreId) (s : State) : R :=
  .next (coreIssue (coreKey k) (fun w => opc w == 0x01) (mstepBody (coreKey k)) s)

/-! ### ACC -/

def accOp (w : W128) (op : Nat) : Bool := opc w == 0x0A && (bfld w 116 2 == op || bfld w 116 2 == 3)

/-- ACC alloc (03 R83, R85). -/
def allocBody (k : Nat) (w : W128) (c : Core) (s : State) : State :=
  let h := bfld w 112 4
  match c.handle h with
  | some _ => s.retire k 1
  | none =>
    if 8 ≤ c.bound then s.coreFault k 0x0204
    else (s.modCore k fun c => c.setHandle h (some (AccTile.fresh (bfld w 111 1 == 1)))).retire k 1

/-- ACC free (03 R83). -/
def freeBody (k : Nat) (w : W128) (c : Core) (s : State) : State :=
  let h := bfld w 112 4
  match c.handle h with
  | none => s.coreFault k 0x0205
  | some _ => (s.modCore k fun c => c.setHandle h none).retire k 1

/-- ACC zero (03 R83, R104, R107). -/
def zeroBody (k : Nat) (w : W128) (c : Core) (s : State) : State :=
  let h := bfld w 112 4
  match c.handle h with
  | none => s.coreFault k 0x0205
  | some t => (s.modCore k fun c => c.setHandle h (some (AccTile.fresh t.int32))).retire k 1

def execAccAlloc (k : CoreId) (s : State) : R :=
  .next (coreIssue (coreKey k) (fun w => accOp w 0) (allocBody (coreKey k)) s)
def execAccFree (k : CoreId) (s : State) : R :=
  .next (coreIssue (coreKey k) (fun w => accOp w 1) (freeBody (coreKey k)) s)
def execAccZero (k : CoreId) (s : State) : R :=
  .next (coreIssue (coreKey k) (fun w => accOp w 2) (zeroBody (coreKey k)) s)

/-! ### SPILL -/

/-- A wide-buffer element in the tile store (03 R86). -/
def State.wideAt (s : State) (base m n : Nat) : W64 :=
  BitVec.ofNat 64 (leNat (Mem.bytes s.store (base + 256 * m + 8 * n) 8))

/-- One element of an add or overwrite spill. -/
def spillElem (mode : Nat) (wide : W64) (acc : W32) : W64 :=
  if mode = 0 then toF64 ((f64 wide).add (f32 acc)) else toF64 (f32 acc)

/-- A spill retires, its index register stepped. -/
def spillDone (k : Nat) (w : W128) (s : State) (lat : Nat) : State :=
  (s.modCore k fun c => c.incAreg (bfld w 77 4) (bfld w 67 10) 10 256).retire k lat

/-- SPILL (03 R86, R88, R104). It waits while the core's held words wait for its twin's copy (03 R89, 14 R393). -/
def spillBody (k : Nat) (w : W128) (c : Core) (s : State) : State :=
  let mode := bfld w 116 2
  let h := bfld w 112 4
  let mr := bfld w 106 6
  let nc := bfld w 100 6
  let off := bfld w 81 19 * 256 + (c.areg (bfld w 77 4)).toNat
  if !c.twin.isEmpty then s
  else match c.handle h with
  | none => s.coreFault k 0x0205
  | some t =>
    if t.int32 then s.coreFault k 0x0206
    else if off % 256 ≠ 0 ∨ 0x8000000 < off + 8192 then s.coreFault k 0x0201
    else if mr = 0 ∨ nc = 0 then spillDone k w s 1
    else
      let base := tileAddr (keyTile k) off
      let lat := 16 + 2 * mr
      if mode = 2 then
        let poison := (List.range mr).any fun m => anyMark s.storePoison (base + 256 * m) (8 * nc)
        let t' := (List.range mr).foldl (fun t m => (List.range nc).foldl (fun t n =>
          t.put m n (toF32 (f64 (s.wideAt base m n)))) t) t
        spillDone k w (s.modCore k fun c => c.setHandle h (some { t' with poison := t'.poison || poison })) lat
      else
        let back := mode == 0 && (List.range mr).any fun m => anyMark s.storePoison (base + 256 * m) (8 * nc)
        let poison := t.poison || back
        let s' := (List.range mr).foldl (fun z m =>
          z.spillWrite k (base + 256 * m)
            (((List.range nc).flatMap fun n => leBytes 8 (spillElem mode (s.wideAt base m n) (t.at m n)).toNat).map
              fun b => (b, poison))) s
        let t' := (List.range mr).foldl (fun t m => (List.range nc).foldl (fun t n => t.put m n 0#32) t) t
        spillDone k w (s'.modCore k fun c => c.setHandle h (some { t' with poison := poison })) lat

def execSpill (k : CoreId) (s : State) : R :=
  .next (coreIssue (coreKey k) (fun w => opc w == 0x09) (spillBody (coreKey k)) s)

/-! ### CHAIN -/

/-- CHAIN sets the chain length (03 R78, R104); every earlier MSTEP has retired, since a core does not issue past one. -/
def chainBody (k : Nat) (w : W128) (_ : Core) (s : State) : State :=
  (s.modCore k fun c => { c with chain := bfld w 115 3 + 1 }).retire k 1

def execChain (k : CoreId) (s : State) : R :=
  .next (coreIssue (coreKey k) (fun w => opc w == 0x0D) (chainBody (coreKey k)) s)

end Sys2Proof.Machine
end

