-- ==== Sys2Proof/Machine/Transfer.lean ====
section
/-! DEFINITION. PLD and PST (03 R91, R96, R97; 05 R151) and the hold of a primary core's tile-store writes under redundancy
(14 R393). -/

namespace Sys2Proof.Machine

/-- Write bytes into a core's pocket. -/
def Core.putPocket (c : Core) (a : Nat) (bs : List (Byte × Bool)) : Core :=
  { c with pocket := Mem.put c.pocket a (bs.map (·.1)), pocketPoison := putMarks c.pocketPoison a (bs.map (·.2)) }

/-- Cycles of a row or run of tile-store bytes (03 R91). -/
def runCycles (a n : Nat) : Nat := if a % 256 = 0 then ceilDiv n 64 else ceilDiv n 32

/-! ### Direct form -/

def pad32n (n : Nat) : Nat := ceilDiv n 32 * 32

/-- Tile-store offset of row `i` and pocket address of row `i` (03 R96). -/
def xferRow (w : W128) (c : Core) (i : Nat) : Nat × Nat :=
  (bfld w 83 27 + (c.areg (bfld w 79 4)).toNat + i * (bfld w 46 12 * 32),
   bfld w 30 16 + (c.areg (bfld w 26 4)).toNat + i * pad32n (bfld w 58 12))

/-- First fault of the rows' tile-store accesses (02 R57 before 01 R29). -/
def xferFault (s : State) (plan : Nat) (w : W128) (c : Core) : Option Nat :=
  (List.range (bfld w 70 9)).findSome? fun i =>
    if 0x8000000 < (xferRow w c i).1 + bfld w 58 12 then some 0x0201
    else s.accessFault plan (tileAddr (bfld w 110 4) (xferRow w c i).1)

/-- Retire a direct transfer with its increments. -/
def xferDone (k : Nat) (w : W128) (lat : Nat) (s : State) : State :=
  (s.modCore k fun c => (c.incAreg (bfld w 79 4) (bfld w 16 10) 10 256).incAreg (bfld w 26 4) (bfld w 6 10) 10 16).retire k lat

def xferDirect (k : Nat) (load : Bool) (w : W128) (c : Core) (s : State) : State :=
  let rows := bfld w 70 9
  let len := bfld w 58 12
  let t := bfld w 110 4
  if rows = 0 ∨ len = 0 then xferDone k w 0 s
  else if !pocketOk (xferRow w c 0).2 (rows * pad32n len) 32 then s.coreFault k 0x0203
  else
    match xferFault s c.plan w c with
    | some code => s.coreFault k code
    | none =>
      let cyc := 16 + ((List.range rows).map fun i => runCycles (xferRow w c i).1 len).foldl (· + ·) 0
      if load then
        xferDone k w cyc (s.modCore k fun c' =>
          (List.range rows).foldl (fun z i =>
            z.putPocket (xferRow w c i).2 (markedBytes s.store s.storePoison (tileAddr t (xferRow w c i).1) len)) c')
      else
        xferDone k w (cyc + (if s.twinRole k = .primary then 48 else 0))
          ((List.range rows).foldl (fun z i =>
            z.coreWrite k (tileAddr t (xferRow w c i).1)
              (markedBytes c.pocket c.pocketPoison (xferRow w c i).2 len)) s)

/-! ### Descriptor form -/

/-- Cycles of the runs of consecutive bytes among ascending addresses. -/
def runsOf : List Nat → List (Nat × Nat)
  | [] => []
  | a :: as =>
    match runsOf as with
    | r :: rs => if r.1 = a + 1 then (a, r.2 + 1) :: rs else (a, 1) :: r :: rs
    | [] => [(a, 1)]

def descCycles (bytes : List Nat) : Nat :=
  16 + ((runsOf (sortBy id bytes.eraseDups)).map fun r => runCycles r.1 r.2).foldl (· + ·) 0

/-- Pocket bytes of codes at a pocket width. -/
def packCodes (pw : Nat) (l : List (Nat × Bool)) : List (Byte × Bool) :=
  if pw = 4 then
    (List.range (ceilDiv l.length 2)).map fun i =>
      let lo := l.getD (2 * i) (0, false)
      let hi := l.getD (2 * i + 1) (0, false)
      (BitVec.ofNat 8 (lo.1 % 16 + 16 * (hi.1 % 16)), lo.2 || hi.2)
  else l.flatMap fun e => (leBytes (pw / 8) e.1).map fun b => (b, e.2)

/-- Code `i` and its mark at pocket width `pw` from address `a`. -/
def pocketCode (c : Core) (a pw i : Nat) : Nat × Bool :=
  if pw = 4 then
    (fld (Sparse.get 0#8 c.pocket (a + i / 2)).toNat (i % 2 * 4) 4, Sparse.get false c.pocketPoison ((a + i / 2) / 32))
  else
    let x := a + i * pw / 8
    (leNat (Mem.bytes c.pocket x (pw / 8)), anyMark c.pocketPoison x (pw / 8))

def descDone (k : Nat) (w : W128) (lat : Nat) (s : State) : State :=
  (s.modCore k fun c => c.incAreg (bfld w 69 4) (bfld w 59 10) 10 16).retire k lat

/-- Element positions and number of scale codes that a descriptor transfer of descriptor `n` covers; a window view is
gathered (07 R181). -/
structure BlockShape where
  elems : List (Option (List Nat))
  scales : List (Option (List Nat))
  gather : Bool
deriving DecidableEq, Repr

def blockShape (p : Plan) (n : Nat) (d : Desc) (o0 o1 o2 : Nat) (load : Bool) : BlockShape :=
  match (if load then p.windowOf n else none) with
  | some w =>
    let ps := gatherBlock p d w o0 o1 o2
    { elems := ps, scales := List.replicate 256 none, gather := true }
  | none => { elems := d.block o0 o1 o2, scales := d.scaleBlock o0 o1 o2, gather := false }

/-- Bytes that a block takes in the pocket: elements, then scale codes. -/
def BlockShape.bytes (b : BlockShape) (pw : Nat) : Nat := ceilDiv (b.elems.length * pw) 8 + b.scales.length

/-- The codes a PLD writes for what a block read gave (05 Table 5.9). -/
def loadedBytes (d : Desc) (b : BlockIn) : List (Byte × Bool) :=
  packCodes d.pw (b.elems.map fun e => match e with
    | some (code, mark) => (unpack d.etype code, mark)
    | none => (unpack d.etype d.fill, false)) ++
  b.scales.map fun e => match e with
    | some (code, mark) => (BitVec.ofNat 8 code, mark)
    | none => (127#8, false)

def descLoad (k : Nat) (w : W128) (c : Core) (p : Plan) (n : Nat) (d : Desc) (base : Nat) (s : State) : State :=
  let b := blockShape p n d (c.areg (bfld w 97 4)).toNat (c.areg (bfld w 93 4)).toNat (c.areg (bfld w 89 4)).toNat true
  if b.elems.length = 0 then descDone k w 0 s
  else if !pocketOk base (b.bytes d.pw) 32 then s.coreFault k 0x0203
  else
    match s.readBlock (coreUnit k) c.plan p d b.elems b.scales with
    | .fault code a => s.coreAccess k code a
    | .wait s => s
    | .ok s r =>
      descDone k w (descCycles r.bytes)
        ((s.finishXfer (coreUnit k) c.plan []).modCore k fun c => c.putPocket base (loadedBytes d r))

/-- Writes of a PST: tile-store bytes of a primary are held (14 R393), all others are made. -/
def State.coreBytes (s : State) (k plan : Nat) (bs : List ByteOut) : State :=
  match s.twinRole k with
  | .none => s.finishXfer (coreUnit k) plan bs
  | role =>
    let inStore := bs.filter fun b => decide (storeBase ≤ b.addr)
    let s' := s.finishXfer (coreUnit k) plan (bs.filter fun b => decide (b.addr < storeBase))
    if role = .twin then s'
    else
      let lines := (outLines inStore).map fun n => s.lineOut n (inStore.filter fun b => b.addr / 256 == n)
      let words := lines.flatMap fun l =>
        let as := (List.range 256).filter l.valid.getLsbD
        (runsOf as).flatMap fun r => heldWords (256 * l.num + r.1)
          ((List.range r.2).map fun i => (l.data.extractLsb' (8 * (r.1 + i)) 8, l.marks.getLsbD ((r.1 + i) / 32)))
      s'.modCore k fun c => { c with twin := c.twin ++ words }

def descStore (k : Nat) (w : W128) (c : Core) (p : Plan) (n : Nat) (d : Desc) (base : Nat) (s : State) : State :=
  let b := blockShape p n d (c.areg (bfld w 97 4)).toNat (c.areg (bfld w 93 4)).toNat (c.areg (bfld w 89 4)).toNat false
  if b.elems.length = 0 then descDone k w 0 s
  else if !pocketOk base (b.bytes d.pw) 32 then s.coreFault k 0x0203
  else
    let es := b.elems.zipIdx.filterMap fun e => e.1.map fun idx =>
      let v := pocketCode c base d.pw e.2
      (idx, v.1 % 2 ^ d.w, v.2)
    let sbase := base + ceilDiv (b.elems.length * d.pw) 8
    let ss := b.scales.zipIdx.filterMap fun e => e.1.map fun idx =>
      (idx, (Sparse.get 0#8 c.pocket (sbase + e.2)).toNat, Sparse.get false c.pocketPoison ((sbase + e.2) / 32))
    let out := d.blockOut p es ss
    match s.writable (coreUnit k) c.plan out with
    | .fault code a => s.coreAccess k code a
    | .wait s => s
    | .ok s =>
      let cyc := descCycles ((out.map (·.addr)).filter fun a => decide (storeBase ≤ a))
      descDone k w (cyc + (if s.twinRole k = .primary then 48 else 0)) (s.coreBytes k c.plan out)

/-- A descriptor number beyond the plan's table names an empty tensor (log 46). -/
def xferDesc (k : Nat) (load : Bool) (w : W128) (c : Core) (s : State) : State :=
  match s.img? c.plan with
  | none => s
  | some p =>
    let n := bfld w 101 16
    let d : Desc := p.descs.getD n 0#1024
    if d.empty then descDone k w 0 s
    else
      let base := bfld w 73 16 + (c.areg (bfld w 69 4)).toNat
      if load then descLoad k w c p n d base s else descStore k w c p n d base s

/-- A core whose held words still wait for its twin's copy has a conflicting access pending (03 R89): its next PLD or SPILL
issues when they are written. -/
def pldBody (k : Nat) (w : W128) (c : Core) (s : State) : State :=
  if !c.twin.isEmpty || s.stalled (coreUnit k) then s
  else if bfld w 117 1 = 0 then xferDirect k true w c s else xferDesc k true w c s

def pstBody (k : Nat) (w : W128) (c : Core) (s : State) : State :=
  if s.stalled (coreUnit k) then s
  else if bfld w 117 1 = 0 then xferDirect k false w c s else xferDesc k false w c s

/-- PLD (03 R96, R97). -/
def execPld (k : CoreId) (s : State) : R :=
  .next (coreIssue (coreKey k) (fun w => opc w == 0x02) (pldBody (coreKey k)) s)

/-- PST (03 R96, R97). -/
def execPst (k : CoreId) (s : State) : R :=
  .next (coreIssue (coreKey k) (fun w => opc w == 0x03) (pstBody (coreKey k)) s)

end Sys2Proof.Machine
end

