-- ==== Sys2Proof/Machine/ValidateProg.lean ====
section
/-! DEFINITION. What plan validation finds in slot programs: their extent (03 R476), the instructions they run with every loop at its
declared count (03 R84, R475), what a core's run does, and the checks over such runs that need no nest record: scale flags (03 R95), pocket use (06 R168), the bytes a
slot reads and writes (06 R169; 15 R429), cycles (07 R193), tokens (03 R102, R103, R475), formats (03 R74, R99; 04 R112). -/

namespace Sys2Proof.Machine

/-! ### Programs -/

/-- Words of the program at an address, its first END included; none without one (03 R476). -/
def Plan.progWords (q : Plan) (addr : Nat) : Option (List W128) :=
  let l := q.programs.drop addr
  (l.findIdx? fun w => opc w == 0x0F).map fun e => l.take (e + 1)

/-- No LOOP's body includes the END or reaches beyond it. -/
def loopsEnd (ws : List W128) : Bool :=
  ws.zipIdx.all fun e => opc e.1 != 0x0B || decide (e.2 + bfld e.1 94 8 + 1 < ws.length)

/-- The instructions from `lo` up to `hi` as they run, each with its index, loops at their COUNT fields, which are the largest they
take. The first number bounds the recursion. -/
def unroll (ws : List W128) : Nat → Nat → Nat → List (Nat × W128)
  | 0, _, _ => []
  | f + 1, lo, hi =>
    if hi ≤ lo then []
    else
      let w := ws.getD lo 0
      if opc w = 0x0B then
        let e := min hi (lo + 1 + bfld w 94 8)
        (lo, w) :: ((List.replicate (bfld w 102 16) (unroll ws f (lo + 1) e)).flatten ++ unroll ws f e hi)
      else (lo, w) :: unroll ws f (lo + 1) hi

/-- One instruction of a run: the chain length in force at it (03 R78), its index in the program, the word. -/
structure Ran where
  l : Nat
  i : Nat
  w : W128
deriving DecidableEq, Repr

def withChain : Nat → List (Nat × W128) → List Ran
  | _, [] => []
  | l, x :: xs => { l := l, i := x.1, w := x.2 } :: withChain (if opc x.2 = 0x0D then bfld x.2 115 3 + 1 else l) xs

/-- The run of the program at an address. -/
def Plan.run (q : Plan) (addr : Nat) : List Ran :=
  match q.progWords addr with
  | some ws => withChain 1 (unroll ws (ws.length + 1) 0 ws.length)
  | none => []

def Plan.trace (q : Plan) (addr : Nat) : List W128 := (q.run addr).map (·.w)

/-- Row `r` of a slot runs the instruction: its predicate selects the row's chain position (03 R92). -/
def Ran.selects (x : Ran) (r : Nat) : Bool :=
  match pred x.w with
  | 0 => true
  | 1 => r % x.l == x.l - 1
  | 2 => r % x.l == 0
  | _ => false

/-! ### Slot entries and the nests they realise -/

/-- Core slots of the plan's frame tables. -/
def Plan.coreSlots (q : Plan) : List SlotEntry := q.tables.flatten.filter fun e => e.kind == .cores

/-- Entries that a frame runs, each with its sequencer (01 R19). -/
def Plan.frameSlots (q : Plan) (row : List Nat) : List (Nat × SlotEntry) :=
  row.zipIdx.flatMap fun x => (q.table x.1).map fun e => (x.2, e)

/-- The parts of slot programs that realise nest `k` (06 R155; log 4). -/
def Plan.parts (q : Plan) (k : Nat) : List NestPart := q.nestProgs.getD k []
/-- Addresses of the slot programs that realise nest `k`. -/
def Plan.nestAddrs (q : Plan) (k : Nat) : List Nat := ((q.parts k).map (·.addr)).eraseDups
/-- Numbers of the nests that instruction `i` of the program at `addr` realises. -/
def Plan.nestsAt (q : Plan) (addr i : Nat) : List Nat :=
  (List.range q.nests.length).filter fun k => (q.parts k).any fun p => p.addr == addr && decide (p.lo ≤ i ∧ i < p.hi)

def nestLive (n : Rec) : Nat := rf n 0 40 4
def nestS (n : Rec) : Nat := rf n 0 27 13
def nestL (n : Rec) : Nat := rf n 0 24 3 + 1
def nestG (n : Rec) : Nat := 16 * 2 ^ rf n 0 22 2
def nestAcct (n : Rec) : Nat := rf n 0 21 1
def nestFuse (n : Rec) : Nat := rf n 0 44 4
def nestNext (n : Rec) : Nat := rf n 0 48 16
def nestK (n : Rec) : Nat := rf n 3 0 32
def Plan.nest (q : Plan) (k : Nat) : Rec := q.nests.getD k []

/-- The first nest of a fused pair whose second is nest `k` (06 R171). -/
def Plan.fusedFirst (q : Plan) (k : Nat) : Option Rec := q.nests.find? fun f => nestFuse f != 0 && nestNext f == k

/-- Declared counts of live accumulator tiles at an instruction: LIVE of each nest that it realises, the first record's for the second
nest of a fused pair, and 8 outside every nest (03 R84, 06 R166). -/
def Plan.liveAt (q : Plan) (addr i : Nat) : List Nat :=
  match q.nestsAt addr i with
  | [] => [8]
  | ks => ks.map fun k => nestLive ((q.fusedFirst k).getD (q.nest k))

/-! ### What a core's run does -/

/-- What one instruction of a core does, with its index: a matrix step with its panels, a transfer, a vector access of the pocket, an
operation on a handle, a spill, or the END. -/
inductive Act where
  | step (i l : Nat) (bottom : Bool) (w : W128) (a b : Nat)
  /-- descriptor and origins of a descriptor form, or the device addresses of a direct form's rows, first and end; pocket address and
  bytes; whether the bytes carry scales. -/
  | xfer (i : Nat) (load : Bool) (desc : Option (Nat × Nat × Nat × Nat)) (rows : List (Nat × Nat)) (a len : Nat) (scaled : Bool)
  | vec (i : Nat) (write : Bool) (a len : Nat) (scaled : Bool)
  /-- `op`: 0 alloc, 1 free, 2 zero, 3 a read by VLD, 4 a write by VST, of half row `half` = 2 · row + half. -/
  | acc (i op h half : Nat)
  /-- `addr`: byte offset of the wide-buffer tile in the core's tile store. A spill with MR or NC of 0 is none (03 R106). -/
  | spill (i mode h addr : Nat)
  | fin (i : Nat)
deriving DecidableEq, Repr

/-- A core's registers and what it has done, newest first. -/
structure CoreRun where
  core : Core
  acts : List Act

/-- Bytes of a block in the pocket. -/
def Desc.pocketBytes (d : Desc) : Nat :=
  let n := d.ext 0 * d.ext 1 * d.ext 2
  ceilDiv (n * d.pw) 8 + (if d.scaled then n / d.gsz else 0)

/-- Bytes of the panel that a window gather fills (07 R181). -/
def Plan.viewBytes (q : Plan) (d : Desc) (r : Rec) : Nat := 32 * (q.nestOf d r).2 * d.pw + 256

/-- Value that an ADDR gives in a static run; a count word, known only at run time, is taken as 0 (log 38). -/
def staticAddr (c : Core) (k : Nat) (w : W128) : W32 :=
  let imm := bfld w 79 32
  match bfld w 115 3 with
  | 0 => BitVec.ofNat 32 imm
  | 1 => c.areg (bfld w 111 4) + BitVec.ofNat 32 imm
  | 2 => BitVec.ofNat 32 (c.chainIdx k * (imm / 65536) + (globalCol k - c.left) * (imm % 65536))
  | 3 => BitVec.ofNat 32 (c.chainPos k * (imm % 65536))
  | _ => 0

/-- Registers of core `k` after an instruction that it executes. -/
def staticRegs (c : Core) (k : Nat) (w : W128) : Core :=
  let direct := bfld w 117 1 == 0
  match opc w with
  | 0x01 => (c.incAreg (bfld w 69 4) (bfld w 57 12) 12 16).incAreg (bfld w 37 4) (bfld w 25 12) 12 16
  | 0x02 | 0x03 =>
    if direct then (c.incAreg (bfld w 79 4) (bfld w 16 10) 10 256).incAreg (bfld w 26 4) (bfld w 6 10) 10 16
    else c.incAreg (bfld w 69 4) (bfld w 59 10) 10 16
  | 0x04 => if direct then c.incAreg (bfld w 88 4) (bfld w 78 10) 10 16 else c
  | 0x05 => if direct then (c.incAreg (bfld w 77 4) (bfld w 67 10) 10 16).incAreg (bfld w 47 4) (bfld w 37 10) 10 1 else c
  | 0x09 => c.incAreg (bfld w 77 4) (bfld w 67 10) 10 256
  | 0x0C => c.setAreg (bfld w 111 4) (staticAddr c k w)
  | 0x0D => { c with chain := bfld w 115 3 + 1 }
  | _ => c

/-- What an instruction does on a core with the given registers. -/
def Plan.actsOf (q : Plan) (c : Core) (k : Nat) (x : Ran) : List Act :=
  let w := x.w
  let at_ (base reg : Nat) : Nat := base + (c.areg reg).toNat
  let direct := bfld w 117 1 == 0
  match opc w with
  | 0x01 => [.step x.i x.l (c.isBottom k) w (at_ (bfld w 41 16) (bfld w 69 4)) (at_ (bfld w 9 16) (bfld w 37 4))]
  | 0x02 | 0x03 =>
    if direct then
      let n := bfld w 58 12
      let rows := (List.range (bfld w 70 9)).map fun i => let a := tileAddr (bfld w 110 4) (xferRow w c i).1; (a, a + n)
      [.xfer x.i (opc w == 0x02) none (rows.filter fun r => decide (r.1 < r.2)) (at_ (bfld w 30 16) (bfld w 26 4)) (bfld w 70 9 * pad32n n) false]
    else
      let n := bfld w 101 16
      let d : Desc := q.descs.getD n 0
      let o (lo : Nat) : Nat := (c.areg (bfld w lo 4)).toNat
      [.xfer x.i (opc w == 0x02) (some (n, o 97, o 93, o 89)) [] (at_ (bfld w 73 16) (bfld w 69 4))
        (match q.windowOf n with
          | some r => q.viewBytes d r
          | none => d.pocketBytes) (d.scaled || (q.windowOf n).isSome)]
  | 0x04 =>
    if direct then [.vec x.i false (at_ (bfld w 92 16) (bfld w 88 4)) (2 * pocketBits (bfld w 108 4)) false]
    else [.acc x.i 3 (bfld w 108 4) (2 * bfld w 103 5 + bfld w 102 1)]
  | 0x05 =>
    if direct then
      let n := bfld w 97 8
      .vec x.i true (at_ (bfld w 81 16) (bfld w 77 4)) (ceilDiv (n * pocketBits (bfld w 108 4)) 8) (bfld w 105 1 == 1) ::
        (if bfld w 105 1 = 1 ∧ n ≠ 0 then [.vec x.i true (at_ (bfld w 51 16) (bfld w 47 4)) 1 true] else [])
    else [.acc x.i 4 (bfld w 108 4) (2 * bfld w 103 5 + bfld w 102 1)]
  | 0x09 =>
    if bfld w 106 6 = 0 ∨ bfld w 100 6 = 0 then []
    else [.spill x.i (bfld w 116 2) (bfld w 112 4) (at_ (bfld w 81 19 * 256) (bfld w 77 4))]
  | 0x0A => [.acc x.i (bfld w 116 2) (bfld w 112 4) 0]
  | 0x0F => [.fin x.i]
  | _ => []

/-- One instruction of core `k`; one that its predicate excludes does nothing. -/
def CoreRun.step (q : Plan) (k : Nat) (p : CoreRun) (x : Ran) : CoreRun :=
  if p.core.excluded k x.w then p
  else { core := staticRegs p.core k x.w, acts := (q.actsOf p.core k x).reverse ++ p.acts }

/-- What core `k` of a slot does, in order. -/
def Plan.acts (q : Plan) (e : SlotEntry) (k : Nat) : List Act :=
  ((q.run e.addr).foldl (CoreRun.step q k) { core := Core.reset.begin 0 e e.top e.left, acts := [] }).acts.reverse

/-- Index of an act's instruction. -/
def Act.idx : Act → Nat
  | .step i _ _ _ _ _ => i
  | .xfer i _ _ _ _ _ _ => i
  | .vec i _ _ _ _ => i
  | .acc i _ _ _ => i
  | .spill i _ _ _ => i
  | .fin i => i

/-! ### Scale flags (03 R95) -/

/-- Pocket bytes that an act writes: first, end, and whether they carry scales. -/
def Act.writes : Act → Option (Nat × Nat × Bool)
  | .xfer _ true _ _ a len scaled => some (a, a + len, scaled)
  | .vec _ true a len scaled => some (a, a + len, scaled)
  | _ => none

/-- Flag with which the byte at `a` was written last; `ws` newest first. -/
def flagAt (ws : List (Nat × Nat × Bool)) (a : Nat) : Option Bool := (ws.find? fun r => decide (r.1 ≤ a ∧ a < r.2.1)).map (·.2.2)

/-- A flag agrees with the operand as it was written last. One that nothing has written yet is an operand of the last kind of R95, whose
flag is 0, unless the run before this one is not known (`first`). -/
def flagFits (first : Bool) (ws : List (Nat × Nat × Bool)) (a : Nat) (flag : Bool) : Bool :=
  match flagAt ws a with
  | some b => b == flag
  | none => first || !flag

def flagAct (first : Bool) (p : List (Nat × Nat × Bool) × Bool) (x : Act) : List (Nat × Nat × Bool) × Bool :=
  match x with
  | .step _ _ _ w a b =>
    (p.1, p.2 && (stepEmpty w || (flagFits first p.1 a (bfld w 115 1 == 1) && flagFits first p.1 b (bfld w 114 1 == 1))))
  | y => ((y.writes.map (· :: p.1)).getD p.1, p.2)

/-- Core slots of a frame on core `k`, in order of their start. -/
def Plan.slotsOn (q : Plan) (row : List Nat) (k : Nat) : List SlotEntry :=
  sortBy (·.start) (((q.frameSlots row).map (·.2)).filter fun e => e.kind == .cores && e.cores.contains k)

/-- Scale flags of core `k` over frames in order, from what its pocket holds, which it keeps from slot to slot (03 R105). -/
def Plan.flagFrames (q : Plan) (k : Nat) (first : Bool) (rows : List (List Nat)) (p : List (Nat × Nat × Bool) × Bool) :
    List (Nat × Nat × Bool) × Bool :=
  (rows.flatMap fun row => q.slotsOn row k).foldl (fun p e => (q.acts e k).foldl (flagAct first) p) p

/-- Scale flags of core `k`: the frames of each step table run after `before` and then again and again; what the last step left is
known from the second pass on. -/
def Plan.flagsOn (q : Plan) (k : Nat) (before : List (List Nat)) : Bool :=
  let a := q.flagFrames k false before ([], true)
  a.2 && q.steps.all fun t => (q.flagFrames k false t.frames (q.flagFrames k true t.frames a)).2

/-- Scale flags of every step on every core, after the init frames and after the restore frames. -/
def Plan.flagsOk (q : Plan) : Bool :=
  ((q.coreSlots.flatMap SlotEntry.cores).eraseDups).all fun k =>
    q.flagsOn k (chunks 18 q.initTab.length q.initTab) && q.flagsOn k (chunks 18 q.restoreTab.length q.restoreTab)

/-! ### Pocket use (06 R168) -/

/-- The buffers that an act uses: first byte and end, on 32-byte boundaries for panels and transfers. The buffers in use at one point
lie in different bytes, so their sum passes 64 KB exactly when one of them reaches beyond. A buffer off its boundary breaks R168 too, for
which the spec names no code: DESIGN CHOICE, POCKET_OVERCOMMIT, as for the other breaches of the rule (log 61). -/
def Act.pocketFits : Act → Bool
  | .step _ _ _ w a b => stepEmpty w || (decide (a + panelA w ≤ 65536 ∧ b + panelB w ≤ 65536) && a % 32 == 0 && b % 32 == 0)
  | .xfer _ _ _ _ a len _ => len == 0 || (decide (a + len ≤ 65536) && a % 32 == 0)
  | .vec _ _ a len _ => decide (a + len ≤ 65536)
  | _ => true

/-- POCKET_OVERCOMMIT passes. -/
def Plan.pocketOk (q : Plan) : Bool := q.coreSlots.all fun e => e.cores.all fun k => (q.acts e k).all Act.pocketFits

/-! ### Cycles of a slot (03 R80, R88 to R91; 05 R147) -/

/-- Bytes of the records of a compressed tensor's groups, all dense, and of their segments' headers (07 R197). -/
def Plan.denseGroups (q : Plan) (d : Desc) (gs : List Nat) : List Nat :=
  ((gs.map (· / 64)).eraseDups.flatMap fun s => (List.range 256).map fun i => d.resolve q (d.slotOff s + i)) ++
  gs.flatMap fun g => (List.range (d.groupLen g * (d.w / 8))).map fun i => d.resolve q (d.slotOff (g / 64) + 256 + g % 64 * (256 * (d.w / 8)) + i)

/-- Tile-store bytes that a block of a descriptor takes; a compressed one is counted with dense records (07 R197). -/
def Plan.blockBytes (q : Plan) (d : Desc) (o : Nat × Nat × Nat) : List Nat :=
  let idx := (d.block o.1 o.2.1 o.2.2).filterMap id
  let sc := ((d.scaleBlock o.1 o.2.1 o.2.2).filterMap id).map fun i => d.resolve q (d.scaleOff i)
  (if d.form = 3 then q.denseGroups d (idx.map d.groupOf).eraseDups else idx.flatMap fun i => (d.needs i).map (d.resolve q)) ++ sc

/-- Channel rows of the map that a window gather's block touches in the worst case of its geometry: one for each output row of its
positions and each of its channels, wherever the padding lies (07 R182). -/
def Plan.gatherRows (q : Plan) (d : Desc) (r : Rec) (o : Nat × Nat × Nat) : Nat :=
  let lg := q.nestOf d r
  let cinp := cinpOf (d.size 2) lg.1 lg.2
  let oh := (winOh d r).toNat
  let ow := (winOw d r).toNat
  let ps := ((List.range 32).map (o.1 + ·)).filter fun p => decide (p < oh * ow)
  let cs := (List.range (8 * lg.2)).filter fun j => decide (o.2.2 % max 1 cinp + j < min cinp (d.size 2))
  (ps.map (· / max 1 ow)).eraseDups.length * cs.length

/-- Lines that a channel row costs: one (07 R182); in zero-compressed form a header line and the dense records of every group that a row
may lie in (07 R197). -/
def Desc.rowLines (d : Desc) : Nat := if d.form = 3 then 1 + d.rowGroups * (d.w / 8) else 1

/-- Cycles of a transfer with the given registers (03 R91). -/
def Plan.xferCycles (q : Plan) (c : Core) (w : W128) : Nat :=
  if bfld w 117 1 = 0 then
    if bfld w 70 9 = 0 ∨ bfld w 58 12 = 0 then 0
    else 16 + ((List.range (bfld w 70 9)).map fun i => runCycles (xferRow w c i).1 (bfld w 58 12)).foldl (· + ·) 0
  else
    let n := bfld w 101 16
    let d : Desc := q.descs.getD n 0
    let o (lo : Nat) : Nat := (c.areg (bfld w lo 4)).toNat
    if d.empty then 0
    else match q.windowOf n with
      | some r => 16 + 4 * d.rowLines * q.gatherRows d r (o 97, o 93, o 89)
      | none => descCycles (q.blockBytes d (o 97, o 93, o 89))

/-- The issue of one core (03 R89). Keys: pocket words from 0, vector registers from 4,096, mask registers from 4,160, handles as the
array writes them from 4,200 and as the other units use them from 4,220. `wr`, `rd`: cycles in which the last write and the last read of
a unit of state end. -/
structure Sched where
  core : Core
  next : Nat
  last : Nat
  array : Nat
  steps : Nat
  spill : Nat
  xfers : List Nat
  wr : Sparse Nat
  rd : Sparse Nat

def Sched.zero (c : Core) : Sched :=
  { core := c, next := 0, last := 0, array := 0, steps := 0, spill := 0, xfers := [], wr := [], rd := [] }

/-- First cycle in which no operand has a conflicting access pending. -/
def Sched.free (z : Sched) (reads writes : List Nat) : Nat :=
  let r := reads.foldl (fun t k => max t (Sparse.get 0 z.wr k)) z.next
  writes.foldl (fun t k => max t (max (Sparse.get 0 z.wr k) (Sparse.get 0 z.rd k))) r

/-- An instruction issues in cycle `t`, has read its operands in `tr` and retires in `tw`. -/
def Sched.take (z : Sched) (t tr tw : Nat) (reads writes : List Nat) : Sched :=
  { z with
    next := t + 1
    last := max z.last tw
    rd := reads.foldl (fun m k => Sparse.set 0 m k (max tr (Sparse.get 0 m k))) z.rd
    wr := writes.foldl (fun m k => Sparse.set 0 m k (max tw (Sparse.get 0 m k))) z.wr }

/-- Vector instructions: sources, results, latency (03 R90). -/
def vectorUse (c : Core) (w : W128) : List Nat × List Nat × Nat :=
  let v (n : Nat) : Nat := 4096 + n
  let k (n : Nat) : Nat := 4160 + n
  let words (a n : Nat) : List Nat := wordsOf a n
  match opc w with
  | 0x04 =>
    if bfld w 117 1 = 0 then (words (bfld w 92 16 + (c.areg (bfld w 88 4)).toNat) (2 * pocketBits (bfld w 108 4)), [v (bfld w 112 5)], 4)
    else ([4200 + bfld w 108 4, 4220 + bfld w 108 4], [v (bfld w 112 5)], 4)
  | 0x05 =>
    if bfld w 117 1 = 1 then ([v (bfld w 112 5), 4200 + bfld w 108 4], [4220 + bfld w 108 4], 4)
    else
      let n := if bfld w 105 1 = 1 then groupLen (bfld w 106 2) / 16 else 1
      ((List.range n).map fun i => v (bfld w 112 5 + i),
       words (bfld w 81 16 + (c.areg (bfld w 77 4)).toNat) (ceilDiv (bfld w 97 8 * pocketBits (bfld w 108 4)) 8) ++
         (if bfld w 105 1 = 1 then words (bfld w 51 16 + (c.areg (bfld w 47 4)).toNat) 1 else []), 4)
  | _ =>
    let fn := bfld w 112 6
    ([v (bfld w 102 5), v (bfld w 97 5), v (bfld w 92 5), v (bfld w 107 5), k (bfld w 89 3), k (bfld w 92 3)],
     [if 0x10 ≤ fn ∧ fn ≤ 0x13 then k (bfld w 86 3) else v (bfld w 107 5)], if fn = 0x28 ∨ fn = 0x29 ∨ fn = 0x30 then 6 else 4)

/-- Panels that a step reads, as pocket words. -/
def stepReads (w : W128) (c : Core) : List Nat := let s := stepSrc w c; wordsOf s.a (panelA w) ++ wordsOf s.b (panelB w)

/-- Cycle in which a core reaches a step and could issue it alone. -/
def Sched.reaches (z : Sched) (w : W128) : Nat := max z.array (z.free (stepReads w z.core) [4220 + bfld w 73 4])

/-- One instruction of core `k`; a step issues in cycle `lo` or later, when the last core of its chain reaches it (03 R81). Token waits
take no time here. -/
def Sched.step (q : Plan) (k lo : Nat) (z : Sched) (x : Ran) : Sched :=
  let c := z.core
  let w := x.w
  let z' : Sched := { z with core := staticRegs c k w }
  if c.excluded k w then z.take z.next z.next z.next [] []
  else
    match opc w with
    | 0x01 =>
      let reads := stepReads w c
      let h := bfld w 73 4
      let t := max lo (z.reaches w)
      let busy := 128 * cyclesPerGroup (bfld w 109 4) (bfld w 105 4) (groupLen (bfld w 103 2))
      let first := globalRow k - c.chainPos k
      let seam := decide (first / 72 ≠ (first + c.chain - 1) / 72)
      let done := t + busy + 9 * c.chain + 4 + (if seam then 6 else 0)
      { z'.take t (t + busy) done reads [4200 + h] with array := t + busy, steps := max z.steps done }
    | 0x02 | 0x03 =>
      let ws := (q.actsOf c k x).flatMap fun y => match y with
        | .xfer _ _ _ _ a len _ => wordsOf a len
        | _ => []
      let rs := if opc w = 0x03 then ws else []
      let wt := if opc w = 0x02 then ws else []
      let t0 := z.free rs wt
      let busy := z.xfers.filter fun e => decide (t0 < e)
      let t := if busy.length < 8 then t0 else max t0 ((sortBy id busy).getD (busy.length - 8) 0)
      let done := t + q.xferCycles c w
      { z'.take t done done rs wt with xfers := done :: busy }
    | 0x04 | 0x05 | 0x06 =>
      let u := vectorUse c w
      let t := z.free u.1 u.2.1
      z'.take t (t + 1) (t + u.2.2) u.1 u.2.1
    | 0x09 =>
      let h := bfld w 112 4
      let t := max z.spill (z.free [4200 + h] [4220 + h])
      let n := if bfld w 106 6 = 0 ∨ bfld w 100 6 = 0 then 0 else 16 + 2 * bfld w 106 6
      { z'.take t (t + n) (t + n) [4200 + h] [4220 + h] with spill := t + n }
    | 0x0A =>
      let h := bfld w 112 4
      let t := z.free [] [4200 + h, 4220 + h]
      z'.take t t t [] [4220 + h]
    | 0x0D =>
      let t := max z.next z.steps
      z'.take t t t [] []
    | 0x0F =>
      let t := max z.next z.last
      z'.take t t t [] []
    | _ => z'.take z.next z.next z.next [] []

/-- One instruction of all cores of a slot, which run together: a step waits for the last core of its chain (03 R81). -/
def Plan.schedStep (q : Plan) (zs : List (Nat × Sched)) (x : Ran) : List (Nat × Sched) :=
  let chainOf (e : Nat × Sched) : Nat × Nat := (globalCol e.1, e.2.core.chainIdx e.1)
  zs.map fun e =>
    let lo := if opc x.w = 0x01 then ((zs.filter fun f => chainOf f == chainOf e).map fun f => f.2.reaches x.w).foldl max 0 else 0
    (e.1, e.2.step q e.1 lo x)

/-- Cycles that the cores of a slot take. -/
def Plan.coreCycles (q : Plan) (e : SlotEntry) : Nat :=
  (((q.run e.addr).foldl q.schedStep (e.cores.map fun k => (k, Sched.zero (Core.reset.begin 0 e e.top e.left)))).map (·.2.last)).foldl max 0

/-- Path of a descriptor in form (05 R146, Table 5.7): main, or the fall-back of the general descriptor mover. -/
def Desc.mainPath (d : Desc) : Bool := decide (2 ≤ d.form) || risingStrides ((List.range (d.rank - 1)).map fun k => d.stride (k + 1))
where risingStrides : List Nat → Bool
  | a :: b :: r => decide (a < b) && risingStrides (b :: r)
  | _ => true

/-- A command takes the main path only if both descriptors do (05 R146). -/
def Plan.moveMain (q : Plan) (w : BitVec 256) : Bool :=
  Desc.mainPath (q.descs.getD (mcf w 0 48 16) 0) && Desc.mainPath (q.descs.getD (mcf w 0 32 16) 0)

/-- Address of a block's origin element, 0 for one out of range. -/
def Plan.originAddr (q : Plan) (d : Desc) (o : Nat × Nat × Nat) : Nat :=
  ((d.at o.1 o.2.1 o.2.2).map fun i => d.resolve q (if d.form < 2 then d.elemOff i else d.base)).getD 0

/-- Cycles of a mover command: a line per cycle on the main path, half that with a block base off a line, a span of 32 bytes per cycle
on the fall-back path (05 R147). -/
def Plan.moveCycles (q : Plan) (w : BitVec 256) : Nat :=
  let src : Desc := q.descs.getD (mcf w 0 48 16) 0
  let dst : Desc := q.descs.getD (mcf w 0 32 16) 0
  let so := (mcf w 1 0 32, mcf w 1 32 32, mcf w 2 0 32)
  let d0 := (mcf w 2 32 32, mcf w 3 0 32, mcf w 3 32 32)
  if src.empty || dst.empty then 0
  else if q.moveMain w then
    let lines := ((q.blockBytes src so).map (· / 256)).eraseDups.length
    if q.originAddr src so % 256 = 0 ∧ q.originAddr dst d0 % 256 = 0 then lines else 2 * lines
  else src.ext 1 * src.ext 2 * ceilDiv (ceilDiv (src.ext 0 * src.w) 8) 32

/-- T of 07 R193: the cycles of a slot on unsteered tiles without pairing. The spec gives no cycles of a port's or an engine's program. -/
def Plan.slotCycles (q : Plan) (e : SlotEntry) : Nat :=
  match e.kind with
  | .cores => q.coreCycles e
  | .mover => ((q.moverList e.addr).map q.moveCycles).foldl (· + ·) 0
  | _ => 0

/-! ### Tokens -/

/-- Cores of a slot that run an instruction. -/
def SlotEntry.selected (e : SlotEntry) (x : Ran) : Nat := ((List.range e.height).filter x.selects).length * e.width

/-- Most children that a rank has in an owner's tree under some variant. -/
def Plan.mostKids (q : Plan) (red owner : Nat) : Nat :=
  (q.variants.flatMap fun v => v.rankList.map fun r => (q.children v (redLayer (q.reds.getD red [])) owner r).length).foldl max 0

/-- TSIG frames that an act brings to a rank: from each child of a reduction, from the parent of a broadcast. -/
def Plan.jobSignals (q : Plan) : EngineJob → List Token
  | .contribute red owner _ _ (some g) | .forward red owner _ (some g) => [(g.1, g.2.1, g.2.2 * q.mostKids red owner)]
  | .spread _ _ _ _ (some g) => [g]
  | _ => []

/-- Signals that a slot places: tile, counter, increments (03 R475). Ranks run one program, so a slot's TSIG frames stand for those that
arrive. -/
def Plan.signals (q : Plan) (e : SlotEntry) : List (Nat × Nat × Nat) :=
  match e.kind with
  | .cores => ((q.run e.addr).filter fun x => opc x.w == 0x08).map fun x =>
      (bfld x.w 114 4, bfld x.w 106 8 * 16 + bfld x.w 102 4, bfld x.w 86 16 * e.selected x)
  | .mover => (q.moverList e.addr).map fun w => (mcf w 0 28 4, mcf w 0 16 12, 1)
  | _ => ((q.engine? e.addr).map fun g => g.signals ++ g.jobs.flatMap q.jobSignals).getD []

/-- Tiles that a slot's rectangle touches. -/
def SlotEntry.tiles (e : SlotEntry) : List Nat := (e.cores.map keyTile).eraseDups

/-- Tiles in which some core of the slot runs an instruction. -/
def SlotEntry.tilesOf (e : SlotEntry) (x : Ran) : List Nat :=
  ((List.range e.height).filter x.selects).flatMap (fun r => (List.range e.width).map fun c => keyTile (keyAt (e.top + r) (e.left + c)))
    |>.eraseDups

/-- Waits of a slot: tile, counter, count (03 R102: a TWAIT is local to the tile of each core that runs it). -/
def Plan.waits (q : Plan) (e : SlotEntry) : List (Nat × Nat × Nat) :=
  match e.kind with
  | .cores =>
    ((q.run e.addr).filter fun x => opc x.w == 0x07).flatMap fun x => (e.tilesOf x).map fun t => (t, bfld x.w 106 12, bfld x.w 82 24)
  | .mover => []
  | _ => ((q.engine? e.addr).map EngineProg.waits).getD []

/-- Increments placed for each counter, key `4096 · tile + counter`. -/
def tally (sigs : List (Nat × Nat × Nat)) : Sparse Nat :=
  sigs.foldl (fun m g => let k := 4096 * g.1 + g.2.1; Sparse.set 0 m k (Sparse.get 0 m k + g.2.2)) []

def Plan.frameSignals (q : Plan) (row : List Nat) : List (Nat × Nat × Nat) := (q.frameSlots row).flatMap fun e => q.signals e.2
def Plan.frameWaits (q : Plan) (row : List Nat) : List (Nat × Nat × Nat) :=
  ((q.frameSlots row).flatMap fun e => q.waits e.2).filter fun w => w.2.2 != 0

/-- Ready tokens that the plan's lanes raise on counter `tok` in frame `f` of a step table: the entries of their delivery tables
(12 R343; log 38). `lanes` are the lane records of the plan. -/
def Plan.readyCount (q : Plan) (lanes : List Rec) (stab f tok : Nat) : Nat :=
  ((lanes.filter fun r => laneRtok r == tok).map fun r =>
    match q.laneTabs.find? fun t => t.lane == rf r 0 60 4 with
    | some t => ((t.dtab.getD stab []).filter fun e => bfld e 16 16 == f).length
    | none => 0).foldl (· + ·) 0

/-- Frame counters of one frame balance (Table 1.3; 03 R475). `ready` gives the ready tokens of each counter. -/
def Plan.frameBalance (q : Plan) (ready : Nat → Nat) (row : List Nat) : Bool :=
  let sums := tally (q.frameSignals row)
  let ws := (q.frameWaits row).filter fun w => decide (w.2.1 < 3840)
  ws.all (fun w => decide (w.2.2 ≤ Sparse.get 0 sums (4096 * w.1 + w.2.1) + ready w.2.1)) &&
  sums.all fun e => decide (3840 ≤ e.1 % 4096) || (decide (e.2 < 2 ^ 24) && ws.any fun w => 4096 * w.1 + w.2.1 == e.1)

/-- Counters that a step table clears after frame `f` (03 R103). -/
def Plan.clears (q : Plan) (stab f : Nat) : List Nat :=
  (q.carry.filter fun e => bfld e 30 2 == stab && bfld e 32 16 == f).map fun e => bfld e 48 16

/-- Carried counters over a step's frames from given values: the values after it, whether no value passes 16,777,215, and whether
every wait is met (03 R103). -/
def Plan.carryPass (q : Plan) (stab : Nat) (v : Sparse Nat) : List (List Nat × Nat) → Sparse Nat × Bool × Bool
  | [] => (v, true, true)
  | x :: xs =>
    let v := (q.frameSignals x.1).foldl (fun m g =>
      if 3840 ≤ g.2.1 then
        let k := 4096 * g.1 + g.2.1
        Sparse.set 0 m k (Sparse.get 0 m k + g.2.2)
      else m) v
    let fit := v.all fun e => decide (e.2 < 2 ^ 24)
    let met := (q.frameWaits x.1).all fun w => decide (w.2.1 < 3840) || decide (w.2.2 ≤ Sparse.get 0 v (4096 * w.1 + w.2.1))
    let r := q.carryPass stab (Sparse.keep (fun k => !(q.clears stab x.2).contains (k % 4096)) v) xs
    (r.1, fit && r.2.1, met && r.2.2)

/-- Carried counters of a step table, taken cyclically: the second pass meets the signals of the first (03 R103). -/
def Plan.carryBalance (q : Plan) (stab : Nat) (t : StepTable) : Bool :=
  let rows := t.frames.zipIdx
  let sigs := (t.frames.flatMap q.frameSignals).filter fun g => decide (3840 ≤ g.2.1) && g.2.2 != 0
  let ws := t.frames.flatMap q.frameWaits
  let cleared := (List.range t.frames.length).flatMap (q.clears stab)
  let a := q.carryPass stab [] rows
  let b := q.carryPass stab a.1 rows
  sigs.all (fun g => cleared.contains g.2.1 && ws.any fun w => w.1 == g.1 && w.2.1 == g.2.1) && a.2.1 && b.2.1 && b.2.2

/-- The 18 table numbers of each frame of an init or restore table. -/
def tabRows (t : List Nat) : List (List Nat) := chunks 18 t.length t

/-- Every frame that the plan may run. -/
def Plan.allRows (q : Plan) : List (List Nat) := q.steps.flatMap (·.frames) ++ tabRows q.initTab ++ tabRows q.restoreTab

/-- TOKEN_BALANCE passes. -/
def Plan.tokensOk (q : Plan) (lanes : List Rec) : Bool :=
  (q.steps.zipIdx.all fun e => (e.1.frames.zipIdx.all fun f => q.frameBalance (q.readyCount lanes e.2 f.2) f.1) && q.carryBalance e.2 e.1) &&
  (tabRows q.initTab ++ tabRows q.restoreTab).all (q.frameBalance fun _ => 0)

/-! ### Formats in programs (03 R74, R95, R99; 04 R112) -/

def intOperand (f : Nat) : Bool := f == 5 || f == 6
def wideOperand (f : Nat) : Bool := f == 7 || f == 8

/-- An array operand of a step uses its format in its role (04 Table 4.3): FP4 and FP6 scaled, BF16 and FP16 unscaled with G of 64 or
less, and INT32 type only for unscaled INT4 and INT8. -/
def operandOk (f : Nat) (scaled int32 : Bool) (gsz : Nat) : Bool :=
  decide (f ≤ 8) && (!needsScale f || scaled) && (!wideOperand f || (!scaled && gsz != 3)) && (!int32 || (intOperand f && !scaled))

/-- An instruction uses its formats in their roles. -/
def roleOk (w : W128) : Bool :=
  match opc w with
  | 0x01 =>
    let fa := bfld w 109 4
    let fb := bfld w 105 4
    intOperand fa == intOperand fb && operandOk fa (bfld w 115 1 == 1) (bfld w 116 1 == 1) (bfld w 103 2) &&
      operandOk fb (bfld w 114 1 == 1) (bfld w 116 1 == 1) (bfld w 103 2)
  | 0x05 =>
    bfld w 117 1 == 1 || (if bfld w 105 1 = 1 then takesScale (bfld w 108 4) else !needsScale (bfld w 108 4))
  | _ => true

end Sys2Proof.Machine
end

