-- ==== Sys2Proof/Machine/ValidateNest.lean ====
section
/-! DEFINITION. What plan validation finds of nests in slot programs: the output tiles that a core's handles hold as its program runs, and
from them bound handles (03 R84; 06 R166, R170), passes (06 R160), spills (03 R87; 04 R116; 06 R167), the rows of fused pairs (06 R172), and
the taps that a convolution runs (07 R184). -/

namespace Sys2Proof.Machine

/-! ### The passes of a nest (06 R160) -/

/-- KLEN of a full pass, and passes of an output tile; a product with KSIZE 0 has one pass with KLEN 0 (06 Table 6.13). -/
def fullPass (n : Rec) : Nat := 8 * nestL n * nestG n
def passCount (n : Rec) : Nat := max 1 (ceilDiv (nestK n) (max 1 (fullPass n)))

/-- KLEN of pass `p`. -/
def passKlen (n : Rec) (p : Nat) : Nat := min (fullPass n) (nestK n - p * fullPass n)

/-- A step uses the chain length, G, accumulate type and a KLEN of a nest (06 Table 6.12 order 7). -/
def stepFits (n : Rec) (l : Nat) (w : W128) : Bool :=
  l == nestL n && groupLen (bfld w 103 2) == nestG n && bfld w 116 1 == nestAcct n &&
    (bfld w 77 14 == passKlen n 0 || bfld w 77 14 == passKlen n (passCount n - 1))

/-- Nest `k` is that of a convolution, which may omit the passes of padded taps (07 R184). -/
def Plan.convNest (q : Plan) (k : Nat) : Bool := q.windows.any fun w => rf w 0 44 4 == 0 && rf w 0 48 16 == k

/-! ### The tile of a handle -/

/-- What a bound handle holds. `ks`: the nests of its tile, none for a tile of no nest. `fresh`: its entries are +0 and no pass is in them.
`n`: passes of its output tile, those in the wide buffer apart. `short`: its last pass was shorter than a full one. `region`: half rows
(2 · row + half) that its steps wrote. `unread`: those not read since. `ret`: the wide-buffer tile that its last spill added to, and
whether its return must follow. -/
structure HandleTile where
  ks : List Nat
  fresh : Bool
  n : Nat
  short : Bool
  region : List Nat
  unread : List Nat
  ret : Option (Nat × Bool)
deriving DecidableEq, Repr

def HandleTile.zero : HandleTile := { ks := [], fresh := true, n := 0, short := false, region := [], unread := [], ret := none }

/-- A wide-buffer tile, by its offset: its passes, none where an earlier slot program began it, and whether it has been returned. -/
structure WideTile where
  n : Option Nat
  done : Bool
deriving DecidableEq, Repr

/-- A core's run: bound handles, wide-buffer tiles, the fused nests whose rows are being written, and what it has kept so far: `acc` the
rules whose breach is ACC_OVERCOMMIT, `form` those whose breach is CHAIN_FORM. -/
structure NestRun where
  bound : List (Nat × HandleTile)
  wide : List (Nat × WideTile)
  rows : List Nat
  acc : Bool
  form : Bool
deriving DecidableEq, Repr

def NestRun.start : NestRun := { bound := [], wide := [], rows := [], acc := true, form := true }

def NestRun.get? (z : NestRun) (h : Nat) : Option HandleTile := (z.bound.find? fun e => e.1 == h).map (·.2)
def NestRun.put (z : NestRun) (h : Nat) (t : HandleTile) : NestRun := { z with bound := (h, t) :: z.bound.filter fun e => e.1 != h }
def NestRun.drop (z : NestRun) (h : Nat) : NestRun := { z with bound := z.bound.filter fun e => e.1 != h }
def NestRun.wide? (z : NestRun) (a : Nat) : Option WideTile := (z.wide.find? fun e => e.1 == a).map (·.2)
def NestRun.setWide (z : NestRun) (a : Nat) (x : WideTile) : NestRun := { z with wide := (a, x) :: z.wide.filter fun e => e.1 != a }
def NestRun.keepAcc (z : NestRun) (b : Bool) : NestRun := { z with acc := z.acc && b }
def NestRun.keepForm (z : NestRun) (b : Bool) : NestRun := { z with form := z.form && b }

/-- The nest by which a tile is judged; the nests of one tile agree in KSIZE and S (`stepNests`). -/
def Plan.nestOfTile (q : Plan) (t : HandleTile) : Rec := q.nest (t.ks.headD 0)

/-- The tile still lacks passes: without spilling it has not run all of K, with spilling it holds a group that no spill has taken. -/
def Plan.partialTile (q : Plan) (t : HandleTile) : Bool :=
  let r := q.nestOfTile t
  !t.fresh && !t.ks.isEmpty &&
    (if nestS r = 0 then !(t.ks.any q.convNest) && t.n != passCount r else t.ret.isNone)

/-- The tile has neither been written out nor spilled (06 R170): it is partial, or some of its half rows have not been read since its last
pass. -/
def Plan.owed (q : Plan) (t : HandleTile) : Bool := q.partialTile t || !t.unread.isEmpty

/-- The handle may take a new tile, or be unbound: what it held has been written out or spilled, and no return is due. -/
def Plan.letGo (q : Plan) (z : NestRun) (h : Nat) : NestRun :=
  match z.get? h with
  | some t => (z.keepAcc (!q.owed t)).keepForm (!((t.ret.map (·.2)).getD false && t.fresh))
  | none => z

/-! ### Steps -/

/-- The nests that an instruction realises agree with the step and in KSIZE and S. -/
def Plan.stepNests (q : Plan) (ks : List Nat) (l : Nat) (w : W128) : Bool :=
  ks.all fun k => stepFits (q.nest k) l w && nestK (q.nest k) == nestK (q.nest (ks.headD 0)) && nestS (q.nest k) == nestS (q.nest (ks.headD 0))

/-- Half rows that a step writes in a nest's output tile. -/
def stepRegion (n : Rec) (w : W128) : List Nat :=
  (List.range (min (bfld w 97 6) (rf n 1 32 32))).flatMap fun r => (List.range (ceilDiv (min (bfld w 91 6) (rf n 1 0 32)) 16)).map (2 * r + ·)

/-- One pass more in a tile of nests `ks`. Without spilling it is pass `n` of the output tile and has that pass's KLEN, but for a
convolution, whose passes are all full. With spilling it is one of the S steps of a visit (an overwrite step that opens one counts among
them: DESIGN CHOICE, log 62), and only the last may be the shorter one. -/
def Plan.addPass (q : Plan) (ks : List Nat) (t : HandleTile) (w : W128) : HandleTile × Bool :=
  let r := q.nest (ks.headD 0)
  let conv := ks.any q.convNest
  let klen := bfld w 77 14
  let fits := if nestS r = 0 then decide (t.n < passCount r) && (conv || klen == passKlen r t.n) else decide (t.n < nestS r) && !t.short
  let reg := (stepRegion r w ++ t.region).eraseDups
  ({ ks := ks, fresh := false, n := t.n + 1, short := decide (klen < fullPass r), region := reg, unread := reg, ret := none }, fits)

/-- A step on the handle of the chain's bottom core. -/
def Plan.stepAct (q : Plan) (addr : Nat) (z : NestRun) (i l : Nat) (w : W128) : NestRun :=
  let h := bfld w 73 4
  let ks := q.nestsAt addr i
  let opens := bfld w 117 1 == 0
  let z := (z.keepForm (q.stepNests ks l w)).keepForm (!(((z.get? h).map fun t => t.fresh && (t.ret.map (·.2)).getD false).getD false))
  match z.get? h with
  | none => if opens then (if ks.isEmpty then z.put h { HandleTile.zero with fresh := false } else
      let r := q.addPass ks HandleTile.zero w
      (z.put h r.1).keepForm r.2) else z.keepAcc false
  | some t =>
    if ks.isEmpty then
      if opens then (q.letGo z h).put h { HandleTile.zero with fresh := false }
      else if bfld w 77 14 = 0 then z
      else if t.ks.isEmpty || t.fresh then z.put h { t with ks := [], fresh := false } else z.keepForm false
    else if opens || t.fresh || t.ks != ks then
      let z := if t.fresh then z else q.letGo z h
      let r := q.addPass ks HandleTile.zero w
      (z.put h r.1).keepForm r.2
    else
      let r := q.addPass ks t w
      (z.put h r.1).keepForm (r.2 && t.ret.isNone)

/-! ### Spills -/

/-- A group of `c` steps goes into a wide-buffer tile that then holds `n` passes, or an unknown number: it has S steps, or is the last
group of the tile; a shorter pass closes the last group (04 R116; 06 R167). Whether it is the last, and whether that is certain. -/
def groupEnds (r : Rec) (conv short : Bool) (c : Nat) (n : Option Nat) : Bool × Bool × Bool :=
  let s := nestS r
  let np := passCount r
  let cut := decide (passKlen r (np - 1) < fullPass r)
  if conv then (decide (c ≤ s), true, decide (c < s))
  else match n with
    | some n => (decide (n ≤ np) && (c == s || n == np) && short == (cut && n == np), n == np, n == np)
    | none =>
      let last := short || c != s
      (if last then c == (np - 1) % s + 1 && short == cut else true, last || (np % s == 0 && !cut), last)

/-- A spill of handle `h` onto the wide-buffer tile at `a`. -/
def Plan.spillAct (q : Plan) (addr : Nat) (z : NestRun) (i mode h a : Nat) : NestRun :=
  match z.get? h with
  | none => z
  | some t =>
    let x := z.wide? a
    if mode = 2 then
      match t.ret with
      | some (b, _) =>
        if t.fresh && a == b then
          (z.put h { t with fresh := false, unread := t.region, ret := some (a, false) }).setWide a { n := (x.bind (·.n)), done := true }
        else z.keepForm false
      | none => z.keepForm (t.ks.isEmpty && x.isNone && (q.nestsAt addr i).isEmpty)
    else if t.ks.isEmpty || t.fresh then z.keepForm (x.isNone && (q.nestsAt addr i).isEmpty)
    else
      let r := q.nestOfTile t
      let before : Option Nat := if mode = 1 then some 0 else match x with
        | some y => y.n
        | none => none
      let n := before.map (· + t.n)
      let g := groupEnds r (t.ks.any q.convNest) t.short t.n n
      let opens := if mode = 1 then ((x.map (·.done)).getD true) else ((x.map fun y => !y.done).getD true)
      ((z.keepForm (nestS r != 0 && t.ret.isNone && opens && g.1)).put h
        { t with fresh := true, n := 0, short := false, unread := [], ret := if g.2.1 then some (a, g.2.2) else none }).setWide a { n := n, done := false }

/-! ### Fused pairs -/

/-- A block write of a core begins the rows of a fused pair with FUSE 4: all output tiles of the first nest's row are then live (06 Table
6.8). `ps` are the A panels that the second nests' steps read: fused nest, first byte, end. -/
def Plan.rowAct (q : Plan) (ps : List (Nat × Nat × Nat)) (z : NestRun) (a : Nat) : NestRun :=
  ps.foldl (fun z p =>
    if !decide (p.2.1 ≤ a ∧ a < p.2.2) || z.rows.contains p.1 then z
    else
      let live := (z.bound.filter fun e => e.2.ks.contains p.1 && !e.2.fresh && !q.partialTile e.2).length
      { z.keepForm (decide (ceilDiv (rf (q.nest p.1) 1 0 32) 32 ≤ live)) with rows := p.1 :: z.rows }) z

/-- A panels of the steps of the nests that a FUSE 4 nest names. -/
def Plan.rowPanels (q : Plan) (addr : Nat) (acts : List Act) : List (Nat × Nat × Nat) :=
  let fused := (List.range q.nests.length).filter fun k => nestFuse (q.nest k) == 4
  (acts.flatMap fun x => match x with
    | .step i _ _ w a _ => (fused.filter fun k => (q.nestsAt addr i).contains (nestNext (q.nest k))).map fun k => (k, a, a + panelA w)
    | _ => []).eraseDups

/-! ### The run -/

/-- One act of a core. -/
def Plan.nestAct (q : Plan) (addr : Nat) (ps : List (Nat × Nat × Nat)) (z : NestRun) (x : Act) : NestRun :=
  match x with
  | .step i l bottom w _ _ =>
    let ks := q.nestsAt addr i
    if stepEmpty w then z
    else if bottom then { q.stepAct addr z i l w with rows := z.rows.filter fun k => !ks.contains k }
    else z.keepForm (q.stepNests ks l w)
  | .acc _ 0 h _ => if (z.get? h).isSome then z else z.put h HandleTile.zero
  | .acc _ 1 h _ => (q.letGo z h).drop h
  | .acc _ 2 h _ => if (z.get? h).isSome then (q.letGo z h).put h HandleTile.zero else z
  | .acc _ 3 h half => match z.get? h with
    | some t => z.put h { t with unread := t.unread.filter (· != half) }
    | none => z
  | .acc _ 4 h half => match z.get? h with
    | some t => z.put h (if t.region.contains half && !t.fresh then { t with unread := half :: t.unread.filter (· != half) } else t)
    | none => z
  | .spill i mode h a => q.spillAct addr z i mode h a
  | .vec _ true a _ true => q.rowAct ps z a
  | .fin _ => { z.bound.foldl (fun z e => q.letGo z e.1) z with bound := [] }
  | _ => z

/-- The run of core `k` of a slot: after each act the bound handles are within the declared counts (03 R84). -/
def Plan.nestRun (q : Plan) (e : SlotEntry) (k : Nat) : NestRun :=
  let acts := q.acts e k
  let ps := q.rowPanels e.addr acts
  acts.foldl (fun z x =>
    let z := q.nestAct e.addr ps z x
    z.keepAcc ((q.liveAt e.addr x.idx).all fun n => decide (z.bound.length ≤ n))) NestRun.start

/-- ACC_OVERCOMMIT passes (03 R84; 06 R166, R170): the second record of a fused pair has LIVE 0. -/
def Plan.accOk (q : Plan) : Bool :=
  q.nests.all (fun n => decide (nestLive n ≤ 8)) &&
  q.nests.zipIdx.all (fun e => (q.fusedFirst e.2).isNone || nestLive e.1 == 0) &&
  q.coreSlots.all fun e => e.cores.all fun k => (q.nestRun e k).acc

/-- Passes, spills and fused rows of a slot agree with the nests that it realises. -/
def Plan.nestFormOk (q : Plan) (e : SlotEntry) : Bool := e.cores.all fun k => (q.nestRun e k).form

/-- Every chain length that a slot sets divides its height (03 R78). -/
def Plan.chainsOk (q : Plan) (e : SlotEntry) : Bool :=
  (q.trace e.addr).all fun w => opc w != 0x0D || e.height % (bfld w 115 3 + 1) == 0

/-! ### The passes of a convolution (07 R184) -/

/-- The block that a gathered panel holds: first position, batch entry, K origin. -/
abbrev Gathered := Nat × Nat × Nat

/-- Panels of a pocket that hold a gather of map `d`, by their address and end; and the panels that the steps of nest `k` have read, newest
first. -/
def Plan.panelAct (q : Plan) (addr d k : Nat) (p : List (Nat × Nat × Gathered) × List (Option Gathered)) (x : Act) :
    List (Nat × Nat × Gathered) × List (Option Gathered) :=
  let outside (a len : Nat) : List (Nat × Nat × Gathered) := p.1.filter fun e => decide (a + len ≤ e.1 ∨ e.2.1 ≤ a)
  match x with
  | .step i _ _ w _ b =>
    if stepEmpty w || !(q.nestsAt addr i).contains k then p else (p.1, ((p.1.find? fun e => e.1 == b).map (·.2.2)) :: p.2)
  | .xfer _ true (some o) _ a len _ => (if o.1 = d then (a, a + len, o.2) :: outside a len else outside a len, p.2)
  | .xfer _ true none _ a len _ => (outside a len, p.2)
  | .vec _ true a len _ => (outside a len, p.2)
  | _ => p

/-- Panels that the steps of nest `k` read on a core, in order. -/
def Plan.panelsRead (q : Plan) (e : SlotEntry) (d k core : Nat) : List (Option Gathered) :=
  ((q.acts e core).foldl (q.panelAct e.addr d k) ([], [])).2.reverse

/-- The tiles of nest `k` on a chain's bottom core: the open ones, by handle, with the numbers of their steps; the closed ones, each with
the wide-buffer tile it was spilled to; and how many steps the nest has run. -/
structure TileCut where
  open_ : List (Nat × List Nat)
  closed : List (Option Nat × List Nat)
  steps : Nat

def TileCut.close (c : TileCut) (h : Nat) (wide : Option Nat) : TileCut :=
  match c.open_.find? fun e => e.1 == h with
  | some e => { c with open_ := c.open_.filter (fun e => e.1 != h), closed := (wide, e.2.reverse) :: c.closed }
  | none => c

def Plan.cutAct (q : Plan) (addr k : Nat) (c : TileCut) (x : Act) : TileCut :=
  match x with
  | .step i _ _ w _ _ =>
    let h := bfld w 73 4
    if stepEmpty w || !(q.nestsAt addr i).contains k then c
    else
      let old := ((c.open_.find? fun e => e.1 == h).map (·.2)).getD []
      { c with open_ := (h, c.steps :: old) :: c.open_.filter (fun e => e.1 != h), steps := c.steps + 1 }
  | .acc _ 1 h _ | .acc _ 2 h _ => c.close h none
  | .spill _ mode h a => if mode = 2 then c else c.close h (some a)
  | .fin _ => c.open_.foldl (fun c e => c.close e.1 none) c
  | _ => c

/-- Bottom core of a core's chain at the nest's chain length. -/
def chainBottom (e : SlotEntry) (l k : Nat) : Nat :=
  keyAt (e.top + ((globalRow k - e.top) / l * l + (l - 1))) (globalCol k)

/-- The tiles of nest `k` that a core takes part in: wide-buffer tile, and the panels that the core's steps on it read. -/
def Plan.tilesRead (q : Plan) (e : SlotEntry) (d k core : Nat) : List (Option Nat × List (Option Gathered)) :=
  let cut := (q.acts e (chainBottom e (nestL (q.nest k)) core)).foldl (q.cutAct e.addr k) { open_ := [], closed := [], steps := 0 }
  let ps := q.panelsRead e d k core
  cut.closed.map fun t => (t.1, t.2.map fun i => (ps[i]?).bind id)

/-- Every tap of the block at `p0`, `b` that is not wholly padded in it has each of its passes among those run, by their number. -/
def tapsDone (m : Desc) (w n : Rec) (p0 b : Nat) (run : List Nat) : Bool :=
  let cinp := cinpOf (m.size 2) (nestL n) (nestG n)
  let per := cinp / max 1 (fullPass n)
  (List.range (rf w 0 32 8 * rf w 0 24 8)).all fun t =>
    ((List.range 32).all fun c => (gatherAt m w cinp b (p0 + c) (t * cinp)).isNone) || (List.range per).all fun j => run.contains (t * per + j)

def ascending : List Nat → Bool
  | a :: b :: r => decide (a < b) && ascending (b :: r)
  | _ => true

/-- The steps of one tile, or of one visit of it, read gathers of one block, in ascending order of the passes. -/
def visitOk (n : Rec) (ps : List (Option Gathered)) : Bool :=
  let l := ps.filterMap id
  l.length == ps.length && l.all (fun g => g.1 == (l.headD (0, 0, 0)).1 && g.2.1 == (l.headD (0, 0, 0)).2.1) &&
    ascending (l.map fun g => g.2.2 / max 1 (fullPass n))

/-- A core runs every pass of each tap that is not wholly padded, in every output tile: without spilling in the slot that holds the tile,
with spilling over the visits of its wide-buffer tile in the plan's slots. -/
def Plan.tilesOk (q : Plan) (w n : Rec) (m : Desc) (d k core : Nat) (es : List SlotEntry) : Bool :=
  let all := es.flatMap fun e => q.tilesRead e d k core
  let num (g : Gathered) : Nat := g.2.2 / max 1 (fullPass n)
  all.all fun t =>
    visitOk n t.2 &&
    (match t.2.filterMap id with
     | [] => true
     | g :: gs =>
       let run := match t.1 with
         | none => (g :: gs).map num
         | some a => (all.filter fun u => u.1 == some a).flatMap fun u =>
             ((u.2.filterMap id).filter fun f => f.1 == g.1 && f.2.1 == g.2.1).map num
       tapsDone m w n g.1 g.2.1 run)

end Sys2Proof.Machine
end

