-- ==== Sys2Proof/Machine/ValidateTables.lean ====
section
/-! DEFINITION. Plan validation, the checks of tables, topology, region, ports, intake and redundancy (01 Table 1.3; 10 R267, R270, R276;
11 R296, R297; 08 R202, R203, R215, R217; 12 R327, R356; 14 R392, R393; 15 R421, R429, R438). Each `…Ok` says that a plan passes. -/

namespace Sys2Proof.Machine

/-! ### Topology (10 R276; 11 R296, R297) -/

/-- The variant names the link at port `p` of rank `r`: both of its ends. -/
def Variant.names (v : Variant) (shape r p : Nat) : Bool :=
  (v.links.getD r 0).testBit p && ((farEnd shape r p).map fun e => (v.links.getD e.1 0).testBit e.2).getD false

/-- Every entry of the route tables is none or a port of a link that the variant names. -/
def Variant.routesNamed (v : Variant) (shape : Nat) : Bool :=
  v.routes.zipIdx.all fun e => e.1.all fun p => p == 15 || (decide (p < 6) && v.names shape e.2 p)

/-- Following the routes of a variant from rank `r` reaches `k` over named links, within the hops given. -/
def Variant.reaches (v : Variant) (shape k : Nat) : Nat → Nat → Bool
  | 0, r => r == k
  | n + 1, r =>
    r == k ||
    (match v.route r k with
     | none => false
     | some p => v.names shape r p && (match farEnd shape r p with
       | some e => v.reaches shape k n e.1
       | none => false))

/-- Following parents from `r` reaches the root within the hops given. -/
def treeClimbs (t : List Nat) (root : Nat) : Nat → Nat → Bool
  | 0, r => r == root
  | n + 1, r => r == root || (decide (t.getD r 0xFF < 64) && treeClimbs t root n (t.getD r 0xFF))

/-- A tree is valid for its owner. -/
def Variant.treeOk (v : Variant) (owner : Nat) : Bool :=
  let t := v.trees.getD owner []
  t.getD owner 0xFF == 0xFE &&
  (List.range 64).all fun r =>
    let up := t.getD r 0xFF
    if v.has r then
      (r == owner || (decide (up < 64) && v.has up)) && treeClimbs t owner 64 r && decide ((t.filter (· == r)).length ≤ 2)
    else up == 0xFF

/-- Ranks that own a shard of a layer with EXP 0 (08 R210). -/
def Plan.shardOwners (q : Plan) (v : Variant) : List Nat :=
  v.rankList.filter fun r => q.layers.any fun e => rf e 0 33 1 == 0 && q.shardBlocks v (rf e 0 48 16) r != 0

/-- A variant's record, routes and trees are in form. -/
def Plan.variantOk (q : Plan) (shape : Nat) (v : Variant) : Bool :=
  v.nranks == v.rankList.length && decide (1 ≤ v.nranks) && v.has v.leader && v.routesNamed shape &&
  v.rankList.all (fun r => v.rankList.all fun k => r == k || v.reaches shape k 64 r) &&
  (q.shardOwners v).all v.treeOk

/-- Some variant matches the roster, and every one is in form (01 R35). -/
def Plan.topologyOk (q : Plan) (shape : Nat) (ranks : List Presence) (links : List Nat) : Bool :=
  q.variants.all (q.variantOk shape) && q.variants.any fun v => v.fits ranks links

/-! ### Regions -/

def Plan.overlaps (a b : Plan) : Bool := (a.tiles &&& b.tiles) != 0 || (a.sites &&& b.sites) != 0

/-- Every site and tile claimed is declared and in service, and every site that a stripe lists is declared (09 R231); a listed number
that is no site is a form error of the stripe. -/
def Plan.regionPresent (q : Plan) (s : State) : Bool :=
  (List.range 24).all (fun i => !q.hasSite i || ((s.site i).tier != 0 && (s.site i).state != .failed)) &&
  (List.range 16).all (fun t => !q.hasTile t || !(s.tile t).retired) &&
  q.stripes.all fun r => (stripeSites r).all fun i => decide (24 ≤ i) || (s.site i).tier != 0

/-! ### TABLE_LIMIT -/

/-- Step tables and the frame-table numbers in them (01 R19, R25). -/
def Plan.stepTablesOk (q : Plan) : Bool :=
  let rowOk (row : List Nat) : Bool :=
    row.length == 18 && row.zipIdx.all fun e => decide (e.1 < q.tables.length) &&
      decide ((q.table e.1).length ≤ if e.2 < 16 then 1024 else 4096)
  decide (1 ≤ q.steps.length) && decide (q.steps.length ≤ 4) && decide (q.tables.length ≤ 4096) &&
  (q.steps.zipIdx.all fun e => e.1.frames.length == (if e.2 = 0 then q.stepLen else e.1.stepLen) &&
    (e.2 == 0 || e.1.uframes.length == q.reds.length) && e.1.uframes.all fun u => decide (u < e.1.stepLen)) &&
  q.allRows.all rowOk && q.initTab.length % 18 == 0 && q.restoreTab.length % 18 == 0 &&
  q.variants.all fun v => decide (v.stab < q.steps.length)

/-- Program addresses lie in the plan, and its programs end (01 R19; 03 R476). -/
def Plan.programsOk (q : Plan) : Bool :=
  q.tables.flatten.all fun e =>
    if e.kind = .mover then decide (e.addr < q.moverLists.length)
    else decide (e.addr < q.programs.length) && (e.kind != .cores || ((q.progWords e.addr).map loopsEnd).getD false)

/-- Carry-table entries (03 R103). -/
def Plan.carryOk (q : Plan) : Bool :=
  q.carry.all fun e => decide (3840 ≤ bfld e 48 16 ∧ bfld e 48 16 ≤ 4095) &&
    (match q.steps[bfld e 30 2]? with
     | some t => decide (bfld e 32 16 < if bfld e 30 2 = 0 then q.stepLen else t.stepLen)
     | none => false)

/-- Elements of a layer's descriptors. -/
def Plan.layerElems (q : Plan) (e : Rec) : Nat :=
  ((List.range (rf e 0 17 8)).map fun i => prod (Desc.sizes (q.descs.getD (rf e 1 48 16 + i) 0))).foldl (· + ·) 0

/-- One layer entry (08 R201, R202). -/
def Plan.layerOk (q : Plan) (e : Rec) : Bool :=
  let lam := sext (rf e 0 34 8) 8
  decide (rf e 0 42 6 < q.grps) && decide (-64 ≤ lam ∧ lam ≤ 63) && (rf e 0 33 1 == 1 || rf e 0 25 8 == 0) && rf e 0 0 17 == 0 &&
  rf e 1 0 16 == 0 && decide (rf e 1 48 16 + rf e 0 17 8 ≤ q.descs.length) && rf e 1 16 32 == q.layerElems e

def allDistinct (l : List Nat) : Bool := l.eraseDups.length == l.length

/-- k and g ascend together among the entries of one set. -/
def setsAscend : List W32 → Bool
  | [] => true
  | a :: as => as.all (fun b => bfld a 8 8 != bfld b 8 8 || decide (bfld a 16 16 < bfld b 16 16)) && setsAscend as

/-- Micro-batch map of one variant (08 R203). -/
def Plan.mbmapOk (q : Plan) (i : Nat) (v : Variant) : Bool :=
  let of (r : Nat) : List W32 := (List.range (q.mbCount v)).map (q.mbWord i r)
  let all := v.rankList.flatMap of
  all.all (fun w => decide (bfld w 8 8 < q.training? 1 48 8) && bfld w 0 8 == 0) && allDistinct (all.map fun w => bfld w 16 16) &&
  v.rankList.all fun r => setsAscend (of r)

/-- Training record and its tables (08 R200 to R203, R215, R217). -/
def Plan.trainingOk (q : Plan) : Bool :=
  match q.training with
  | none => true
  | some r =>
    decide (rf r 1 56 8 ≤ 64) && decide (rf r 1 48 8 ≤ rf r 1 56 8) && rf r 1 20 12 == q.layers.length && rf r 1 8 12 == q.experts.length &&
    q.lrtab.length == q.lrn && q.grpmul.length == q.grps && decide (q.grps ≤ 64) && (q.layers.isEmpty || (q.lrn != 0 && q.grps != 0)) &&
    rf r 2 32 32 % 256 == 0 && decide (rf r 2 32 32 + 512 ≤ 0x8000000) &&
    rf r 2 0 17 == 0 && rf r 5 0 16 == 0 && r.getD 6 0 == 0 && r.getD 7 0 == 0 &&
    q.layers.all q.layerOk && allDistinct (q.layers.map fun e => rf e 0 48 16) &&
    q.variants.all (fun v => decide (v.mbsv ≤ rf r 1 56 8)) && (q.variants.zipIdx.all fun e => q.mbmapOk e.2 e.1) && lrOk q.lrtab &&
    q.experts.all fun e => decide (1 ≤ rf e 0 36 4 ∧ rf e 0 36 4 ≤ 8 ∧ rf e 0 36 4 ≤ rf e 0 40 8 + 1) &&
      rf e 0 0 20 == 0 && rf e 1 0 32 == 0

/-- Reduction records name layers, and every layer with parameters has one (11 R295). -/
def Plan.redsOk (q : Plan) : Bool :=
  q.reds.all (fun r => q.layers.any (fun e => rf e 0 48 16 == redLayer r) && decide (redUframe r < q.stepLen)) &&
  q.layers.all fun e => rf e 1 16 32 == 0 || q.reds.any fun r => redLayer r == rf e 0 48 16

/-- Byte span of a descriptor from BASE, exclusive, in its own offsets: dense and planar, bit-planed or zero-compressed. -/
def Desc.span (d : Desc) : Nat :=
  if d.empty then 0
  else if d.form = 2 then ceilDiv (prod d.sizes) 2048 * d.w * 256
  else if d.form = 3 then ceilDiv d.groupCount 64 * d.slotBytes
  else (d.sizes.zipIdx.foldl (fun a e => a + (e.1 - 1) * d.stride e.2) 0) + ceilDiv (d.size 0 * d.w) 8

/-- Bytes of the scale array. -/
def Desc.scaleSpan (d : Desc) : Nat := if d.scaled && !d.empty then prod d.sizes.tail * ceilDiv (d.size 0) d.gsz else 0

/-- Parts of bytes `a` to `b` of a stripe group in each site: a site's units follow one another there (09 R232). -/
def stripeParts (r : Rec) (a b : Nat) : List (Nat × Nat) :=
  let u := 2 ^ rf r 0 43 5
  let n := max 1 (rf r 0 48 8)
  if b ≤ a then []
  else
    (stripeSites r).zipIdx.filterMap fun e =>
      let us := (List.range ((b - 1) / u - a / u + 1)).filterMap fun i => if (a / u + i) % n = e.2 then some (a / u + i) else none
      match us, us.getLast? with
      | f :: _, some g => some (stripeAddr r (max a (f * u)), stripeAddr r (min b (g * u + u) - 1) + 1)
      | _, _ => none

/-- Device address ranges of a descriptor's footprint: first byte and end. -/
def Plan.ranges (q : Plan) (d : Desc) : List (Nat × Nat) :=
  let own := [(d.base, d.base + d.span), (d.scaleBase, d.scaleBase + d.scaleSpan)].filter fun r => decide (r.1 < r.2)
  if d.stripe = 0 then own
  else match q.stripes.find? fun r => rf r 0 56 8 == d.stripe with
    | some r => own.flatMap fun x => stripeParts r x.1 x.2
    | none => []

def rangesMeet (a b : List (Nat × Nat)) : Bool := a.any fun x => b.any fun y => decide (x.1 < y.2 ∧ y.1 < x.2)

/-- Areas of a reduction record: first byte and end. -/
def Plan.redAreas (q : Plan) (r : Rec) : List (Nat × Nat) :=
  let b := q.blocks (redLayer r)
  let k := redRounds r
  [(rf r 1 0 48, 512 * b), (rf r 2 0 48, 512 * b * k), (rf r 3 0 48, redCountBytes q r * (k + 1)), (rf r 4 0 48, b),
   (redDigest r, 0x500 * (k + 1))].filterMap fun e => if e.2 = 0 then none else some (e.1, e.1 + e.2)


/-- Most parameters that an owner's shard of a reduction record has under some variant. -/
def Plan.shardParams (q : Plan) (red owner : Nat) : Nat :=
  128 * maxOf (q.variants.map fun v => (q.shard v (redLayer (q.reds.getD red [])) owner).2)

/-- An access of a slot to device memory: a write or a read, and the bytes, first and end. -/
abbrev Touch := Bool × List (Nat × Nat)

/-- Device bytes that an engine or port act reads and writes (08 R209 to R213; 11 R304 to R318). Ranks run one program, so what an act sends
to a rank's address stands for what arrives at this one. -/
def Plan.jobTouches (q : Plan) (j : EngineJob) : List Touch :=
  let area (red : Nat) : List (Nat × Nat) := q.redAreas (q.reds.getD red [])
  let trailerBytes (params : Nat) : Nat := 256 * ceilDiv (ceilDiv params unitParams) 30
  match j with
  | .contribute red owner _ grads _ => [(false, grads.map fun g => (g, g + 4 * q.shardParams red owner)), (true, area red)]
  | .forward red _ _ _ | .raise red _ _ | .commit red _ _ | .exponents red _ => [(false, area red), (true, area red)]
  | .trailer red owner codes sums dst =>
    let n := q.shardParams red owner
    [(false, [(codes, codes + 2 * n), (sums, sums + 8 * ceilDiv n unitParams)]), (true, [(dst, dst + trailerBytes n)])]
  | .spread _ _ base lines _ => [(false, [(base, base + 256 * lines)]), (true, [(base, base + 256 * lines)])]
  | .rescale _ trailers copies =>
    let cs := copies.map fun a => (a.1, a.1 + 2 * a.2)
    [(false, cs ++ trailers.map fun t => (t.1, t.1 + 256 * ceilDiv t.2 30)), (true, cs)]
  | .outflow _ base lines => [(false, [(base, base + 256 * lines)])]

/-- Device bytes that an act of core `k` reads and writes; `block` gives those of a block of a descriptor. -/
def Act.touches (block : Nat → Nat × Nat × Nat → List (Nat × Nat)) (k : Nat) : Act → List Touch
  | .xfer _ load (some o) _ _ _ _ => [(!load, block o.1 o.2)]
  | .xfer _ load none rows _ _ _ => [(!load, rows)]
  | .spill _ mode _ a =>
    let r := [(tileAddr (keyTile k) a, tileAddr (keyTile k) a + 8192)]
    (if mode = 1 then [] else [(false, r)]) ++ if mode = 2 then [] else [(true, r)]
  | _ => []

/-- Device bytes that a slot reads and writes, in the order of its acts. -/
def Plan.touches (q : Plan) (block : Nat → Nat × Nat × Nat → List (Nat × Nat)) (e : SlotEntry) : List Touch :=
  match e.kind with
  | .mover => (q.moverList e.addr).flatMap fun w =>
      [(false, block (mcf w 0 48 16) (mcf w 1 0 32, mcf w 1 32 32, mcf w 2 0 32)),
       (true, block (mcf w 0 32 16) (mcf w 2 32 32, mcf w 3 0 32, mcf w 3 32 32))]
  | .cores => e.cores.flatMap fun k => (q.acts e k).flatMap (Act.touches block k)
  | _ => ((q.engine? e.addr).map fun g => g.jobs.flatMap q.jobTouches).getD []

/-- The bytes of a block, and the footprint of its whole tensor. -/
def Plan.blockRanges (q : Plan) (n : Nat) (o : Nat × Nat × Nat) : List (Nat × Nat) :=
  (q.blockBytes (q.descs.getD n 0) o).map fun a => (a, a + 1)
def Plan.wholeRanges (q : Plan) (n : Nat) (_ : Nat × Nat × Nat) : List (Nat × Nat) := q.ranges (q.descs.getD n 0)

/-- No slot of the first CKFRAMES frames of a step writes into a persistent descriptor (15 R429, R438). -/
def Plan.ckptOk (q : Plan) (outs : List Nat) : Bool :=
  match q.ckpt with
  | none => true
  | some r =>
    (ckStream r == 0xFFFF || outs.contains (ckStream r)) &&
    let kept := q.persist.flatMap fun e => q.ranges (persistDesc q e)
    decide (1 ≤ ckFrames r ∧ ckFrames r ≤ 4096) && decide (1 ≤ ckRframes r ∧ ckRframes r ≤ 4096) && rf r 2 48 16 != 0 &&
    decide (rf r 0 48 16 ≤ 256) && rf r 0 48 16 == q.persist.length && decide (rf r 1 14 2 ≤ 1) && rf r 1 0 14 == 0 &&
    q.steps.all fun t => (t.frames.take (ckFrames r)).all fun row => (q.frameSlots row).all fun e =>
      (q.touches q.blockRanges e.2).all fun t => !t.1 || !rangesMeet t.2 kept

/-- Level entry: 3 is L3, 0 is L0. -/
def lvM (n : Rec) (l : Nat) : Nat := rf n (4 + 2 * (3 - l)) 32 32
def lvN (n : Rec) (l : Nat) : Nat := rf n (4 + 2 * (3 - l)) 0 32
def lvK (n : Rec) (l : Nat) : Nat := rf n (5 + 2 * (3 - l)) 32 32
def lvOrder (n : Rec) (l : Nat) : Nat := rf n (5 + 2 * (3 - l)) 30 2
def lvVisit (n : Rec) (l : Nat) : Nat := rf n (5 + 2 * (3 - l)) 27 3
def lvList (n : Rec) (l : Nat) : Nat := rf n (5 + 2 * (3 - l)) 0 16

/-- Sub-tiles of a level inside the level above. -/
def nestGrid (n : Rec) (l : Nat) : Nat × Nat :=
  let m := if l = 3 then rf n 1 32 32 else min (lvM n (l + 1)) (rf n 1 32 32)
  let k := if l = 3 then rf n 1 0 32 else min (lvN n (l + 1)) (rf n 1 0 32)
  (ceilDiv m (lvM n l), ceilDiv k (lvN n l))

/-- Order 1: an explicit list holds at most 4,096 entries (06 R162, R174). -/
def listLens (n : Rec) : Bool :=
  (List.range 4).all fun l => lvVisit n l != 4 || decide ((nestGrid n l).1 * (nestGrid n l).2 ≤ 4096)

/-- TABLE_LIMIT passes. An outflow stream that a program or the checkpoint record names is declared (13 R384); `outs` are those that
are. R131 names no code for a plan with more than 65,536 descriptors: DESIGN CHOICE, this one (log 65). -/
def Plan.tablesOk (q : Plan) (outs : List Nat) : Bool :=
  !q.beyond && q.streams.all outs.contains && decide (q.descs.length ≤ 65536) && decide (q.variants.length ≤ 4) && q.stepTablesOk && q.programsOk && q.carryOk && q.trainingOk && q.redsOk &&
  decide (q.resp ≤ 1) && q.ckptOk outs && decide (q.nests.length ≤ 16384) && q.nests.all listLens

/-! ### Slots -/

/-- DEADLINE_WINDOW passes. -/
def Plan.deadlinesOk (q : Plan) : Bool :=
  q.tables.flatten.all fun e => decide (e.deadline ≤ 1900 * (q.period - q.lull)) && decide (e.start ≤ e.deadline)

/-- A slot's units lie in the region. -/
def Plan.unitsIn (q : Plan) (seqr : Nat) (e : SlotEntry) : Bool :=
  match e.kind with
  | .cores => decide (e.top + e.height ≤ 288 ∧ e.left + e.width ≤ 288) && e.tiles.all q.hasTile
  | .mover => decide (16 ≤ seqr) || q.hasTile seqr
  | _ => true

/-- Two slots of a frame on common units overlap from start to deadline. -/
def slotsClash (a b : Nat × SlotEntry) : Bool :=
  a.2.kind == b.2.kind &&
  (if a.2.kind = .cores then a.2.overlaps b.2 else (a.2.kind != .mover || a.1 == b.1) && a.2.units.any b.2.units.contains) &&
  decide (a.2.start < b.2.deadline ∧ b.2.start < a.2.deadline)

def noClash : List (Nat × SlotEntry) → Bool
  | [] => true
  | a :: as => as.all (fun b => !slotsClash a b) && noClash as

/-- UNIT_OVERLAP passes. -/
def Plan.unitsOk (q : Plan) : Bool :=
  q.allRows.all fun row => let es := q.frameSlots row; es.all (fun e => q.unitsIn e.1 e.2) && noClash es

/-! ### Ports (01 R28; 10 R267, R270; 13 R367) -/

/-- Bytes of a frame by port and direction: those of the tile sequencers of the region and of the conductors (01 R28). -/
def Plan.rowBytes (q : Plan) (row : List Nat) (k : Nat) : Nat :=
  (row.zipIdx.map fun e => if 16 ≤ e.2 ∨ q.hasTile e.2 then (q.portDecl.getD e.1 []).getD k 0 else 0).foldl (· + ·) 0

/-- Largest of these over every frame of every step table. -/
def Plan.peakBytes (q : Plan) (k : Nat) : Nat := maxOf (q.steps.flatMap fun t => t.frames.map fun row => q.rowBytes row k)

/-- Bytes that a port carries in a frame's work window. -/
def portCap (w k : Nat) : Nat := (if k < 12 then 180000 else 88000) * w

/-- PORT_BUDGET passes: `qs` are all plans of the image. -/
def Plan.portsOk (q : Plan) (qs : List Plan) : Bool :=
  (List.range 14).all (fun k => decide ((qs.map fun x => x.peakBytes k).foldl (· + ·) 0 ≤ portCap (q.period - q.lull) k)) &&
  (List.range 6).all fun p =>
    decide ((qs.map fun x => x.shares.getD p 0).foldl (· + ·) 0 ≤ 15296) &&
    (q.shares.getD p 0 != 0 || q.portDecl.all fun d => d.getD (2 * p) 0 == 0 && d.getD (2 * p + 1) 0 == 0)

/-! ### Intake (12 R324 to R327, R356) -/

def laneClaim (r : Rec) : Nat := rf r 0 60 4
def laneOf (r : Rec) : Nat := rf r 0 58 2

/-- Bucket records of a lane: D0, D1, MAXB. -/
def IntakeCfg.bucketsOf (c : IntakeCfg) (r : Rec) : List (Nat × Nat × Nat) :=
  (List.range (laneNbkt r)).map fun i =>
    let b := (c.buckets.getD (laneOf r) []).getD (laneFirstb r + i) []
    (rf b 0 32 32, rf b 0 0 32, rf b 1 0 32)

/-- Bytes of one micro-batch slot of the staging ring (12 R342). -/
def slotBytesOf (r : Rec) (pattern : List Nat) (bs : List (Nat × Nat × Nat)) : Nat :=
  ((List.range (lanePpm r)).map fun i => let b := bs.getD (pattern.getD i 0) (0, 0, 0); roundUp (posBytes r b.1 b.2.1) 256).foldl (· + ·)
    (maskBytes r)

/-- The kind words are in range (12 Table 12.2). -/
def kindOk (r : Rec) : Bool :=
  match laneKind r with
  | 0 => decide (1 ≤ laneLevels r ∧ laneLevels r ≤ 6) && decide (laneRatio r ≤ 2) && (laneCh r == 1 || laneCh r == 3) && rf r 6 32 23 == 0 &&
      r.getD 7 0 == 0
  | 1 => decide (1 ≤ laneCh r ∧ laneCh r ≤ 8) && rf r 6 32 7 == 0
  | 2 => decide (256 ≤ rf r 6 32 19 ∧ rf r 6 32 19 ≤ 262144) && rf r 6 51 13 == 0 && rf r 7 32 32 == 0
  | 3 => (rf r 6 16 4 == 9 || rf r 6 16 4 == 7 || rf r 6 16 4 == 6) && rf r 6 0 16 == 0 && rf r 7 32 32 == 0
  | _ => false

/-- The staging area lies in one site of the region, in the part that its tier maps (02 R57); never in a tile store, which staged data
reaches through delivery slots alone (R345). -/
def State.stageOk (s : State) (q : Plan) (lo hi : Nat) : Bool :=
  let i := lo / 0x4000000000
  decide (lo < hi) && q.hasSite i && (match s.place lo, s.place (hi - 1) with
    | .site a _, .site b _ => a == i && b == i
    | _, _ => false)

def dtabAscends : List W32 → Bool
  | a :: b :: r => decide (a.toNat < b.toNat) && dtabAscends (b :: r)
  | _ => true

/-- A lane's delivery tables, one for each step table: entries in ascending order, with reserved bits 0, frames of the step and
micro-batches of the plan (12 R343). -/
def Plan.dtabOk (q : Plan) (dtab : List (List W32)) : Bool :=
  dtab.length == q.steps.length && dtab.zipIdx.all fun t =>
    let len := if t.2 = 0 then q.stepLen else ((q.steps[t.2]?).map (·.stepLen)).getD 0
    dtabAscends t.1 && t.1.all fun e => bfld e 0 7 == 0 && decide (bfld e 16 16 < len) && (q.training.isNone || decide (bfld e 8 8 < q.training? 1 56 8))

/-- One lane of plan `p`. The stream that its manifests go out on is declared (13 R384). -/
def IntakeCfg.laneOk (c : IntakeCfg) (s : State) (q : Plan) (r : Rec) : Bool :=
  let bs := c.bucketsOf r
  let outs := s.host.outs.map (·.stream)
  let pat := ((q.laneTabs.find? fun t => t.lane == laneClaim r).map (·.pattern)).getD []
  outs.contains (laneMstream r) && q.dtabOk (((q.laneTabs.find? fun t => t.lane == laneClaim r).map (·.dtab)).getD []) &&
  decide (laneKind r ≤ 3) && decide (laneFirstb r + laneNbkt r ≤ 16) && decide (1 ≤ rf r 0 32 7 ∧ rf r 0 32 7 ≤ 64) && rf r 1 32 6 == 0 && rf r 1 0 16 == 0 &&
  lanePpm r != 0 && lanePpm r % max 1 (q.training? 1 32 16) == 0 && laneMaxd0 r != 0 && laneStage r % 256 == 0 &&
  rf r 3 60 4 == 0 && rf r 4 48 16 == 0 && kindOk r &&
  bs.all (fun b => b.1 != 0 && (decide (2 ≤ laneKind r) || b.2.1 != 0) && decide (b.1 ≤ laneMaxd0 r) && decide (b.2.1 ≤ laneMaxd1 r) &&
    (laneKind r == 3 || b.2.2 != 0)) &&
  bs.all (fun b => decide ((bs.getD 0 (0, 0, 0)).1 ≤ b.1) && decide ((bs.getD 0 (0, 0, 0)).2.1 ≤ b.2.1)) &&
  pat.length == lanePpm r && pat.all (fun b => decide (b < laneNbkt r)) &&
  (decide (laneKind r < 2) || laneMaxd1 r == 0) &&
  decide (2 * slotBytesOf r pat bs ≤ laneStagesz r) && s.stageOk q (laneStage r) (laneStage r + laneStagesz r)

def sumOf (l : List Rec) (f : Rec → Nat) : Nat := (l.map f).foldl (· + ·) 0

/-- INTAKE_FORM passes for plan `p`. -/
def Image.intakeOk (i : Image) (s : State) (p : Nat) (q : Plan) : Bool :=
  match i.intake with
  | none => true
  | some c =>
    let l := c.lanes.take c.nlane
    decide (c.nlane ≤ 16) && allDistinct (l.map laneClaim) && decide ((c.buckets.getD p []).length ≤ 16) &&
    decide (sumOf l laneNj ≤ 32) && decide (sumOf l laneNp ≤ 8) && decide (sumOf l laneNr ≤ 16) && decide (sumOf l laneNa ≤ 64) &&
    decide (sumOf l laneNt ≤ 8) && decide (sumOf l (fun r => rf r 0 32 7) ≤ 64) &&
    l.all fun r => laneOf r != p || c.laneOk s q r

/-- Lane records of a plan. -/
def Image.lanesFor (i : Image) (p : Nat) : List Rec :=
  ((i.intake.map fun c => c.lanes.take c.nlane).getD []).filter fun r => laneOf r == p

/-! ### The rest of Table 1.3 -/

/-- WATCH_LIMIT passes (04 R127). An ID declared twice fails, by one plan too (log 46). -/
def watchesOk (qs : List Plan) : Bool :=
  let ids := qs.flatMap fun q => q.watches.map fun w => bfld w 52 12
  decide (ids.length ≤ 4096) && allDistinct ids

/-- GRACE_FORM passes (01 R37). With a count of 0 the length is not used, but it is declared and checked alike. -/
def Plan.graceOk (q : Plan) : Bool :=
  decide (q.graceCnt ≤ 2) && decide (10 ≤ q.graceLen ∧ q.graceLen ≤ q.period / 4)

/-- REDUNDANCY_FORM passes: a twin stands in another tile of the region (14 R393). -/
def Plan.twinsOk (q : Plan) : Bool :=
  q.variants.all fun v => v.twins.all fun t =>
    keyTile t.primary != keyTile t.twin && q.hasTile (keyTile t.primary) && q.hasTile (keyTile t.twin)

/-- RESERVE_SLOTS passes (11 R295). -/
def Plan.reserveOk (q : Plan) : Bool := q.reds.all fun r => redPolicy r == 0 || redRounds r != 0

/-- Halo counters of a window record with HSTR not 0: one for each stripe of its map (07 R190). -/
def Plan.haloTokens (q : Plan) (w : Rec) : List Nat :=
  if rf w 3 48 16 = 0 then []
  else (List.range (ceilDiv (Desc.size (q.descs.getD (rf w 1 16 16) 0) 1) (rf w 3 48 16))).map (rf w 3 36 12 + ·)

/-- Descriptors that a slot reads: of descriptor-form PLDs and of mover commands. -/
def Plan.readDescs (q : Plan) (e : SlotEntry) : List Nat :=
  match e.kind with
  | .mover => (q.moverList e.addr).map fun w => mcf w 0 48 16
  | .cores => ((q.trace e.addr).filter fun w => opc w == 0x02 && bfld w 117 1 == 1).map fun w => bfld w 101 16
  | _ => []

/-- Halo counters that a frame's window consumers wait on, by tile: those of the records whose map the waiting slot gathers
(07 R191). -/
def Plan.haloWaits (q : Plan) (row : List Nat) : List (Nat × Nat) :=
  (q.frameSlots row).flatMap fun e =>
    let toks := (q.windows.filter fun w => (q.readDescs e.2).contains (rf w 1 16 16)).flatMap q.haloTokens
    ((q.waits e.2).filter fun x => x.2.2 != 0 && toks.contains x.2.1).map fun x => (x.1, x.2.1)

/-- Slack of a slot (07 R193): r_twin is 48 in a redundancy variant (14 R393). -/
def Plan.slack (q : Plan) (e : SlotEntry) : Nat :=
  if e.kind != .cores then 4
  else
    let t := q.trace e.addr
    let twin := if q.variants.any Variant.twinned then 48 else 0
    4 * (1 + (t.filter fun w => opc w == 0x0D).length) + twin * (t.filter fun w => opc w == 0x03).length

/-- HALO_SLACK passes: a slot that signals a counter some window consumer of the frame waits on, in the same tile, has the slack. -/
def Plan.haloOk (q : Plan) : Bool :=
  q.allRows.all fun row =>
    let toks := q.haloWaits row
    (q.frameSlots row).all fun e =>
      !((q.signals e.2).any fun g => toks.contains (g.1, g.2.1)) ||
        decide (e.2.start + q.slotCycles e.2 + q.slack e.2 ≤ e.2.deadline)

end Sys2Proof.Machine
end

