-- ==== Sys2Proof/Machine/ValidateDesc.lean ====
section
/-! DEFINITION. Plan validation, the checks of descriptors and mover commands (05 Table 5.10), stripes and sinks (09 R231, R241),
reduction areas (11 R295), window records (07 R176 to R199), nest records (06 Table 6.12, R171) and formats (04 R112). -/

namespace Sys2Proof.Machine

/-! ### Descriptors (05 Table 5.10) -/

/-- Order 1: reserved bits and types. -/
def Desc.bitsOk (d : Desc) : Bool :=
  d.f 0 56 8 == 0 && d.f 1 48 16 == 0 && d.f 2 61 3 == 0 && (List.range 7).all (fun k => d.f (7 + k) 48 16 == 0) && d.f 14 0 64 == 0 &&
  d.f 15 48 16 == 0 && d.w != 0

/-- Order 2: forms that Table 5.2 gives the type. -/
def Desc.formOk (d : Desc) : Bool :=
  let t := d.etype
  match d.form with
  | 2 => t == 0 || t == 1 || t == 2 || t == 5 || t == 6 || decide (0x10 ≤ t)
  | 3 => t == 3 || t == 4 || decide (6 ≤ t ∧ t ≤ 0x0A)
  | _ => !(t == 1 || t == 2 || decide (0x10 ≤ t))

/-- Order 3: the fold (05 R135), and nothing at or above the rank. -/
def Desc.foldOk (d : Desc) : Bool :=
  decide (1 ≤ d.f1 ∧ d.f1 ≤ d.f2 ∧ d.f2 ≤ d.rank) && (List.range 3).all (fun a => decide (d.tiled a < 2 ^ 32)) &&
  (List.range 8).all fun k => decide (k < d.rank) || (d.size k == 0 && d.stride k == 0)

/-- Bytes that axes 0 to `n - 1` span. -/
def Desc.axesSpan (d : Desc) (n : Nat) : Nat :=
  ((List.range n).foldl (fun a k => a + (d.size k - 1) * d.stride k) 0) + ceilDiv (d.size 0 * d.w) 8

def rising : List Nat → Bool
  | a :: b :: r => decide (a < b) && rising (b :: r)
  | _ => true

/-- Order 4: planar form (05 R138). -/
def Desc.planarOk (d : Desc) : Bool :=
  if d.form = 1 then
    decide (2 ≤ d.chax ∧ d.chax < d.rank) && rising ((List.range d.chax).map fun k => d.stride (k + 1)) && d.stride 1 % 32 == 0 &&
    d.stride d.chax % 256 == 0 && decide (d.axesSpan d.chax ≤ d.stride d.chax)
  else d.chax == 0

/-- Order 5: strides and alignment (05 R137, R139, R141, Table 5.7). -/
def Desc.alignOk (d : Desc) : Bool :=
  if 2 ≤ d.form then
    (List.range 8).all (fun k => d.stride k == 0) && d.base % 256 == 0 && (!d.scaled || d.scaleBase % 256 == 0)
  else
    (List.range d.rank).all (fun k => d.stride k % 32 == 0) && d.base % 32 == 0 && (!d.scaled || d.scaleBase % 32 == 0)

/-- Where a range lies whole: a site, a tile store (numbered from 24), or neither. -/
def State.holder (s : State) (a b : Nat) : Option Nat :=
  match s.place a, s.place (b - 1) with
  | .site i _, .site j _ => if i = j then some i else none
  | .store t _, .store u _ => if t = u then some (24 + t) else none
  | _, _ => none

/-- Order 6: the footprint lies in one range (05 R149; 09 R230; 02 R57). -/
def Desc.placedOk (d : Desc) (q : Plan) (s : State) : Bool :=
  if d.empty then true
  else if d.stripe = 0 then
    let hs := ([(d.base, d.base + d.span), (d.scaleBase, d.scaleBase + d.scaleSpan)].filter fun r => decide (r.1 < r.2)).map fun r =>
      s.holder r.1 r.2
    hs.all Option.isSome && hs.all (· == hs.headD none)
  else match q.stripes.find? fun r => rf r 0 56 8 == d.stripe with
    | some r => decide (d.base + d.span ≤ rf r 0 48 8 * rf r 2 0 40) &&
        (!d.scaled || decide (d.scaleBase + d.scaleSpan ≤ rf r 0 48 8 * rf r 2 0 40))
    | none => false

/-- Order 7: VPLANES (05 R140) and FILL. -/
def Desc.viewOk (d : Desc) : Bool :=
  (d.vplanes == 0 || (d.form == 2 && (d.etype == 5 || d.etype == 6 || decide (0x10 ≤ d.etype)) && decide (d.vplanes ≤ d.w))) &&
  decide (d.fill < 2 ^ d.w)

/-- Order 8. -/
def Desc.extentOk (d : Desc) : Bool := (!d.scaled || d.ext 0 % d.gsz == 0) && d.ext 0 * d.pw % 8 == 0

def Desc.ok (d : Desc) (q : Plan) (s : State) : Bool :=
  d.bitsOk && d.formOk && d.foldOk && d.planarOk && d.alignOk && d.placedOk q s && d.viewOk && d.extentOk

/-- Every stride of a destination is at least the span of the axes of smaller stride; an axis of size 1 may have stride 0 (05 R148,
Table 5.11). -/
def Desc.injective (d : Desc) : Bool :=
  if 2 ≤ d.form then true
  else
    let axes := sortBy (·.1) (((List.range d.rank).drop 1).filterMap fun k =>
      if d.size k = 1 ∧ d.stride k = 0 then none else some (d.stride k, d.size k))
    (List.range d.rank).all (fun k => k == 0 || decide (d.size k ≤ 1) || d.stride k != 0) &&
    (axes.foldl (fun (r : Nat × Bool) a => (r.1 + (a.2 - 1) * a.1, r.2 && decide (r.1 ≤ a.1))) (ceilDiv (d.size 0 * d.w) 8, true)).2

/-- A destination block covers whole chunks or segments (05 R144). -/
def Desc.wholeBlock (d : Desc) (o0 o1 o2 : Nat) : Bool :=
  if d.form < 2 || d.empty then true
  else
    let unitOf (idx : List Nat) : Nat := if d.form = 2 then linear d.sizes idx / 2048 else d.groupOf idx / 64
    let ps := (d.block o0 o1 o2).filterMap id
    let us := (ps.map unitOf).eraseDups
    (List.range (prod d.sizes)).all fun x => let idx := splitIdx d.sizes x; !us.contains (unitOf idx) || ps.contains idx

/-- Order 9: a destination. -/
def Desc.destOk (d : Desc) (o0 o1 o2 : Nat) : Bool := d.vplanes == 0 && d.injective && d.wholeBlock o0 o1 o2

/-- Order 10: a mover command (05 R145; 07 R181: no window view). -/
def Plan.moveOk (q : Plan) (w : BitVec 256) : Bool :=
  match q.descs[mcf w 0 48 16]?, q.descs[mcf w 0 32 16]? with
  | some a, some b =>
    let a : Desc := a
    let b : Desc := b
    mcf w 0 0 16 == 0 && a.etype == b.etype && a.scaled == b.scaled && a.gsz == b.gsz && (List.range 3).all (fun k => a.ext k == b.ext k) &&
    (if 2 ≤ a.form then a.form == b.form else decide (b.form < 2)) && (q.windowOf (mcf w 0 48 16)).isNone &&
    (q.windowOf (mcf w 0 32 16)).isNone && b.destOk (mcf w 2 32 32) (mcf w 3 0 32) (mcf w 3 32 32)
  | _, _ => false

/-- Descriptor and origins of an act that is a PLD (or a PST) through a descriptor. -/
def Act.block? (load : Bool) : Act → Option (Nat × Nat × Nat × Nat)
  | .xfer _ l d _ _ _ _ => if l = load then d else none
  | _ => none

/-- The blocks that a core's PSTs write lie in named descriptors, which are no window view, and are destinations in form (05 R144;
07 R181). -/
def Plan.pstsOk (q : Plan) : Bool :=
  q.coreSlots.all fun e => e.cores.all fun k => ((q.acts e k).filterMap (Act.block? false)).all fun b =>
    match q.descs[b.1]? with
    | some d => (q.windowOf b.1).isNone && Desc.destOk d b.2.1 b.2.2.1 b.2.2.2
    | none => false

/-! ### Stripes and sinks -/

/-- One stripe record (09 R231). -/
def Plan.stripeOk (q : Plan) (s : State) (r : Rec) : Bool :=
  let u := 2 ^ rf r 0 43 5
  let n := rf r 0 48 8
  let l := stripeSites r
  rf r 0 0 43 == 0 && rf r 1 40 24 == 0 && rf r 2 40 24 == 0 && decide (1 ≤ rf r 0 56 8) && decide (1 ≤ n ∧ n ≤ 24) &&
  decide (8 ≤ rf r 0 43 5 ∧ rf r 0 43 5 ≤ 24) && rf r 2 0 40 != 0 && rf r 1 0 40 % u == 0 && rf r 2 0 40 % u == 0 && allDistinct l && l.all q.hasSite &&
  ((List.range 24).drop n).all (fun i => rf r (3 + i / 8) (8 * (i % 8)) 8 == 0xFF) &&
  l.all fun i => (s.site i).tier == (s.site (l.headD 0)).tier && decide (rf r 1 0 40 + rf r 2 0 40 ≤ siteCap (s.site i).tier)

def stripeRanges (r : Rec) : List (Nat × Nat) :=
  (stripeSites r).map fun i => (i * 0x4000000000 + rf r 1 0 40, i * 0x4000000000 + rf r 1 0 40 + rf r 2 0 40)

def apartAll {α : Type} (meet : α → α → Bool) : List α → Bool
  | [] => true
  | x :: xs => xs.all (fun y => !meet x y) && apartAll meet xs

/-- The stripe table. -/
def Plan.stripesOk (q : Plan) (s : State) : Bool :=
  q.stripes.all (q.stripeOk s) && allDistinct (q.stripes.map fun r => rf r 0 56 8) &&
  apartAll (fun a b => rangesMeet (stripeRanges a) (stripeRanges b)) q.stripes &&
  q.stripes.all fun r => q.descs.all fun d => Desc.stripe d != 0 || !rangesMeet (q.ranges d) (stripeRanges r)

/-- The sink table (09 R241). -/
def Plan.sinksOk (q : Plan) (s : State) : Bool :=
  decide (q.sinks.length ≤ 64) && q.sinks.all fun r =>
    let a := rf r 0 0 48
    let n := rf r 1 0 48
    a % 256 == 0 && n % 256 == 0 && (n == 0 || match s.holder a (a + n) with
      | some i => decide (i < 24) && q.hasSite i
      | none => false)

/-! ### Reduction areas (11 R295) -/

def Plan.areasOk (q : Plan) (s : State) : Bool :=
  let all := q.reds.flatMap q.redAreas
  all.all (fun a => a.1 % 512 == 0 && (match s.holder a.1 a.2 with
    | some i => decide (i < 24) && q.hasSite i
    | none => false)) &&
  apartAll (fun x y => rangesMeet [x] [y]) all &&
  (q.stripes.filter fun r => decide (rf r 0 43 5 < 9)).all fun r => !rangesMeet all (stripeRanges r)

/-! ### Window records (07) -/

/-- Map of a window record. -/
def Plan.mapOf (q : Plan) (w : Rec) : Desc := q.descs.getD (rf w 1 16 16) 0

/-- Fields and map (R176 to R181, R186, R199). A FILL code other than 0 is a non-zero pad value, that of −0 too, whose value is 0 but whose
code is not: DESIGN CHOICE (log 63). -/
def Plan.windowOk (q : Plan) (w : Rec) : Bool :=
  let m := q.mapOf w
  let out : Desc := q.descs.getD (rf w 1 0 16) 0
  let op := rf w 0 44 4
  let dim (lo len top : Nat) : Bool := decide (1 ≤ rf w 0 lo len ∧ rf w 0 lo len ≤ top)
  let named (k lo : Nat) : Bool := rf w k lo 16 == 0xFFFF || decide (rf w k lo 16 < q.descs.length)
  decide (op ≤ 4) && rf w 0 40 3 == 0 && rf w 2 0 16 == 0 && rf w 3 0 16 == 0 && dim 32 8 32 && dim 24 8 32 && dim 20 4 8 && dim 16 4 8 &&
  dim 8 8 64 && dim 0 8 64 && decide (rf w 1 16 16 < q.descs.length) && decide (rf w 1 0 16 < q.descs.length) &&
  named 2 48 && named 2 32 && named 2 16 &&
  (m.rank == 3 || m.rank == 4) && (m.form == 0 || m.form == 3 || (m.form == 1 && m.chax == 2)) &&
  (m.etype == 3 || m.etype == 4 || decide (6 ≤ m.etype ∧ m.etype ≤ 8)) && (elemVal m.etype false m.fill).isFinite &&
  (decide (0 < winOh m w) || out.size 1 == 0) && (decide (0 < winOw m w) || out.size 0 == 0) &&
  (if m.fill = 0 then rf w 2 16 16 == 0xFFFF
   else
     let c : Desc := q.descs.getD (rf w 2 16 16) 0
     rf w 2 16 16 != 0xFFFF && c.etype == 9 && c.size 0 == out.size 2 && c.size 1 == rf w 0 32 8 * rf w 0 24 8) &&
  (op == 0 || (rf w 2 48 16 == 0xFFFF && rf w 0 48 16 == 0xFFFF)) &&
  (if rf w 3 48 16 = 0 then rf w 3 36 12 == 0 && rf w 3 16 20 == 0 else rf w 3 16 20 != 0)

/-- Descriptors that a slot program names in its PLDs (opcode 0x02) or its PSTs (0x03). -/
def Plan.slotDescs (q : Plan) (addr op : Nat) : List Nat :=
  ((q.trace addr).filter fun w => opc w == op && bfld w 117 1 == 1).map fun w => bfld w 101 16

/-- Descriptors that a slot program names. -/
def Plan.slotDescsAll (q : Plan) (addr : Nat) : List Nat := q.slotDescs addr 0x02 ++ q.slotDescs addr 0x03

/-- Addresses of the core slots' programs that realise a window record: those of its nest, and those that gather its map or write its
output (07 R198). -/
def Plan.windowAddrs (q : Plan) (w : Rec) : List Nat :=
  (q.nestAddrs (rf w 0 48 16) ++ (q.coreSlots.map (·.addr)).filter fun a =>
    (q.slotDescs a 0x02).contains (rf w 1 16 16) || (q.slotDescs a 0x03).contains (rf w 1 0 16)).eraseDups

/-- Whole-map mode (R198). -/
def Plan.wholeMapOk (q : Plan) (w : Rec) : Bool :=
  rf w 0 43 1 == 0 ||
  ([rf w 1 16 16, rf w 1 0 16, rf w 2 48 16, rf w 2 32 16, rf w 2 16 16] ++
    (q.windowAddrs w).flatMap q.slotDescsAll).all fun n =>
      n == 0xFFFF || (let d : Desc := q.descs.getD n 0; d.stripe == 0 && decide (storeBase ≤ d.base) && decide (d.form < 2))

/-- A map belongs to one record (R181), and the table holds at most 8,192 records (R176). -/
def Plan.windowsOk (q : Plan) : Bool :=
  decide (q.windows.length ≤ 8192) && q.windows.all (fun w => q.windowOk w && q.wholeMapOk w) && allDistinct (q.windows.map fun w => rf w 1 16 16)

/-- Output positions and batch entries that a core covers for a window record: those of the blocks it gathers or writes to OUT. -/
def Plan.covered (q : Plan) (w : Rec) (acts : List Act) : List (Nat × Nat) :=
  let ow := (max 0 (winOw (q.mapOf w) w)).toNat
  let out : Desc := q.descs.getD (rf w 1 0 16) 0
  ((acts.filterMap (Act.block? true)).flatMap (fun b =>
      if b.1 = rf w 1 16 16 then (List.range 32).map fun n => (b.2.1 + n, b.2.2.1) else []) ++
   (acts.filterMap (Act.block? false)).flatMap fun b =>
      if b.1 = rf w 1 0 16 then ((out.block b.2.1 b.2.2.1 b.2.2.2).filterMap id).map fun i => (i.getD 1 0 * ow + i.getD 0 0, i.getD 3 0)
      else []).eraseDups

/-- Every pass of each tap that is not in padding at some position that a core covers is among those that its steps have run (07 R184);
`runs` are the panels that its steps read. -/
def Plan.tapsRun (q : Plan) (w n : Rec) (acts : List Act) (runs : List Gathered) : Bool :=
  let m := q.mapOf w
  let full := fullPass n
  let cinp := cinpOf (m.size 2) (nestL n) (nestG n)
  (q.covered w acts).all fun p => (List.range (rf w 0 32 8 * rf w 0 24 8)).all fun t =>
    (gatherAt m w cinp p.2 p.1 (t * cinp)).isNone ||
    (List.range (cinp / full)).all fun j =>
      runs.any fun b => decide (b.1 ≤ p.1 ∧ p.1 < b.1 + 32) && b.2.1 == p.2 && b.2.2 / full == (t * cinp) / full + j

/-- A core's part of a convolution: it runs every pass that it may not omit, in each of the programs alone, or where the nest spills, over
its visits in all of them (07 R184). -/
def Plan.coreTapsOk (q : Plan) (w n : Rec) (es : List SlotEntry) (k : Nat) : Bool :=
  let kn := rf w 0 48 16
  let d := rf w 1 16 16
  let on (l : List SlotEntry) : Bool :=
    q.tilesOk w n (q.mapOf w) d kn k l && q.tapsRun w n (l.flatMap fun e => q.acts e k) ((l.flatMap fun e => q.panelsRead e d kn k).filterMap id)
  let mine := es.filter fun e => e.cores.contains k
  if nestS n = 0 then mine.all fun e => on [e] else on mine

/-- Every matrix step of nest `k` adds to a handle that ACC has bound (07 R183). -/
def Plan.addsOnly (q : Plan) (k : Nat) (acts : List (Nat × Act)) : Bool :=
  acts.all fun x => match x.2 with
    | .step i _ _ w _ _ => !(q.nestsAt x.1 i).contains k || bfld w 117 1 == 1
    | _ => true

/-- A convolution agrees with its nest, and its weights have the input channels on axis 0 and FILL 0 (R180); its steps add (R183);
omitted taps are padded (R184). CHAIN_FORM. -/
def Plan.convOk (q : Plan) (w : Rec) : Bool :=
  rf w 0 44 4 != 0 ||
  (match q.nests[rf w 0 48 16]?, q.descs[rf w 2 48 16]? with
   | some n, some wd =>
     let wd : Desc := wd
     let m := q.mapOf w
     let out : Desc := q.descs.getD (rf w 1 0 16) 0
     let cinp := cinpOf (m.size 2) (nestL n) (nestG n)
     let addrs := q.nestAddrs (rf w 0 48 16)
     rf n 1 32 32 == out.size 2 && ((rf n 1 0 32 : Nat) : Int) == max 0 (winOh m w) * max 0 (winOw m w) &&
     nestK n == rf w 0 32 8 * rf w 0 24 8 * cinp && wd.fill == 0 && wd.size 0 == m.size 2 &&
     rf n 2 48 16 == rf w 2 48 16 && rf n 2 32 16 == rf w 1 16 16 && rf n 2 16 16 == rf w 1 0 16 &&
     (q.coreSlots.filter fun e => addrs.contains e.addr).all fun e => e.cores.all fun k =>
       q.addsOnly (rf w 0 48 16) ((q.acts e k).map fun x => (e.addr, x)) && q.coreTapsOk w n (q.coreSlots.filter fun e => addrs.contains e.addr) k
   | _, _ => false)

/-- DESC_FORM passes. -/
def Plan.descsOk (q : Plan) (s : State) : Bool :=
  q.descs.all (fun d => Desc.ok d q s) && q.moverLists.flatten.all q.moveOk && q.pstsOk && q.stripesOk s && q.sinksOk s && q.areasOk s &&
  q.windowsOk &&
  q.nests.zipIdx.all fun e =>
    let n := e.1
    let named (lo : Nat) (free : Bool) : Bool := decide (rf n 2 lo 16 < q.descs.length) || (rf n 2 lo 16 == 0xFFFF && free)
    let second := (q.fusedFirst e.2).isSome
    named 48 second && named 32 false && named 16 (rf n 0 44 4 != 0)

/-! ### Nest records (06 Table 6.12) -/

/-- Order 3: reserved bits and values. FUSE 0 takes NEXT 0xFFFF (Table 6.13). -/
def nestBits (n : Rec) : Bool :=
  rf n 0 16 5 == 0 && decide (rf n 0 44 4 ≤ 4) && (rf n 0 44 4 != 0 || rf n 0 48 16 == 0xFFFF) &&
  (List.range 4).all fun l => rf n (5 + 2 * (3 - l)) 16 11 == 0 && decide (lvVisit n l ≤ 4) && (decide (lvOrder n l < 2) || lvVisit n l == 0)

/-- Order 4: extents (R158) and batches (R165). -/
def nestExtents (n : Rec) : Bool :=
  let fit (lower ext size : Nat) : Bool := ext != 0 && (ext % max 1 lower == 0 || decide (size ≤ ext))
  let r := 32 * rf n 2 0 16
  lvM n 0 == 32 && lvN n 0 == 32 && lvK n 0 == 8 * nestL n * nestG n &&
  [1, 2, 3].all (fun l => fit (lvM n (l - 1)) (lvM n l) (rf n 1 32 32) && fit (lvN n (l - 1)) (lvN n l) (rf n 1 0 32) &&
    fit (lvK n (l - 1)) (lvK n l) (nestK n)) &&
  (r == 0 || ([0, 1].all (fun l => r % lvM n l == 0) && [2, 3].all fun l => lvM n l % r == 0 || r % lvM n l == 0))

/-- Order 5: the grid is that of the slots that realise nest `k`: GRIDQ · L rows and GRIDC columns (R164; log 44), on the tiles of
TILES. -/
def Plan.gridOk (q : Plan) (k : Nat) (n : Rec) : Bool :=
  let es := q.coreSlots.filter fun e => (q.nestAddrs k).contains e.addr
  let ts := es.flatMap SlotEntry.tiles
  rf n 0 0 16 != 0 && rf n 3 48 16 != 0 && rf n 3 32 16 != 0 &&
  (List.range 16).all (fun t => (rf n 0 0 16).testBit t == ts.contains t) &&
  es.all fun e => e.height == rf n 3 32 16 * nestL n && e.width == rf n 3 48 16

/-- The entries of a level's explicit list. -/
def Plan.visitList (q : Plan) (n : Rec) (l : Nat) : List W32 :=
  let g := nestGrid n l
  (q.visits.drop (16 * lvList n l)).take (g.1 * g.2)

/-- Order 6: an explicit list holds every pair of the grid once (R162). -/
def Plan.listsOk (q : Plan) (n : Rec) : Bool :=
  (List.range 4).all fun l =>
    lvVisit n l != 4 ||
    (let g := nestGrid n l
     let ls := q.visitList n l
     ls.length == g.1 * g.2 && allDistinct (ls.map (·.toNat)) && ls.all fun w => decide (bfld w 16 16 < g.1 ∧ bfld w 0 16 < g.2))

/-- Bits `o`, `o + 2`, `o + 4`, … of a Morton code, packed; the first number is how many. -/
def oddBits (z o : Nat) : Nat → Nat
  | 0 => 0
  | n + 1 => fld z o 1 + 2 * oddBits z (o + 2) n

/-- Pairs of a grid of `a` by `b` in Morton order (06 Table 6.5). -/
def mortonOrder (a b : Nat) : List (Nat × Nat) :=
  let side := bitLen (max a b - 1)
  ((List.range (4 ^ side)).map fun z => (oddBits z 1 side, oddBits z 0 side)).filter fun p => decide (p.1 < a ∧ p.2 < b)

/-- The pairs (i, j) of a level's grid in its visit order (06 R161, Table 6.5). -/
def Plan.visitOrder (q : Plan) (n : Rec) (l : Nat) : List (Nat × Nat) :=
  let (a, b) := nestGrid n l
  match lvVisit n l with
  | 0 => (List.range a).flatMap fun i => (List.range b).map fun j => (i, j)
  | 1 => (List.range b).flatMap fun j => (List.range a).map fun i => (i, j)
  | 2 => (List.range a).flatMap fun i => (List.range b).map fun j => (i, if i % 2 = 1 then b - 1 - j else j)
  | 3 => mortonOrder a b
  | _ => (q.visitList n l).map fun w => (bfld w 16 16, bfld w 0 16)

/-- Equal neighbours made one. -/
def collapse : List Nat → List Nat
  | a :: b :: r => if a = b then collapse (b :: r) else a :: collapse (b :: r)
  | r => r

/-- The M walk of a level: its M indices in the order in which the loop order visits them (06 Table 6.4). -/
def Plan.walkM (q : Plan) (n : Rec) (l : Nat) : List Nat :=
  let (a, b) := nestGrid n l
  let ks := ceilDiv (if l = 3 then nestK n else min (lvK n (l + 1)) (nestK n)) (lvK n l)
  let pairs := (q.visitOrder n l).map (·.1)
  collapse (match lvOrder n l with
    | 0 => pairs
    | 1 => (List.replicate ks pairs).flatten
    | 2 => List.range a
    | _ => (List.replicate (b * ks) (List.range a)).flatten)

/-- Output tiles of one L1 tile. -/
def l1Tiles (n : Rec) : Nat := ceilDiv (min (lvM n 1) (rf n 1 32 32)) 32 * ceilDiv (min (lvN n 1) (rf n 1 0 32)) 32

/-- Order 9: a fused pair (R171) and the liveness of its function (Table 6.8): with FUSE 1 the output tiles of the second nest are live
beside a score tile, with FUSE 4 all tiles of the first nest's row; how the programs keep them live is `Plan.nestAct`'s part. R172 names no
code for a breach of Table 6.8: DESIGN CHOICE, CHAIN_FORM, as for R171 (log 64). -/
def Plan.fusedOk (q : Plan) (n : Rec) : Bool :=
  rf n 0 44 4 == 0 ||
  (match q.nests[rf n 0 48 16]? with
   | none => false
   | some m =>
     nestL n == 1 && nestL m == 1 && rf m 1 32 32 == rf n 1 32 32 && rf m 2 0 16 == rf n 2 0 16 && rf m 0 0 16 == rf n 0 0 16 &&
     rf m 3 32 32 == rf n 3 32 32 && [1, 2, 3].all (fun l => lvM m l == lvM n l && q.walkM m l == q.walkM n l) &&
     nestK m == rf n 1 0 32 && rf m 2 48 16 == 0xFFFF && rf n 2 16 16 == 0xFFFF && (List.range 4).all (fun l => lvOrder n l == 0) &&
     lvVisit n 0 == 0 && decide (nestG m ≤ 32) && lvOrder m 0 == 1 && rf m 0 44 4 == 0 && nestLive m == 0 &&
     (q.nests.filter fun f => rf f 0 44 4 != 0 && rf f 0 48 16 == rf n 0 48 16).length == 1 &&
     (rf n 0 44 4 != 1 || (nestS m == 0 && decide (l1Tiles m < nestLive n))) &&
     (rf n 0 44 4 != 4 || (lvN n 1 == rf n 1 0 32 && decide (ceilDiv (rf n 1 0 32) 32 ≤ nestLive n))))

/-- CHAIN_FORM passes. -/
def Plan.chainFormOk (q : Plan) : Bool :=
  q.coreSlots.all (fun e => q.chainsOk e && q.nestFormOk e) &&
  (q.nests.zipIdx.all fun e => nestBits e.1 && nestExtents e.1 && q.gridOk e.2 e.1 && q.listsOk e.1 &&
    decide (nestS e.1 ≤ 4096) && q.fusedOk e.1) &&
  q.windows.all q.convOk

/-! ### Formats (04 R112) -/

/-- Block scales of a descriptor's type (Table 4.3). -/
def Desc.scaleRole (d : Desc) : Bool :=
  if d.etype ≤ 2 then d.scaled else decide (d.etype ≤ 6) || decide (0x10 ≤ d.etype) || !d.scaled

/-- Format code that an operand of the type has in the pocket (04 R111). -/
def pocketFmt (etype : Nat) : Nat := if etype = 0x10 then 5 else if etype = 0x11 ∨ etype = 0x12 then 6 else etype

/-- The operands that a nest declares are array operands in their roles, of one class, and its output no weight format (04 Table
4.3; 03 R74). -/
def Plan.nestFormats (q : Plan) (n : Rec) : Bool :=
  let a : Desc := q.descs.getD (rf n 2 48 16) 0
  let b : Desc := q.descs.getD (rf n 2 32 16) 0
  let c : Desc := q.descs.getD (rf n 2 16 16) 0
  let int32 := nestAcct n == 1
  let scaledB := b.scaled || (q.windowOf (rf n 2 32 16)).isSome
  (decide (q.descs.length ≤ rf n 2 48 16) ||
    (operandOk (pocketFmt a.etype) a.scaled int32 (rf n 0 22 2) &&
      (decide (q.descs.length ≤ rf n 2 32 16) || intOperand (pocketFmt a.etype) == intOperand (pocketFmt b.etype)))) &&
  (decide (q.descs.length ≤ rf n 2 32 16) || operandOk (pocketFmt b.etype) scaledB int32 (rf n 0 22 2)) &&
  (decide (q.descs.length ≤ rf n 2 16 16) || decide (c.etype < 0x10))

/-- FORMAT_ROLE passes: every descriptor, MSTEP, VST and nest of the plan, window maps (07 R178), wide intermediates (04 R121). -/
def Plan.formatsOk (q : Plan) : Bool :=
  q.descs.all Desc.scaleRole && q.programs.all roleOk && q.flagsOk && q.nests.all q.nestFormats &&
  q.windows.all (fun w => !(q.mapOf w).scaled) && !q.facts.narrow

end Sys2Proof.Machine
end

