-- ==== Sys2Proof/Machine/Validate.lean ====
section
/-! DEFINITION. Plan validation (01 R32 to R35, Table 1.3), the loading of plans (15 R422, R426, R432) and ready frames (15 R426). -/

namespace Sys2Proof.Machine

/-! ### The checks of Table 1.3, in order -/

/-- PERIOD_RANGE passes: every resident plan has the same P. -/
def Plan.periodOk (q : Plan) (qs : List Plan) : Bool :=
  decide (250 ≤ q.period ∧ q.period ≤ 16000) && qs.all fun x => x.period == q.period

/-- LULL_RANGE passes (01 R15). -/
def Plan.lullFits (q : Plan) (qs : List Plan) : Bool := lullOk q.period q.lull && qs.all fun x => x.lull == q.lull

/-- STEP_LENGTH passes, for each step table (01 R25). -/
def Plan.stepLengthOk (q : Plan) : Bool :=
  decide (1 ≤ q.stepLen) && (q.steps.drop 1).all fun t => decide (1 ≤ t.stepLen ∧ t.stepLen ≤ 65535)

/-- BATCH_ZERO passes (08 R202): MBS, SETS and MBSZ. -/
def Plan.batchOk (q : Plan) : Bool :=
  match q.training with
  | none => true
  | some r => rf r 1 56 8 != 0 && rf r 1 48 8 != 0 && rf r 1 32 16 != 0

/-- DOMAIN_SHAPE passes (10 R271); a dimension of two bits is at most 4. -/
def shapeOk (shape : Nat) : Bool := decide (16 ≤ ranksOf shape ∧ ranksOf shape ≤ 64)

/-- REGION_OVERLAP passes: no other plan of the image claims a tile or site of this one. -/
def Image.regionOk (i : Image) (p : Nat) (q : Plan) : Bool :=
  i.plans.zipIdx.all fun e => e.2 == p || !((e.1.map fun x => q.overlaps x).getD false)

/-- Bytes that a list of ranges covers, each byte once. -/
def coveredBytes (l : List (Nat × Nat)) : Nat :=
  ((sortBy (·.1) (l.filter fun r => decide (r.1 < r.2))).foldl (fun (p : Nat × Nat) r => (max p.1 r.2, p.2 + (r.2 - max p.1 r.1))) (0, 0)).2

/-- The parts of device ranges that lie in tile `t`'s store, as offsets. -/
def storeParts (t : Nat) (l : List (Nat × Nat)) : List (Nat × Nat) :=
  let base := tileAddr t 0
  l.filterMap fun r =>
    let lo := max r.1 base
    let hi := min r.2 (base + 0x10000000)
    if lo < hi then some (lo - base, hi - base) else none

/-- One access to a tile store: the cycles at which its slot starts and ends, counted over the frames of a sequence; whether it writes; its
bytes. -/
structure StoreUse where
  start : Nat
  stop : Nat
  write : Bool
  bytes : List (Nat × Nat)
deriving DecidableEq, Repr

/-- Accesses of the frames `rows` to tile `t`'s store. -/
def Plan.storeUses (q : Plan) (t : Nat) (rows : List (List Nat)) : List StoreUse :=
  rows.zipIdx.flatMap fun f => (q.frameSlots f.1).flatMap fun e =>
    (q.touches q.wholeRanges e.2).filterMap fun x =>
      let b := storeParts t x.2
      if b.isEmpty then none
      else some { start := f.2 * 2 ^ 32 + e.2.start, stop := f.2 * 2 ^ 32 + e.2.deadline, write := x.1, bytes := b }

/-- The last write to the bytes that a read reads, before it, the sequence run again and again. -/
def StoreUse.source (us : List StoreUse) (r : StoreUse) : Option StoreUse :=
  let ws := us.filter fun w => w.write && rangesMeet w.bytes r.bytes
  let last (l : List StoreUse) : Option StoreUse := l.foldl (fun b w => match b with
    | some x => if x.start ≤ w.start then some w else b
    | none => some w) none
  match last (ws.filter fun w => decide (w.start < r.start)) with
  | some w => some w
  | none => last ws

/-- The bytes of an access are in use at cycle `c`: while its slot runs, and those that a read reads from their write on. -/
def StoreUse.inUse (us : List StoreUse) (c : Nat) (u : StoreUse) : Bool :=
  decide (u.start ≤ c ∧ c ≤ u.stop) ||
  (!u.write && match u.source us with
    | none => true
    | some w => if w.start ≤ u.start then decide (w.start ≤ c ∧ c ≤ u.stop) else decide (w.start ≤ c ∨ c ≤ u.stop))

/-- Descriptors that some slot names. -/
def Plan.named (q : Plan) : List Nat :=
  q.coreSlots.flatMap (fun e => q.slotDescsAll e.addr) ++ q.moverLists.flatten.flatMap fun w => [mcf w 0 48 16, mcf w 0 32 16]

/-- Bytes of tile `t`'s store that are in use throughout: tensors that no slot names, persistent ones, and the step constants on every tile
of the region (08 R202). -/
def Plan.residentParts (q : Plan) (t : Nat) : List (Nat × Nat) :=
  let ns := q.named
  let ds := (q.descs.zipIdx.filter fun e => !ns.contains e.2).map (·.1) ++ q.persist.map (persistDesc q)
  storeParts t (ds.flatMap q.ranges) ++
  (match q.training with
   | some r => [(rf r 2 32 32, rf r 2 32 32 + 512)]
   | none => [])

/-- Data bytes of tile `t`'s store in use at most, over the points of the frames `rows` (06 R169): at the start of each slot. -/
def Plan.storePeak (q : Plan) (t : Nat) (rows : List (List Nat)) : Nat :=
  let us := q.storeUses t rows
  let fixed := q.residentParts t
  maxOf (coveredBytes fixed :: us.map fun u => coveredBytes (fixed ++ (us.filter fun x => x.inUse us u.start).flatMap (·.bytes)))

/-- STORE_OVERCOMMIT passes (06 R169): at each point of every frame the data in use, and the slot programs and tables, which stay, fit in
each tile store of the region. -/
def Plan.storeOk (q : Plan) : Bool :=
  (List.range 16).all fun t =>
    !q.hasTile t || q.steps.all fun st => [tabRows q.initTab ++ st.frames, tabRows q.restoreTab ++ st.frames, st.frames].all fun rows =>
      decide (q.storePeak t rows + 16 * q.programs.length + q.stepBytes + q.facts.tableBytes ≤ 2 ^ 27)

/-- The checks in the order of Table 1.3; check `k` failing gives code 0x0101 + k. -/
def State.planChecks (s : State) (i : Image) (p : Nat) (q : Plan) : List Bool :=
  let qs := i.plans.filterMap id
  [q.periodOk qs, q.lullFits qs, q.stepLengthOk, q.batchOk, shapeOk s.dom.shape,
   q.topologyOk s.dom.shape s.dom.roster s.dom.links, i.regionOk p q, q.regionPresent s, q.tablesOk (s.host.outs.map (·.stream)), q.deadlinesOk, q.unitsOk,
   q.tokensOk (i.lanesFor p), q.accOk, q.pocketOk, q.storeOk, q.chainFormOk, q.descsOk s, q.formatsOk, q.haloOk, i.intakeOk s p q,
   q.portsOk qs, q.reserveOk, watchesOk qs, q.graceOk, q.twinsOk]

/-- Code of the first failing check; 0 when the plan passes. -/
def State.planCode (s : State) (i : Image) (p : Nat) (q : Plan) : Nat :=
  (((s.planChecks i p q).findIdx? fun b => !b).map (0x0101 + ·)).getD 0

/-! ### Loading -/

/-- The plan is rejected with a rank's code (01 R33). Of several ranks the lowest is kept (log 38). -/
def State.rejectPlan (s : State) (p code rank : Nat) : State :=
  let x := s.plan p
  if x.pstate = .rejected ∧ x.vcode ≠ 0 ∧ x.vrank ≤ rank then s
  else (s.emptyLanes p).modPlan p fun x => { x with pstate := .rejected, vcode := code, vrank := rank }

/-- The lanes of plan `p` wait for their first record (12 Table 12.9). -/
def State.openLanes (s : State) (i : Image) (p : Nat) : State :=
  (i.lanesFor p).foldl (fun s r => s.setLane (laneClaim r) { Lane.reset with record := r, plan := p, state := .idle }) s

/-- The slot programs, step tables and frame tables of plan `p` go into the tile stores of its region (15 R422). -/
def State.loadPrograms (s : State) (p : Nat) (q : Plan) : State :=
  (List.range 16).foldl (fun s t =>
    if q.hasTile t then s.modTile t fun x =>
      { x with progs := (p, q.programs) :: x.progs.filter (fun e => e.1 != p)
               tabs := (p, q.steps, q.tables) :: x.tabs.filter (fun e => e.1 != p) } else s) s

/-- A plan that passes on this rank is loaded. With START = 1 it waits for its host restore (15 R432). -/
def State.loadPlan (s : State) (i : Image) (p : Nat) (q : Plan) : State :=
  let s := (s.loadPrograms p q).modPlan p fun x =>
    { x with image := some q, lrtab := q.lrtab, grace := q.graceCnt, pstate := if q.start = 1 then .restoring else x.pstate }
  (s.openLanes i p).planEpochs p q

/-- Validate plan `p` of the image. -/
def State.validatePlan (s : State) (i : Image) (p : Nat) : State :=
  match (i.plans[p]?).bind id with
  | none => s
  | some q =>
    let code := s.planCode i p q
    if code ≠ 0 then (s.fault { code := code, plan := some p }).rejectPlan p code s.dom.rank
    else if (s.plan p).pstate = .rejected then s
    else s.loadPlan i p q

/-! ### Ready (15 R426) -/

/-- A loaded plan still waits for its checkpoint. -/
def PlanSt.awaits (x : PlanSt) : Bool := x.pstate == .restoring && x.ckpt.restore.isNone && x.ckpt.newest == 0

/-- Step 9 is finished once every restore is; the rank then floods a ready frame in place of a vote. -/
def State.readyWhenDone (s : State) : State :=
  if s.boot.stage = 9 ∧ (List.range 4).all fun p => !(s.plan p).awaits then
    let s := { s with
      boot := { s.boot with stage := 10, validated := true }
      dom := { s.dom with ready := s.dom.ready ||| BitVec.ofNat 64 (2 ^ s.dom.rank) } }
    if s.dom.out then s else s.flood none (.ready s.dom.rank ((List.range 4).map fun p => (s.plan p).vcode))
  else s

/-- A plan section fails its digest in step 8: the slot fails, and the device resets itself and begins again at step 2 with the other
slot (15 R413, R418). -/
def State.sectionFails (s : State) : State :=
  let k := s.boot.slot
  let s := ((s.slotFails k).fault { code := 0x0904 }).internalReset 0 (some (1 - k))
  { s with boot := { s.boot with fallback := true } }

/-- PLAN_VALIDATION. A module out of the domain loads no plan (10 R272). -/
def planValidation (s : State) : State :=
  match s.boot.image with
  | none => s
  | some i =>
    if !i.digestsOk (· == 6) then s.sectionFails
    else
      let s := { s with boot := { s.boot with stage := 9 } }
      (if s.dom.out then s else (List.range 4).foldl (State.validatePlan · i) s).readyWhenDone

def execPlanValidation (s : State) : R :=
  .next (if s.runs && s.boot.stage == 8 && (s.dom.out || !s.dom.roster.isEmpty) then planValidation s else s)

/-- READY_FRAME: a rank's codes, one per plan, passed on where they are new; the provisional leader assembles the roster again. -/
def readyFrame (p rank : Nat) (codes : List Nat) (s : State) : State :=
  let h := s.hear p
  let s := h.1
  if !h.2 || !(s.port p).up || !s.gathers then s
  else
    let s := if s.dom.ready.getLsbD rank then s else s.flood (some p) (.ready rank codes)
    let s := { s with dom := { s.dom with ready := s.dom.ready ||| BitVec.ofNat 64 (2 ^ rank) } }
    let s := codes.zipIdx.foldl (fun s e =>
      if e.1 ≠ 0 ∧ (s.imagePlan e.2).isSome then s.rejectPlan e.2 e.1 rank else s) s
    rosterAssembly s

def execReadyFrame (f : AtPort (Fin 64)) (codes : List Nat) (s : State) : R :=
  .next (if s.sends then readyFrame f.1.val f.2.val codes s else s)

/-- DATA (13 R360 to R365), and what its bytes leave of the INBUF shares of its lanes (12 R345). A host restore that completes may finish
step 9 (15 R432). -/
def State.dataAt (s : State) (d : DataDg) : State :=
  if !s.frameOk d.eth then s
  else
  let s := s.dataIn d
  ((s.updateLanes d.stream).takeRestore d.stream).readyWhenDone

def execData (d : DataDg) (s : State) : R := .next (if s.hostUp then s.dataAt d else s)

end Sys2Proof.Machine
end

