-- ==== Sys2Proof/Machine/Wire.lean ====
section
/-! DEFINITION. Link frames as a port sends and reads them (10 R263, Tables 10.2, 10.3, 10.5; the tick body of R285). A command carries a
frame's fields; this is their form on the link. -/

namespace Sys2Proof.Machine

/-- Header bits [63:61]. Frames other than data, identity, tick, vote and probe frames are control frames (log 50). -/
def LinkFrame.type : LinkFrame → Nat
  | .data _ => 0
  | .identity _ _ _ _ _ _ => 2
  | .tick _ _ _ _ => 3
  | .vote _ => 4
  | .ready _ _ => 4
  | .probe => 5
  | .control _ _ => 1
  | .nack _ => 1
  | .report _ => 1
  | .roster _ _ _ => 1
  | .notice _ => 1

/-- Data frame header (Table 10.2). -/
def DataFrame.header (f : DataFrame) : W64 :=
  word64 [(0, 61), (f.cls % 8, 58), (f.dest % 64, 52), (f.op % 16, 48), (f.poison.toNat, 40), (f.line.toNat, 0)]

def LinkFrame.header : LinkFrame → W64
  | .data f => f.header
  | f => word64 [(f.type, 61)]

/-- The fields of a body, short of its padding. A data frame's is its line; Table 10.5 gives an identity frame's and R285 a tick's; the
layouts of the others are not stated (log 50). -/
def LinkFrame.fields : LinkFrame → List Byte
  | .data f => lineBytes f.body
  | .identity serial rank port step shape pfp =>
    leBytes 8 serial.toNat ++ [BitVec.ofNat 8 rank, BitVec.ofNat 8 port, BitVec.ofNat 8 step, BitVec.ofNat 8 shape] ++ leBytes 4 0 ++
      (List.range 4).flatMap fun k => leBytes 16 (pfp.getD k 0).toNat
  | .tick frame leader hops corr =>
    leBytes 6 frame.toNat ++ [BitVec.ofNat 8 leader, BitVec.ofNat 8 hops] ++ leBytes 4 corr.toNat
  | f => Config.linkBody f

/-- The 268 bytes of a frame: header, body, CRC-32 over both. -/
def LinkFrame.wire (f : LinkFrame) : List Byte :=
  let b := leBytes 8 f.header.toNat ++ (f.fields ++ List.replicate 256 0#8).take 256
  b ++ leBytes 4 (crc32 b)

/-- What a port reads off 268 bytes. -/
inductive Reading where
  /-- the CRC fails: CRC_FAIL. -/
  | bad
  /-- TYPE 6 or 7, which are reserved: the spec gives such a frame no meaning, and it is no command (log 50). -/
  | reserved
  | data (f : DataFrame)
  | other (type : Nat) (body : List Byte)
deriving DecidableEq, Repr

def readFrame (bs : List Byte) : Reading :=
  let h : W64 := BitVec.ofNat 64 (leNat (bs.take 8))
  let body := (bs.drop 8).take 256
  if bs.length ≠ 268 ∨ crc32 (bs.take 264) ≠ leNat (bs.drop 264) then .bad
  else
    match bfld h 61 3 with
    | 0 => .data { cls := bfld h 58 3, dest := bfld h 52 6, op := bfld h 48 4, poison := BitVec.ofNat 8 (bfld h 40 8),
                   line := BitVec.ofNat 40 (bfld h 0 40), body := lineOf body }
    | 6 => .reserved
    | 7 => .reserved
    | t => .other t body

end Sys2Proof.Machine
end

