-- ==== Sys2Proof/Machine/Inbox.lean ====
section
/-! DEFINITION. Datagrams that come over the crosswind ports (10 R288; 13 R361): one for this rank is answered as if it had come by the
host port, one of a rank without a host link leaves by this rank's; and the commands that can bring one, RELAY and CONTROL_FRAME. -/

namespace Sys2Proof.Machine

/-- A datagram taken apart (13 Table 13.3), with its sender (log 52). -/
structure Datagram where
  src : W128
  udp : BitVec 16
  type : Nat
  stream : Nat
  rank : Nat
  epoch : W32
  seq : W48
  body : List Byte
  formOk : Bool
deriving DecidableEq, Repr

def parseDatagram (bs : List Byte) : Datagram :=
  let h := bs.drop 18
  let w (k : Nat) : W64 := BitVec.ofNat 64 (leNat ((h.drop (8 * k)).take 8))
  let body := h.drop 32
  { src := BitVec.ofNat 128 (beNat (bs.take 16)), udp := BitVec.ofNat 16 (beNat ((bs.drop 16).take 2)), type := bfld (w 0) 48 8,
    stream := bfld (w 0) 32 16, rank := bfld (w 0) 26 6, epoch := (w 2).setWidth 32, seq := (w 1).setWidth 48, body := body,
    formOk := bfld (w 0) 56 8 == 1 && bfld (w 1) 48 16 == body.length }

/-- Word `k` of a payload. -/
def Datagram.word (d : Datagram) (k : Nat) : W64 := BitVec.ofNat 64 (leNat ((d.body.drop (8 * k)).take 8))

/-- The status request that a datagram holds (13 R368). -/
def Datagram.req (d : Datagram) : StatReq :=
  { port := 0, rank := d.rank, src := d.src, id := BitVec.ofNat 16 (bfld (d.word 0) 48 16), addr := BitVec.ofNat 32 (bfld (d.word 0) 0 32) }

/-- The acknowledgement that a datagram holds (13 R363), with the round trip that the rank measures. -/
def Datagram.ack (d : Datagram) (rtt : Nat) : AckDg :=
  { rank := d.rank, stream := d.stream, epoch := d.epoch, cum := (d.word 0).setWidth 48, window := bfld (d.word 1) 0 32,
    ranges := (List.range (min 32 (bfld (d.word 0) 48 16))).map fun k => ((d.word (2 + k)).setWidth 48, bfld (d.word (2 + k)) 48 16),
    rttUs := rtt }

/-- Directive row of a body; a reserved opcode is malformed in any. -/
def dirRow (ws : Rec) : DirOp := (allDirOps.find? fun o => (dirForm o).opc == dOpc ws).getD .stop

/-- A relayed datagram has no frame of its own: the rank that its link brought it to has checked tag, length and UDP port (13 R361). -/
def State.relayed (s : State) (port : Nat) : Eth := { vlan := s.vlan, dport := port }

/-- A datagram addressed to this rank (13 Table 13.4). The round trip of an ACK is a free value (log 52). -/
def State.answerDg (s : State) (d : Datagram) : State :=
  match d.type with
  | 1 =>
    s.dataAt { src := d.src, rank := d.rank, stream := d.stream, epoch := d.epoch, seq := d.seq, body := d.body, formOk := d.formOk,
               eth := s.relayed s.dataPort }
  | 2 => let r := s.draw; ackIn (d.ack (bfld r.2 0 32)) r.1
  | 0x10 =>
    let ws := (List.range 4).map d.word
    receiveDir (dirRow ws) { port := 0, rank := d.rank, src := d.src, udp := d.udp, words := ws, eth := s.relayed s.dirPort } s
  | 0x20 => statusGet { d.req with eth := s.relayed s.dirPort } (bfld (d.word 0) 32 8) s
  | 0x21 => statusPut { d.req with eth := s.relayed s.dirPort } (d.word 1) s
  | _ => s.discardDg

/-- A datagram that a relay has delivered whole: for this rank, or to leave by this rank's host port (10 R288). -/
def State.takeDg (s : State) (bs : List Byte) : State :=
  let d := parseDatagram bs
  if d.rank ≠ s.dom.rank then (if s.host.link = 2 then (s.txdg 0).send (.forward (bs.drop 18)) else s)
  else if !s.hostUp then s
  else if !d.formOk then s.discardDg
  else s.answerDg d

/-- The datagrams delivered are taken, in order. -/
def State.takeInbox (s : State) : State := s.host.inbox.foldl State.takeDg { s with host := { s.host with inbox := [] } }

/-- RELAY (10 R288). -/
def execRelay (p : Option (Fin 6)) (f : DataFrame) (s : State) : R := .next (dataFrame 4 p f AddIn.clean s).takeInbox

/-- CONTROL_FRAME (10 R264, R268, R274): it may bring the port up, and free what waited for credit. -/
def execControlFrame (p : Fin 6) (ack : Nat) (returns : List Nat) (s : State) : R :=
  .next (if s.sends then ((controlFrame p.val ack returns s).comeUp p.val).takeInbox else s)

end Sys2Proof.Machine
end

