-- ==== Sys2Proof/Machine/Seq.lean ====
section
/-! DEFINITION. The core's sequencer instructions: tokens (03 R102), LOOP, ADDR and END (03 R104). -/

namespace Sys2Proof.Machine

/-- TWAIT: a count not yet reached holds the core; 0 does not wait (03 R102, R106). -/
def twaitBody (k : Nat) (w : W128) (_ : Core) (s : State) : State :=
  let tok := bfld w 106 12
  let count := bfld w 82 24
  if count ≤ (Sparse.get 0#24 (s.tile (keyTile k)).tok tok).toNat then s.retire k 1
  else s.modCore k fun c => { c with held := some (tok, count) }

def execTwait (k : CoreId) (s : State) : R :=
  .next (coreIssue (coreKey k) (fun w => opc w == 0x07) (twaitBody (coreKey k)) s)

/-- A waited-on counter has reached COUNT: the held core retires its TWAIT and resumes (03 R102). -/
def twaitRelease (k : Nat) (s : State) : State :=
  let c := s.core k
  match c.held with
  | none => s
  | some (tok, count) =>
    if s.runs && c.active && decide (count ≤ (Sparse.get 0#24 (s.tile (keyTile k)).tok tok).toNat) then
      s.modCore k fun c => { c with held := none }.retire 1
    else s

def execTwaitRelease (k : CoreId) (s : State) : R := .next (twaitRelease (coreKey k) s)

/-- TSIG: the region is checked, then INC is added at once or, with FENCE, when the earlier transfers have completed
(03 R102, R106). -/
def tsigBody (k : Nat) (w : W128) (c : Core) (s : State) : State :=
  let t := bfld w 114 4
  let tok := bfld w 106 8 * 16 + bfld w 102 4
  let inc := bfld w 86 16
  if !((s.img? c.plan).map (·.hasTile t)).getD false then s.coreFault k 0x0120
  else
    let s := s.issueToken c.plan inc
    if bfld w 85 1 = 1 then
      (s.modCore k fun c => { c with fenced := c.fenced ++ [{ pc := c.pc, tile := t, tok := tok, inc := inc }] }).retire k 1
    else
      match s.addToken c.plan t tok inc with
      | none => s.coreFault k 0x0207
      | some s => s.retire k 1

def execTsig (k : CoreId) (s : State) : R :=
  .next (coreIssue (coreKey k) (fun w => opc w == 0x08) (tsigBody (coreKey k)) s)

/-- The transfers before the oldest fenced TSIG have completed, and its addition takes place (03 R102). Words still held for
a twin's copy have not been written (14 R393). TIL_FAULT takes the TSIG's index, not the pc that the core has reached (log 9). -/
def fencedTsig (k : Nat) (s : State) : State :=
  let c := s.core k
  if !s.runs || !c.twin.isEmpty then s
  else
    match c.fenced with
    | [] => s
    | f :: fs =>
      let s := s.modCore k fun c => { c with fenced := fs }
      match s.addToken c.plan f.tile f.tok f.inc with
      | none => s.coreFaultAt k 0x0207 f.pc
      | some s => s

def execFencedTsig (k : CoreId) (s : State) : R := .next (fencedTsig (coreKey k) s)

/-- Passes a LOOP takes (03 R104). -/
def loopCount (w : W128) (c : Core) : Nat :=
  let n := bfld w 102 16
  let r := bfld w 90 4
  if r = 0 then n else min n (c.areg r).toNat

/-- LOOP (03 R104). -/
def loopBody (k : Nat) (w : W128) (c : Core) (s : State) : State :=
  let last := c.pc + bfld w 94 8
  if c.loops.any fun l => decide (l.last < last) then s.coreFault k 0x0202
  else if 4 ≤ c.loops.length then s.coreFault k 0x0208
  else if loopCount w c = 0 then
    s.modCore k fun c =>
      let r := loopNext last c.loops
      { c with pc := r.1, loops := r.2, lat := 1 }
  else
    s.modCore k fun c =>
      { c with pc := c.pc + 1, loops := { first := c.pc + 1, last := last, left := loopCount w c } :: c.loops, lat := 1 }

def execLoop (k : CoreId) (s : State) : R :=
  .next (coreIssue (coreKey k) (fun w => opc w == 0x0B) (loopBody (coreKey k)) s)

/-- The value an ADDR gives its register (03 R104). -/
def addrValue (k : Nat) (w : W128) (c : Core) (s : State) : W32 :=
  let imm := bfld w 79 32
  match bfld w 115 3 with
  | 0 => BitVec.ofNat 32 imm
  | 1 => c.areg (bfld w 111 4) + BitVec.ofNat 32 imm
  | 2 => BitVec.ofNat 32 (c.chainIdx k * (imm / 65536) + (globalCol k - c.left) * (imm % 65536))
  | 3 => BitVec.ofNat 32 (c.chainPos k * (imm % 65536))
  | _ => Sparse.get 0#32 (s.tile (keyTile k)).cw (imm % 256)

/-- ADDR (03 R104). -/
def addrBody (k : Nat) (w : W128) (c : Core) (s : State) : State :=
  let v := addrValue k w c s
  (s.modCore k fun c => c.setAreg (bfld w 111 4) v).retire k 1

def execAddr (k : CoreId) (s : State) : R :=
  .next (coreIssue (coreKey k) (fun w => opc w == 0x0C) (addrBody (coreKey k)) s)

/-- END: the program ends and every handle is unbound (03 R83, R104). -/
def endBody (k : Nat) (_ : W128) (_ : Core) (s : State) : State :=
  s.modCore k fun c => { c with ended := true, acc := [], loops := [], lat := 1 }

def execEndProg (k : CoreId) (s : State) : R :=
  .next (coreIssue (coreKey k) (fun w => opc w == 0x0F) (endBody (coreKey k)) s)

end Sys2Proof.Machine
end

