-- ==== Sys2Proof/Machine/SiteEvents.lean ====
section
/-! DEFINITION. Events that end a site's hold (09 R248 to R250): its waiting requests go on, then the gust-queue lines that
waited for it (10 R268). -/

namespace Sys2Proof.Machine

/-- SCHEDULED_RETRAIN_COMPLETE (09 R248). -/
def execScheduledRetrainComplete (i : Fin 24) (s : State) : R :=
  .next (if s.live && (s.site i.val).state == .retrainSched then
      (s.modSite i.val fun z => { z with state := .ready }).drainSite i.val |>.drainAllGust
    else s)

/-- RETRAIN_COMPLETE (09 R249): waiting requests are served oldest first; stalled movers go on (their command is taken again,
see MOVER_COMMAND). -/
def execRetrainComplete (i : Fin 24) (s : State) : R :=
  .next (if s.live && (s.site i.val).state == .retrainUnsched then
      (s.modSite i.val fun z => { z with state := .ready }).drainSite i.val |>.drainAllGust
    else s)

/-- SITE_FAILED (09 R250). Requests that waited find a failed site. -/
def siteFailed (i : Nat) (s : State) : State :=
  if (s.site i).state = .retrainUnsched then
    let q := (s.site i).queue
    let s := (s.stallEnd i).modSite i fun z => { z with state := .failed, queue := [] }
    let owner := s.siteClaim i
    let s := s.siteFault 0x0311 i 0 owner (some (if owner.isSome then 1 else 0))
    q.foldl (fun s r => match r with
      | .read line => s.request i r line none AddIn.clean none
      | .acc16 line _ _ _ => s.request i r line none AddIn.clean none
      | .acc32 line _ _ _ => s.request i r line none AddIn.clean none
      | _ => s) s |>.drainAllGust
  else s

def execSiteFailed (i : Fin 24) (s : State) : R := .next (if s.live then siteFailed i.val s else s)

end Sys2Proof.Machine
end

