-- ==== Sys2Proof/Machine/Tick.lean ====
section
/-! DEFINITION. The tick (10 R285, R287; 01 R23, R24, R30, R36, R43 to R46): what falls on a frame boundary, and the first tick
(15 R426). -/

namespace Sys2Proof.Machine

/-! ### Causes (14 R386) -/

/-- Add a pending cause; STOPPED has none. -/
def State.addCause (s : State) (c : Nat) : State :=
  s.modFrm fun f => { f with pend := if f.state == .stopped || f.pend.contains c then f.pend else f.pend ++ [c] }

/-! ### The start of a frame -/

/-- The counters of one frame start again (01 R23, R42; 14 R387; 13 R370); LOADHINT falls 5 µs after the tick. -/
def State.newFrame (s : State) : State :=
  { s with
    frm := { s.frm with grants := [], grantPlans := [], moved := 0, finishPlan := none, completed := 0, lullAnnounced := false, early := false,
                        capture := none, slots := [], phase := .work }
    flt := { s.flt with perFrame := [] }
    dir := { s.dir with used := [] }
    dom := { s.dom with heard := [] }
    pwr := { s.pwr with tickPulses := s.pwr.tickPulses + 1, hintUntil := s.clk.now + 5000 } }

/-- Roster and links that the vote agreed; a plan whose variant no longer matches them is withdrawn (10 R278, R282). -/
def State.takeRoster (s : State) : State :=
  match s.dom.nextRoster with
  | none => s
  | some (ranks, links) =>
    let s := { s with dom := { s.dom with roster := ranks, links := links, present := presentBits ranks, nextRoster := none } }
    (List.range 4).foldl (fun s p =>
      if ((s.variantOf p).map fun v => v.fits ranks links).getD true then s else s.withdraw p) s

/-- Every rank follows the leader's P and L (01 R34). -/
def State.takePL (s : State) : State :=
  match s.frm.agreedPL with
  | some (p, l) => s.modFrm fun f => { f with period := p, lull := l, agreedPL := none }
  | none => s

/-- The frame leader: that of the variant in force of the lowest-numbered running plan, otherwise the provisional one (10 R277). A
leader chosen by the vote for a lost one stays until another variant takes force (R276, R287). -/
def State.passLead (s : State) : State :=
  let now := s.leadKey
  s.modFrm fun f =>
    if s.dom.out then { f with leader := s.dom.rank }
    else match f.leadLost with
      | none => { f with leader := s.leaderOf }
      | some was =>
        if now.isNone then { f with leadLost := some none }
        else if now = was then f else { f with leader := s.leaderOf, leadLost := none }

/-! ### Events of the boundary -/

/-- Plans with an agreed contained fault are terminated (01 R30). -/
def State.terminate (s : State) : State :=
  let s := s.frm.agreedFaults.foldl (fun s v => if (s.plan v.plan).kept then s.endPlan v.plan .terminated v.code else s) s
  s.modFrm fun f => { f with agreedFaults := [] }

/-- NO_PLAN when no plan is left (01 R33). -/
def State.noPlan (s : State) : State :=
  if (List.range 4).all fun p => !(s.plan p).kept then s.addCause 7 else s

/-- A restore whose frames have run ends, once what this rank sends and receives for it has arrived: the plan runs again (15 R431). -/
def State.endRestore (s : State) (p : Nat) : State :=
  let x := s.plan p
  match x.ckpt.restore with
  | none => s
  | some k =>
    if x.pstate = .restoring ∧ !x.ckpt.fetch ∧ !s.inFlight p ∧ (((s.img? p).bind (·.ckpt)).map ckRframes).getD 0 ≤ k then
      s.modPlan p fun x => { x with pstate := .running, pos := 0, switchTo := none, ckpt := { x.ckpt with restore := none } }
    else s

/-- A withdrawn plan switches to a variant that matches, or the domain waits for a partner with its most recent checkpoint as the
resume point (10 R282, R283). -/
def State.rematch (s : State) (p : Nat) : State :=
  let x := s.plan p
  if x.pstate ≠ .withdrawn ∨ 4 ≤ x.variant then s
  else
    let v := s.choose p x.pin x.redundant
    if v < 4 ∧ !s.frm.holdLatch then (s.modPlan p fun x => { x with variant := v }).beginRestore p none (!x.ckpt.noted)
    else
      let s := s.addCause 3
      match x.ckpt.restoreFrom none with
      | some (k, g) =>
        if x.ckpt.noted then s
        else (s.resumePoint p (k + 1) g false).modPlan p fun x => { x with ckpt := { x.ckpt with noted := true } }
      | none => s

/-- A plan that switches variant restores its boundary checkpoint once that is the newest; a rank that joined late restores with it (10
R284). -/
def State.switchPlan (s : State) (p : Nat) : State :=
  let x := s.plan p
  match x.switchTo with
  | some v =>
    if x.pstate = .withdrawn ∧ 4 ≤ x.variant then (s.modPlan p fun x => { x with variant := v }).joinRestore p
    else if x.inPlans && x.ckpt.run.isNone && !x.ckpt.wanted then
      (s.modPlan p fun x => { x with variant := v }).beginRestore p none false
    else s
  | none => s

/-- Domain-wide events, which come before the directives (01 R46). -/
def State.boundaryEvents (s : State) : State :=
  let s := if s.frm.overrunHold then s.addCause 1 else s
  let s := s.frm.agreedCauses.foldl State.addCause s.terminate
  let s := (List.range 4).foldl State.finishCkpt s
  let s := (List.range 4).foldl State.endRestore ((List.range 4).foldl State.takeFront s)
  let s := (List.range 4).foldl State.rematch s
  let s := (List.range 4).foldl State.switchPlan s
  s.noPlan.tickReductions

/-! ### Step boundaries -/

/-- A checkpoint is due every CKINT steps. -/
def PlanSt.ckDue (x : PlanSt) (q : Plan) : Bool :=
  match q.ckpt with
  | some r => ckInt r != 0 && x.step.toNat % ckInt r == ckInt r - 1
  | none => false

/-- A switch of variant begins at this boundary (10 R284; 13 Table 13.6): none where the plan keeps its variant. -/
def State.switchNow (s : State) (p : Nat) (q : Plan) : Option (Nat × Bool) :=
  let x := s.plan p
  let red := x.redundNext.getD x.redundant
  let v := s.choose p (if x.redundNext.isSome then none else x.pin) red
  if v < 4 ∧ v ≠ x.variant ∧ !s.frm.holdLatch ∧ q.ckpt.isSome then some (v, red) else none

/-- A switch that this boundary begins: the domain waits with cause PARTNER, and a checkpoint is due (10 R284). A REDUNDANCY that asks for
it waits while the hold latch is set (13 R372); one that the plan already obeys is done. -/
def State.beginSwitch (s : State) (p : Nat) (q : Plan) : State :=
  let sw := s.switchNow p q
  let s := if sw.isSome then s.addCause 3 else s
  s.modPlan p fun x =>
    { x with redundNext := if s.frm.holdLatch then x.redundNext else none
             switchTo := (sw.map (·.1)).or x.switchTo
             redundant := (sw.map (·.2)).getD (if s.frm.holdLatch then x.redundant else x.redundNext.getD x.redundant)
             ckpt := { x.ckpt with wanted := x.ckpt.wanted || sw.isSome } }

/-- Events of a step boundary, which come before the directives (01 R46): a rewind (14 R392), holds that earlier steps and directives ask
for (11 R314; 13 Table 13.6), a switch of variant (10 R284). -/
def State.stepEvents (s : State) (p : Nat) : State :=
  let x := s.plan p
  match x.image with
  | none => s
  | some q =>
    if !(x.atBoundary && x.inPlans) then s
    else
      match x.ckpt.rewindVoted with
      | some f => ((s.modPlan p fun x => { x with atBoundary := false }).withdraw p).beginRestore p (some f) true
      | none =>
        let s := if x.holdAtStep then s.addCause 2 else s
        let s := if x.skipHold then s.addCause 4 else s
        (s.modPlan p fun x => { x with holdAtStep := false, skipHold := false }).beginSwitch p q

/-- What the directives of this tick ask of a step boundary, and its checkpoint (15 R428; 13 Table 13.6). -/
def State.stepBoundary (s : State) (p : Nat) : State :=
  let x := s.plan p
  match x.image with
  | none => s
  | some q =>
    if !(x.atBoundary && x.inPlans) then s
    else
      let s := if x.holdAtStep then s.addCause 2 else s
      let s := s.modPlan p fun x => { x with holdAtStep := false, atBoundary := false }
      let s := if x.switchTo.isSome then s else s.beginSwitch p q
      if (s.plan p).ckpt.wanted || (s.plan p).ckDue q then s.startCkpt p else s

/-- The plan keeps the domain waiting for a partner: withdrawn or switching. A plan without a checkpoint record does not, on a rank that
joined late: it is not re-admitted (10 R284). -/
def PlanSt.needsPartner (x : PlanSt) : Bool :=
  x.switchTo.isSome || (x.pstate == .withdrawn && (decide (x.variant < 4) || (x.image.map fun q => q.ckpt.isSome).getD false))

/-- PARTNER ends once no plan is withdrawn or switching, and waits for the hold latch (13 R372). -/
def State.leavePartner (s : State) : State :=
  if !s.frm.holdLatch && (List.range 4).all fun p => !(s.plan p).needsPartner then
    s.modFrm fun f => { f with pend := f.pend.filter (· != 3) }
  else s

/-- A step of the plan is under way or has just run its last frame: its layers are yet to commit (11 R317). Before a plan's first step, and
before the first after a restore, there is no such step: with UFRAME 0 no COMMIT_LATE is raised there, and the frame runs (log 69). -/
def State.inStep (s : State) (p : Nat) : Bool :=
  let x := s.plan p
  x.inPlans && x.initLeft == 0 && decide (0 < x.pos)

/-- With its causes settled, this tick would open UFRAME of the plan uncommitted (11 R317). -/
def State.commitDue (s : State) (p : Nat) : Bool := s.frm.pend.isEmpty && s.inStep p && s.commitMissing p

/-- COMMIT_LATE is raised, once for each tick (11 R317). -/
def State.raiseCommitLate (s : State) (p : Nat) : State :=
  if s.frm.commitLate.contains p then s
  else (s.raise { code := 0x0509, plan := some p }).modFrm fun f => { f with commitLate := f.commitLate ++ [p] }

/-- COMMIT_LATE for each plan whose UFRAME this tick would open uncommitted: the domain enters the doldrums with cause OVERRUN (11 R317). -/
def State.lateCommits (s : State) : State :=
  ((List.range 4).filter s.commitDue).foldl (fun s p => (s.raiseCommitLate p).addCause 1) s

/-- RUNNING and HELD follow the doldrums (16 R450). -/
def PlanSt.hold (x : PlanSt) (doldrums : Bool) : PlanSt :=
  if doldrums then (if x.pstate = .running then { x with pstate := .held } else x)
  else if x.pstate = .held then { x with pstate := .running } else x

/-- The frame state that the tick leads to (01 Table 1.4). On entering the doldrums with cause PARTNER every running plan takes a
checkpoint (01 R45). -/
def State.settleState (s : State) : State :=
  let f := s.frm
  let was := if f.state = .doldrums then f.cause else 0
  let c := f.recorded
  let s := s.modFrm fun f =>
    { f with cause := if f.state = .stopped then 0 else c,
             state := if f.state = .stopped then .stopped else if c = 0 then .work else .doldrums }
  let stopped := decide (f.state = .stopped)
  let s := (List.range 4).foldl (fun s p => s.modPlan p fun x => x.hold (!stopped && c != 0)) s
  if c = 3 ∧ was ≠ 3 ∧ !stopped then (List.range 4).foldl State.partnerCkpt s else s

/-! ### Opening the frame -/

/-- Slots of a row of frame-table numbers. -/
def Plan.rowSlots (q : Plan) (p : Nat) (row : List Nat) : List SlotRun :=
  (q.frameSlots row).map fun e =>
    { seqr := e.1, entry := { e.2 with plan := p }, deadline := e.2.deadline, started := false, done := false, late := false,
      issued := 0, completed := 0, jobs := 0 }

/-- Load a row, where this rank runs the plan under the variant in force. -/
def State.loadRow (s : State) (p : Nat) (q : Plan) (row : List Nat) : State :=
  if (((s.variantOf p).map fun v => v.has s.dom.rank).getD false) && !(s.plan p).stopped then
    s.modFrm fun f => { f with slots := f.slots ++ q.rowSlots p row }
  else s

/-- A step opens: grace is restored, and count words and seals of the step before are cleared (01 R24, R37; 11 R311, R316). -/
def State.openStep (s : State) (p : Nat) (q : Plan) : State :=
  (s.modPlan p fun x => { x with first := s.frm.frame, pos := 1, grace := q.graceCnt, segs := [] }).clearStep p q

/-- The next frame of a running plan: of its init table, then of its steps (15 R426; 01 R24). -/
def State.openRunning (s : State) (p : Nat) (q : Plan) : State :=
  let x := s.plan p
  if 0 < x.initLeft then
    let row := (tabRows q.initTab).getD ((tabRows q.initTab).length - x.initLeft) []
    (s.modPlan p fun x => { x with initLeft := x.initLeft - 1 }).loadRow p q row
  else
    let t := q.stepTable x.variant
    let s :=
      if x.pos = 0 then s.openStep p q
      else if t.stepLen ≤ x.pos then
        ((s.modPlan p fun x => { x with step := x.step + 1 }).stepLanes p).openStep p q
      else s.modPlan p fun x => { x with pos := x.pos + 1 }
    s.loadRow p q (t.frames.getD ((s.plan p).pos - 1) [])

/-- The next restore frame of a plan (15 R431). -/
def State.openRestoring (s : State) (p : Nat) (q : Plan) : State :=
  match (s.plan p).ckpt.restore with
  | none => s
  | some k =>
    (s.modPlan p fun x => { x with ckpt := { x.ckpt with restore := some (k + 1) } }).loadRow p q ((tabRows q.restoreTab).getD k [])

/-- The plan's frame opens: a running plan's in WORK, a restoring plan's there and in the doldrums with cause PARTNER (10 R284). -/
def State.openPlan (s : State) (p : Nat) : State :=
  let x := s.plan p
  match x.image with
  | none => s
  | some q =>
    if x.pstate = .running ∧ s.frm.state = .work then s.openRunning p q
    else if x.pstate = .restoring ∧ (s.frm.state = .work ∨ (s.frm.state = .doldrums ∧ s.frm.cause = 3)) then s.openRestoring p q
    else s

/-- A restore frame of the plan opens in this frame. -/
def State.restores (s : State) (p : Nat) : Bool :=
  (s.plan p).pstate == .restoring && (s.plan p).ckpt.restore.isSome && (s.frm.state == .work || (s.frm.state == .doldrums && s.frm.cause == 3))

/-- Idle frames are those in which no plan runs or is being restored (16 Table 16.6). -/
def State.countIdle (s : State) : State :=
  if (List.range 4).any fun p => (s.plan p).pstate == .running || s.restores p then s
  else s.modFrm fun f => { f with idle := satInc f.idle }

/-- Late reports that the leader owes at this tick, with d = 0 (11 R312; 15 R429). A rank that led when it found a checkpoint or restore
late, and leads no more, reports it to its successor. -/
def State.oweNow (s : State) : State :=
  let l := s.frm.lateNext
  let s := s.modFrm fun f => { f with lateNext := [] }
  (List.range 4).foldl (fun s p =>
    if !(s.plan p).overruns then s
    else if s.frm.leader = s.dom.rank then (if l.any fun e => e.1 == p then s.takeLate p 0 0 else s)
    else if l.contains (p, true) then s.notify (.late s.dom.rank p s.frm.frame 0 0)
    else s) s

/-- The frame opens with the causes settled. -/
def State.openFrames (s : State) : State :=
  let s := s.settleState
  let s := (List.range 4).foldl State.openPlan s
  let s := s.passLead.intakeTick.countIdle
  let s := s.modFrm fun f => { f with commitLate := [], agreedCauses := [], agreedReports := [] }
  s.oweNow

/-- What falls on a frame boundary before its directives (01 R46). -/
def State.beforeDirs (s : State) : State :=
  let s := (s.modFrm fun f => { f with frame := f.frame + 1 }).newFrame.takeRoster.takePL
  ((List.range 4).foldl State.stepEvents s.boundaryEvents).noPlan

/-- What falls on a frame boundary up to the directives. -/
def State.boundary (s : State) : State := s.beforeDirs.applyDirs

/-- What the directives leave for the boundary. -/
def State.settleSteps (s : State) : State := ((List.range 4).foldl State.stepBoundary s).noPlan.leavePartner

/-- The rank opens the next frame. A RESTART at this tick takes its place (13 Table 13.6). -/
def State.openFrame (s : State) : State :=
  let s := s.boundary
  if s.boot.restart then s.restart else s.settleSteps.lateCommits.openFrames

/-- COMMIT_LATE: the coming tick would open UFRAME of a running plan with its layer uncommitted (11 R317). What the votes and directives
have agreed for that tick is taken into account: where it opens no frame, nothing is late. -/
def commitLate (p : Nat) (s : State) : State :=
  if s.runs && s.frm.phase == .guard && !s.boundary.boot.restart && s.boundary.settleSteps.commitDue p then s.raiseCommitLate p else s

def execCommitLate (p : Fin 4) (s : State) : R := .next (commitLate p.val s)

/-! ### Tick frames -/

/-- Time at which a copy of the tick applies, in sixteenths of a nanosecond. -/
def State.tickTime (s : State) (o : TickIn) : Int :=
  match o.port with
  | none => o.predicted
  | some p => o.arrival - (o.corr.toNat : Int) - 16 * ((s.port p.val).hopNs : Int) + o.firstTx

/-- Offset of the tick from the local prediction (10 Table 10.6a). -/
def State.noteTick (s : State) (o : TickIn) : State := s.modFrm fun f => { f with tickOfs := s.tickTime o - o.predicted }

/-- The tick goes out on every port that is up but the one it came by; CORR grows by the residence and the outgoing hop's latency on
leaving a rank, and is 0 straight from the leader (10 R285, Table 10.7). -/
def State.passTick (s : State) (o : TickIn) : State :=
  (List.range 6).foldl (fun s p =>
    if s.sends && (s.port p).up && (o.port.map (·.val)) != some p then
      s.sendLink p (match o.port with
        | none => .tick o.frame s.dom.rank 0 0
        | some _ => .tick o.frame o.leader (o.hops + 1) (o.corr + BitVec.ofNat 32 (o.residence + 16 * (s.port p).hopNs)))
    else s) s

/-- The copy comes from where the route table of the variant in force of the lowest-numbered running plan points to the leader; without such a
table there is only the first copy (10 R285, R288). -/
def State.preferred (s : State) (o : TickIn) : Bool :=
  match o.port with
  | none => true
  | some p => (((s.firstPlan.bind s.variantOf).map fun v => v.route s.dom.rank o.leader == some p.val)).getD false

/-- No copy of this tick has been passed on. -/
def State.firstCopy (s : State) (o : TickIn) : Bool :=
  match s.dom.tickFrame with
  | none => true
  | some f => decide (f.toNat < o.frame.toNat)

/-- The first copy of a tick is passed on (10 R285). -/
def State.passFirst (s : State) (o : TickIn) : State :=
  if s.firstCopy o then
    let s := s.passTick o
    { s with dom := { s.dom with tickFrame := some o.frame } }
  else s

/-- The copy sets the tick's time: the first one, and the one from the leader's side. -/
def State.timeTick (s : State) (o : TickIn) : State := if s.firstCopy o || s.preferred o then s.noteTick o else s

/-- A tick of the running domain: the first copy opens the frame, or waits for the guard phase (R287). -/
def State.laterTick (s : State) (o : TickIn) : State :=
  let t := s.timeTick o
  if o.frame = s.frm.frame then t.passFirst o
  else if o.frame ≠ s.frm.frame + 1 then s.passFirst o
  else if s.frm.early then t.passFirst o
  else if s.frm.phase = .guard then (t.passFirst o).openFrame
  else if o.port.isNone then s
  else ((t.passFirst o).modFrm fun f => { f with early := true }).fault { code := 0x0409 }

/-! ### The first tick (15 R426) -/

/-- Roster of tick 0: ranks that are not ready are absent. -/
def State.readyRoster (s : State) : List Presence × List Nat :=
  let a := s.assembled
  (a.1.zipIdx.map fun e => if s.dom.ready.getLsbD e.2 then e.1 else Presence.absent, a.2)

/-- Exponents of a plan's layers before its first step (08 Table 8.2). -/
def firstLayers (q : Plan) : Sparse RedLayer :=
  q.layers.foldl (fun m e => Sparse.set RedLayer.reset m (rf e 0 48 16)
    { RedLayer.reset with lambda := sext (rf e 0 34 8) 8 }) []

/-- A loaded plan starts under the lowest-numbered matching variant; without one it waits for a partner. -/
def State.startPlan (s : State) (p : Nat) : State :=
  let x := s.plan p
  match x.image with
  | none => s
  | some q =>
    if x.pstate ≠ .absent ∧ x.pstate ≠ .restoring then s
    else
      let v := q.pick s.dom.roster s.dom.links
      if 4 ≤ v then (s.modPlan p fun x => { x with pstate := .withdrawn, variant := 0 }).addCause 3
      else
        let s := s.modPlan p fun x => { x with variant := v }
        if q.start = 1 then s.beginRestore p none false
        else
          let rows := (tabRows q.initTab).length
          let s := s.modPlan p fun x => { x with pstate := .running, initLeft := rows, grace := q.graceCnt, layers := firstLayers q }
          if rows = 0 ∧ ((s.variantOf p).map fun v => v.has s.dom.rank).getD false then s.stepConstants p 0 s.frm.frame else s

/-- P and L at the first tick (01 R34). -/
def State.firstPL (s : State) : Nat × Nat :=
  match (List.range 4).find? fun p => (s.plan p).kept with
  | some p => ((s.img? p).map fun q => (q.period, q.lull)).getD (idleP s.boot.cfg, idleL s.boot.cfg)
  | none => (idleP s.boot.cfg, idleL s.boot.cfg)

/-- The machine runs: step 11 of Table 15.1. -/
def State.enterRun (s : State) (frame : W48) : State :=
  let s := { s with dom := { s.dom with tick0 := true }, boot := { s.boot with stage := 0xB } }
  (s.modFrm fun f => { f with frame := frame }).newFrame

/-- Frame 0 opens. -/
def State.openFirst (s : State) : State :=
  let a := s.readyRoster
  let s := s.enterRun 0
  let s := { s with dom := { s.dom with roster := a.1, links := a.2, present := presentBits a.1, nextRoster := none } }
  let s := (if s.dom.out then s else (List.range 4).foldl State.startPlan s).openAccts
  let s := s.modFrm fun f => { f with period := s.firstPL.1, lull := s.firstPL.2 }
  (s.frm.agreedCauses.foldl State.addCause s.noPlan).openFrames

/-- A rank that was not ready at tick 0 joins at a later frame; its plans wait for their re-admission (10 R284, log 37). -/
def State.joinLate (s : State) (o : TickIn) : State :=
  let s := s.enterRun o.frame
  let s := (List.range 4).foldl (fun s p =>
    let x := s.plan p
    if x.image.isSome && (x.pstate == .absent || x.pstate == .restoring) then
      let s := s.modPlan p fun x => { x with pstate := .withdrawn, variant := 4 }
      if (s.plan p).needsPartner then s.addCause 3 else s
    else s) s
  let s := s.modFrm fun f => { f with period := s.firstPL.1, lull := s.firstPL.2, leader := o.leader }
  (s.frm.agreedCauses.foldl State.addCause s.noPlan).settleState.countIdle

/-- The first tick that reaches a rank which is ready. -/
def State.earliestTick (s : State) (o : TickIn) : State :=
  let s := (s.noteTick o).passFirst o
  if o.frame = 0 then s.openFirst else s.joinLate o

/-- TICK. A rank issues a tick itself only as the leader. -/
def tick (o : TickIn) (s : State) : State :=
  match o.port with
  | none => if s.dom.tick0 && s.frm.leader == s.dom.rank then s.laterTick o else s
  | some p =>
    if !(s.port p.val).up then s
    else
      let h := s.hear p.val
      let s := h.1
      if !h.2 then s
      else if s.dom.tick0 then s.laterTick o
      else if s.boot.stage = 10 then s.earliestTick o else s.passFirst o

def execTick (o : TickIn) (s : State) : R := .next (if s.runs then tick o s else s)

/-- TICK_LOST: 2 µs after the predicted time, or at the end of the guard phase where the tick came early (R287). -/
def tickLost (s : State) : State :=
  if s.frm.early then s.openFrame
  else ((s.modFrm fun f => { f with tickOfs := 0 }).fault { code := 0x040A }).openFrame

def execTickLost (s : State) : R :=
  .next (if s.runs && s.dom.tick0 && s.frm.leader != s.dom.rank && s.frm.phase == .guard then tickLost s else s)

/-- FIRST_TICK: the provisional leader issues tick 0; a module out of the domain runs alone (10 R272). -/
def firstTick (s : State) : State :=
  let s := s.modFrm fun f => { f with tickPtp := s.ptpNow.toInt, tickOfs := 0 }
  let o : TickIn := { port := none, frame := 0, leader := s.dom.rank, hops := 0, corr := 0, arrival := 0, predicted := 0, firstTx := 0,
                      residence := 0 }
  (if s.dom.out then s else s.passFirst o).openFirst

def execFirstTick (s : State) : R :=
  .next (if s.runs && !s.dom.tick0 && s.boot.stage == 10 && (s.dom.out || provisional s.readyRoster.1 == s.dom.rank) then firstTick s
    else s)

end Sys2Proof.Machine
end

