-- ==== Sys2Proof/Machine/Vector.lean ====
section
/-! DEFINITION. The vector unit's instructions VLD, VST and VOP (03 R98 to R101; 04 R118, R119, R128). -/

namespace Sys2Proof.Machine

/-- Element `i` of format width `w` bits at pocket address `a`. -/
def pocketElem (m : Mem) (a w i : Nat) : Nat :=
  if w = 4 then fld (Sparse.get 0#8 m (a + i / 2)).toNat (i % 2 * 4) 4 else leNat (Mem.bytes m (a + i * w / 8) (w / 8))

/-- Write element `i`. A 4-bit element keeps the other half of its byte. -/
def putPocketElem (m : Mem) (a w i c : Nat) : Mem :=
  if w = 4 then
    let b := (Sparse.get 0#8 m (a + i / 2)).toNat
    let v := if i % 2 = 0 then b / 16 * 16 + c % 16 else c % 16 * 16 + b % 16
    Sparse.set 0#8 m (a + i / 2) (BitVec.ofNat 8 v)
  else Mem.put m (a + i * w / 8) (leBytes (w / 8) c)

/-- VLD (03 R98, Table 3.8). An effective address is the sum of BASE and the register as unsigned numbers, without a wrap (03 R94;
log 9). -/
def vldBody (k : Nat) (w : W128) (c : Core) (s : State) : State :=
  let vd := bfld w 112 5
  if bfld w 117 1 = 0 then
    let fmt := bfld w 108 4
    let wd := pocketBits fmt
    let a := bfld w 92 16 + (c.areg (bfld w 88 4)).toNat
    if !pocketOk a (2 * wd) (2 * wd) then s.coreFault k 0x0203
    else
      let lanes := (List.range 16).map fun i => loadLane fmt (pocketElem c.pocket a wd i)
      (s.modCore k fun c => (((c.setVreg vd lanes).markV vd (anyMark c.pocketPoison a (2 * wd))).incAreg
        (bfld w 88 4) (bfld w 78 10) 10 16)).retire k 4
  else
    match c.handle (bfld w 108 4) with
    | none => s.coreFault k 0x0205
    | some t =>
      let lanes := (List.range 16).map fun i => t.at (bfld w 103 5) (16 * bfld w 102 1 + i)
      (s.modCore k fun c => (c.setVreg vd lanes).markV vd t.poison).retire k 4

def execVld (k : CoreId) (s : State) : R :=
  .next (coreIssue (coreKey k) (fun w => opc w == 0x04) (vldBody (coreKey k)) s)

/-- Add the counts of a write of a watched tensor (04 R128). -/
def State.watchAdd (s : State) (p wid : Nat) (n : Counts) : State :=
  s.modPlan p fun x =>
    { x with watch := [n.written, n.overflowed, n.vanished, n.nonfinite].zipIdx.foldl (fun m e =>
        let key := watchKey wid e.2
        Sparse.set 0#48 m key (satAdd (Sparse.get 0#48 m key) e.1)) x.watch }

/-- The lanes a pocket VST takes, in register order. -/
def vstLanes (w : W128) (c : Core) : List W32 :=
  let g := if bfld w 105 1 = 1 then groupLen (bfld w 106 2) / 16 else 1
  ((List.range g).flatMap fun i => c.vreg (bfld w 112 5 + i)).take (bfld w 97 8)

/-- Scale code (none when unscaled), element codes and counts of a pocket VST (04 R118, R119). -/
def vstConvert (w : W128) (lanes : List W32) : Option Nat × List Conv :=
  let fmt := bfld w 108 4
  if bfld w 105 1 = 1 then
    let r := convBlock fmt lanes
    (some r.1, r.2)
  else (none, lanes.map fun l => convert fmt false l (f32 l))

/-- VST to the pocket retires, its index registers stepped. -/
def vstDone (k : Nat) (w : W128) (s : State) : State :=
  (s.modCore k fun c => (c.incAreg (bfld w 77 4) (bfld w 67 10) 10 16).incAreg (bfld w 47 4) (bfld w 37 10) 10 1).retire k 4

/-- Elements of width `wd` at pocket address `a`; a last half byte leaves its word partly unwritten. -/
def Core.putElems (c : Core) (a wd n : Nat) (cs : List Nat) (poison : Bool) : Core :=
  { c with pocket := cs.zipIdx.foldl (fun m e => putPocketElem m a wd e.2 e.1) c.pocket
           pocketPoison := putMark c.pocketPoison a (if poison then ceilDiv (n * wd) 8 else n * wd / 8) poison }
/-- A scale byte. -/
def Core.putScale (c : Core) (a sc : Nat) (poison : Bool) : Core :=
  { c with pocket := Sparse.set 0#8 c.pocket a (BitVec.ofNat 8 sc), pocketPoison := putMark c.pocketPoison a 1 poison }

/-- VST to the pocket (03 R99). -/
def vstPocket (k : Nat) (w : W128) (c : Core) (s : State) : State :=
  let fmt := bfld w 108 4
  let wd := pocketBits fmt
  let n := bfld w 97 8
  let blk := bfld w 105 1 == 1
  let a := bfld w 81 16 + (c.areg (bfld w 77 4)).toNat
  let sa := bfld w 51 16 + (c.areg (bfld w 47 4)).toNat
  let bytes := ceilDiv (n * wd) 8
  if n = 0 then vstDone k w s
  else if !pocketOk a bytes (2 * wd) || (blk && !pocketOk sa 1 1) then s.coreFault k 0x0203
  else
    let r := vstConvert w (vstLanes w c)
    let regs := if blk then groupLen (bfld w 106 2) / 16 else 1
    let poison := (List.range regs).any fun i => Sparse.get false c.vpoison (bfld w 112 5 + i)
    let s := s.modCore k fun c =>
      let c := c.putElems a wd n (r.2.map (·.code)) poison
      match r.1 with
      | some sc => c.putScale sa sc poison
      | none => c
    let s := if bfld w 36 1 = 1 then
        s.watchAdd c.plan (bfld w 24 12) (r.2.foldl (fun x e => x.add e.cnt) Counts.zero) else s
    vstDone k w s

/-- VST to the accumulator (03 R99). -/
def vstAcc (k : Nat) (w : W128) (c : Core) (s : State) : State :=
  let h := bfld w 108 4
  let vs := bfld w 112 5
  match c.handle h with
  | none => s.coreFault k 0x0205
  | some t =>
    let t' := (c.vreg vs).zipIdx.foldl (fun t e => t.put (bfld w 103 5) (16 * bfld w 102 1 + e.2) e.1) t
    (s.modCore k fun c => c.setHandle h (some { t' with poison := t'.poison || Sparse.get false c.vpoison vs })).retire k 4

def vstBody (k : Nat) (w : W128) (c : Core) (s : State) : State :=
  if bfld w 117 1 = 1 then vstAcc k w c s else vstPocket k w c s

def execVst (k : CoreId) (s : State) : R :=
  .next (coreIssue (coreKey k) (fun w => opc w == 0x05) (vstBody (coreKey k)) s)

/-- The lanes VOP computes, before the lane mask (03 R100). -/
def vopLanes (w : W128) (c : Core) : List W32 :=
  let fn := bfld w 112 6
  let a := c.vreg (bfld w 102 5)
  let b := if bfld w 85 1 = 1 then List.replicate 16 (BitVec.ofNat 32 (bfld w 53 32)) else c.vreg (bfld w 97 5)
  let x := c.vreg (bfld w 92 5)
  let sel := c.kreg (bfld w 92 3)
  if fn = 0x28 ∨ fn = 0x29 then List.replicate 16 (horizontal fn a)
  else (List.range 16).map fun i =>
    vopLane fn (a.getD i 0) (b.getD i 0) (x.getD i 0) (sel.getLsbD i) i

/-- The mask a compare forms over the lanes that KM selects; other bits of KD are kept. -/
def vopMask (w : W128) (c : Core) : BitVec 16 :=
  let a := c.vreg (bfld w 102 5)
  let b := if bfld w 85 1 = 1 then List.replicate 16 (BitVec.ofNat 32 (bfld w 53 32)) else c.vreg (bfld w 97 5)
  let km := c.kreg (bfld w 89 3)
  let r := maskOf ((List.range 16).map fun i => compareLane (bfld w 112 6) (a.getD i 0) (b.getD i 0))
  (r &&& km) ||| (c.kreg (bfld w 86 3) &&& ~~~km)

/-- VOP (03 R100, R107). -/
def vopBody (k : Nat) (w : W128) (_ : Core) (s : State) : State :=
  let fn := bfld w 112 6
  let vd := bfld w 107 5
  (s.modCore k fun c =>
    if vopCompare fn then c.setKreg (bfld w 86 3) (vopMask w c)
    else
      let km := c.kreg (bfld w 89 3)
      let old := c.vreg vd
      let new := vopLanes w c
      let rd := vopReads fn (bfld w 85 1 == 1)
      let mark (b : Bool) (v : Nat) : Bool := b && Sparse.get false c.vpoison v
      let p := mark rd.1 (bfld w 102 5) || mark rd.2.1 (bfld w 97 5) || mark rd.2.2 (bfld w 92 5)
      let c' := c.setVreg vd ((List.range 16).map fun i => if km.getLsbD i then new.getD i 0 else old.getD i 0)
      c'.markV vd (p || (km != 0xFFFF#16 && Sparse.get false c.vpoison vd))).retire k (vopLatency fn)

def execVop (k : CoreId) (s : State) : R :=
  .next (coreIssue (coreKey k) (fun w => opc w == 0x06) (vopBody (coreKey k)) s)

end Sys2Proof.Machine
end

