-- ==== Sys2Proof/Machine/Dispatch.lean ====
section
/-! DEFINITION. The dispatch: one arm per command, each a call of that command's meaning. -/

namespace Sys2Proof.Machine

/-- The effect of a command on everything but the queue. -/
def exec (i : Instr) (s : State) : Host.Outcome State Fault Refusal :=
  match i with
  | .tick o => Sys2Proof.Machine.execTick o s
  | .tickLost => Sys2Proof.Machine.execTickLost s
  | .endOfWorkWindow => Sys2Proof.Machine.execEndOfWorkWindow s
  | .auditPhase => Sys2Proof.Machine.execAuditPhase s
  | .votePhase votes => Sys2Proof.Machine.execVotePhase votes s
  | .patrolPhase outs => Sys2Proof.Machine.execPatrolPhase outs s
  | .recordPhase => Sys2Proof.Machine.execRecordPhase s
  | .guardPhase => Sys2Proof.Machine.execGuardPhase s
  | .slotStart n => Sys2Proof.Machine.execSlotStart n s
  | .slotComplete n => Sys2Proof.Machine.execSlotComplete n s
  | .lateSlot n => Sys2Proof.Machine.execLateSlot n s
  | .lateReport o => Sys2Proof.Machine.execLateReport o s
  | .graceGrant plan frame d g => Sys2Proof.Machine.execGraceGrant plan frame d g s
  | .finish plan frame => Sys2Proof.Machine.execFinish plan frame s
  | .finishLullAnnounce done => Sys2Proof.Machine.execFinishLullAnnounce done s
  | .hungSlot n => Sys2Proof.Machine.execHungSlot n s
  | .mstep k => Sys2Proof.Machine.execMstep k s
  | .pld k => Sys2Proof.Machine.execPld k s
  | .pst k => Sys2Proof.Machine.execPst k s
  | .vld k => Sys2Proof.Machine.execVld k s
  | .vst k => Sys2Proof.Machine.execVst k s
  | .vop k => Sys2Proof.Machine.execVop k s
  | .twait k => Sys2Proof.Machine.execTwait k s
  | .twaitRelease k => Sys2Proof.Machine.execTwaitRelease k s
  | .tsig k => Sys2Proof.Machine.execTsig k s
  | .fencedTsig k => Sys2Proof.Machine.execFencedTsig k s
  | .spill k => Sys2Proof.Machine.execSpill k s
  | .accAlloc k => Sys2Proof.Machine.execAccAlloc k s
  | .accFree k => Sys2Proof.Machine.execAccFree k s
  | .accZero k => Sys2Proof.Machine.execAccZero k s
  | .loop k => Sys2Proof.Machine.execLoop k s
  | .addr k => Sys2Proof.Machine.execAddr k s
  | .chain k => Sys2Proof.Machine.execChain k s
  | .endProg k => Sys2Proof.Machine.execEndProg k s
  | .moverCommand n => Sys2Proof.Machine.execMoverCommand n s
  | .moverCommandComplete n => Sys2Proof.Machine.execMoverCommandComplete n s
  | .lineRead j line x => Sys2Proof.Machine.execLineRead j line x s
  | .fullLineWrite j line data marks plan x => Sys2Proof.Machine.execFullLineWrite j line data marks plan x s
  | .partialWrite j line data valid marks plan => Sys2Proof.Machine.execPartialWrite j line data valid marks plan s
  | .wcbMerge j line x => Sys2Proof.Machine.execWcbMerge j line x s
  | .pacedRefresh u => Sys2Proof.Machine.execPacedRefresh u s
  | .scheduledRetrainOverrun j => Sys2Proof.Machine.execScheduledRetrainOverrun j s
  | .retrainComplete j => Sys2Proof.Machine.execRetrainComplete j s
  | .siteFailed j => Sys2Proof.Machine.execSiteFailed j s
  | .write p f => Sys2Proof.Machine.execWrite p f s
  | .acc16 p f a => Sys2Proof.Machine.execAcc16 p f a s
  | .acc32 p f a => Sys2Proof.Machine.execAcc32 p f a s
  | .tsigFrame p f => Sys2Proof.Machine.execTsigFrame p f s
  | .relay p f => Sys2Proof.Machine.execRelay p f s
  | .crcFail f => Sys2Proof.Machine.execCrcFail f s
  | .nack p count => Sys2Proof.Machine.execNack p count s
  | .controlFrame p ack returns => Sys2Proof.Machine.execControlFrame p ack returns s
  | .dataFrameSend p => Sys2Proof.Machine.execDataFrameSend p s
  | .idleControlFrame p => Sys2Proof.Machine.execIdleControlFrame p s
  | .identityFrame p b acked => Sys2Proof.Machine.execIdentityFrame p b acked s
  | .identityRepeat p => Sys2Proof.Machine.execIdentityRepeat p s
  | .portTrainTimeout p => Sys2Proof.Machine.execPortTrainTimeout p s
  | .probeFrame p rttNs => Sys2Proof.Machine.execProbeFrame p rttNs s
  | .linkReport p r => Sys2Proof.Machine.execLinkReport p r s
  | .rosterAssembly => Sys2Proof.Machine.execRosterAssembly s
  | .roster f => Sys2Proof.Machine.execRoster f s
  | .laneFailing p lane symbols corrected uncorrectable => Sys2Proof.Machine.execLaneFailing p lane symbols corrected uncorrectable s
  | .laneDead p lane => Sys2Proof.Machine.execLaneDead p lane s
  | .laneSpared p => Sys2Proof.Machine.execLaneSpared p s
  | .linkDown p => Sys2Proof.Machine.execLinkDown p s
  | .planWithdrawal plan => Sys2Proof.Machine.execPlanWithdrawal plan s
  | .relayDrop p => Sys2Proof.Machine.execRelayDrop p s
  | .rootWatchDeadline plan recs => Sys2Proof.Machine.execRootWatchDeadline plan recs s
  | .commitLate plan => Sys2Proof.Machine.execCommitLate plan s
  | .segmentClose plan g => Sys2Proof.Machine.execSegmentClose plan g s
  | .sampleRecord l lead rest payload => Sys2Proof.Machine.execSampleRecord l lead rest payload s
  | .decodeComplete l seq e => Sys2Proof.Machine.execDecodeComplete l seq e s
  | .data d => Sys2Proof.Machine.execData d s
  | .ack a => Sys2Proof.Machine.execAck a s
  | .ackTimer stream => Sys2Proof.Machine.execAckTimer stream s
  | .retransmissionTimeout stream seq => Sys2Proof.Machine.execRetransmissionTimeout stream seq s
  | .keepAlive stream => Sys2Proof.Machine.execKeepAlive stream s
  | .stop d => Sys2Proof.Machine.execStop d s
  | .restart d => Sys2Proof.Machine.execRestart d s
  | .hold d => Sys2Proof.Machine.execHold d s
  | .checkpoint d => Sys2Proof.Machine.execCheckpoint d s
  | .resume d => Sys2Proof.Machine.execResume d s
  | .lrEdit d => Sys2Proof.Machine.execLrEdit d s
  | .patrol d => Sys2Proof.Machine.execPatrol d s
  | .redundancy d => Sys2Proof.Machine.execRedundancy d s
  | .variant d => Sys2Proof.Machine.execVariant d s
  | .imageWrite d => Sys2Proof.Machine.execImageWrite d s
  | .imageWriteComplete => Sys2Proof.Machine.execImageWriteComplete s
  | .sread r count => Sys2Proof.Machine.execSread r count s
  | .swrite r value => Sys2Proof.Machine.execSwrite r value s
  | .rcRead r => Sys2Proof.Machine.execRcRead r s
  | .jrnSel p value => Sys2Proof.Machine.execJrnSel p value s
  | .itgFsel p value => Sys2Proof.Machine.execItgFsel p value s
  | .botAttreq p value => Sys2Proof.Machine.execBotAttreq p value s
  | .tilFaultValidClear t => Sys2Proof.Machine.execTilFaultValidClear t s
  | .ptpSync offset calibrated => Sys2Proof.Machine.execPtpSync offset calibrated s
  | .ptpHoldover => Sys2Proof.Machine.execPtpHoldover s
  | .hostLinkDown => Sys2Proof.Machine.execHostLinkDown s
  | .journalRecordWrite ok => Sys2Proof.Machine.execJournalRecordWrite ok s
  | .reportResend collector seq => Sys2Proof.Machine.execReportResend collector seq s
  | .rack collector cum => Sys2Proof.Machine.execRack collector cum s
  | .heartbeat => Sys2Proof.Machine.execHeartbeat s
  | .packSeg packId offset body => Sys2Proof.Machine.execPackSeg packId offset body s
  | .imgSeg offset body => Sys2Proof.Machine.execImgSeg offset body s
  | .mgmtLinkDown => Sys2Proof.Machine.execMgmtLinkDown s
  | .twinCompare primary copy => Sys2Proof.Machine.execTwinCompare primary copy s
  | .deltaRecordWrite ok => Sys2Proof.Machine.execDeltaRecordWrite ok s
  | .resetRelease r => Sys2Proof.Machine.execResetRelease r s
  | .emmcFail => Sys2Proof.Machine.execEmmcFail s
  | .siteTrainingComplete j ok => Sys2Proof.Machine.execSiteTrainingComplete j ok s
  | .selfTestComplete r => Sys2Proof.Machine.execSelfTestComplete r s
  | .spareMapApply => Sys2Proof.Machine.execSpareMapApply s
  | .planValidation => Sys2Proof.Machine.execPlanValidation s
  | .readyFrame f codes => Sys2Proof.Machine.execReadyFrame f codes s
  | .firstTick => Sys2Proof.Machine.execFirstTick s
  | .ckptLate plan => Sys2Proof.Machine.execCkptLate plan s
  | .restoreLate plan => Sys2Proof.Machine.execRestoreLate plan s
  | .resetAssertion => Sys2Proof.Machine.execResetAssertion s
  | .pllLock t => Sys2Proof.Machine.execPllLock t s
  | .refclkFailover => Sys2Proof.Machine.execRefclkFailover s
  | .refclkLost => Sys2Proof.Machine.execRefclkLost s
  | .refclkHoldoverEnd => Sys2Proof.Machine.execRefclkHoldoverEnd s
  | .refclk156Loss input => Sys2Proof.Machine.execRefclk156Loss input s
  | .temperatureSample die sensors => Sys2Proof.Machine.execTemperatureSample die sensors s
  | .thermalHoldAnnouncement => Sys2Proof.Machine.execThermalHoldAnnouncement s
  | .thermalClear => Sys2Proof.Machine.execThermalClear s
  | .scheduledRetrainComplete j => Sys2Proof.Machine.execScheduledRetrainComplete j s
  | .portTrained p => Sys2Proof.Machine.execPortTrained p s
  | .hostLinkUp => Sys2Proof.Machine.execHostLinkUp s
  | .mgmtLinkUp => Sys2Proof.Machine.execMgmtLinkUp s
  | .refclk156Return input => Sys2Proof.Machine.execRefclk156Return input s
  | .refclkStandbyRestored => Sys2Proof.Machine.execRefclkStandbyRestored s
  | .jrnFetchComplete p => Sys2Proof.Machine.execJrnFetchComplete p s
  | .frecFetchComplete p => Sys2Proof.Machine.execFrecFetchComplete p s
  | .attestationReportFormed p => Sys2Proof.Machine.execAttestationReportFormed p s
  | .neighborDiscoveryArpEcho f => Sys2Proof.Machine.execNeighborDiscoveryArpEcho f s
  | .thermalHoldReport rank => Sys2Proof.Machine.execThermalHoldReport rank s
  | .twinMismatchReport rank plan => Sys2Proof.Machine.execTwinMismatchReport rank plan s

end Sys2Proof.Machine
end

