-- ==== Sys2Proof/Safety.lean ====
section
/-! DEFINITION. What claims about whole runs use: the canonical form of the state's maps, and what every command leaves as it is. -/

namespace Sys2Proof.Machine

/-- Every map of a tile, of a core, of a site and of the fault unit is in canonical form. -/
def Tile.canonical (x : Tile) : Bool := Sparse.wf 0#24 x.tok && Sparse.wf 0#32 x.cw
def Core.canonical (c : Core) : Bool :=
  Mem.wf c.pocket && Sparse.wf false c.pocketPoison && Sparse.wf none c.acc && Sparse.wf 0#32 c.vr && Sparse.wf false c.vpoison &&
  Sparse.wf 0#16 c.kr && Sparse.wf 0#32 c.ar
def Site.canonical (z : Site) : Bool := Sparse.wf Line.zero z.lines
def FaultUnit.canonical (f : FaultUnit) : Bool := Sparse.wf 0 f.perFrame && Sparse.wf 0 f.unsummed && Sparse.wf 0#16 f.last

/-- The maps of the state are in canonical form, those of its tiles, cores and sites and of the fault unit too: keys rise strictly, and no
entry equals what an unlisted key reads as. Equal contents are then equal data, and a write is what the next read of that key gives. -/
def State.canonical (s : State) : Bool :=
  Mem.wf s.store && Sparse.wf false s.storePoison && Sparse.wf PlanSt.reset s.plans && Sparse.wf Tile.reset s.tiles &&
  Sparse.wf Core.reset s.cores && Sparse.wf Site.reset s.sites && Sparse.wf Port.reset s.ports && Sparse.wf Lane.reset s.lanes &&
  s.tiles.all (fun e => e.2.canonical) && s.cores.all (fun e => e.2.canonical) && s.sites.all (fun e => e.2.canonical) && s.flt.canonical

/-- What a command leaves as it is, whatever it does: the queue and the clock; OTP but for further revocations (15 R416); what has been
sent; the free values drawn before; the canonical form. -/
structure Kept (s t : State) : Prop where
  queue : t.pending = s.pending
  time : t.clk.now = s.clk.now
  keys : t.otp.keys = s.otp.keys
  serial : t.otp.serial = s.otp.serial
  macs : t.otp.mac = s.otp.mac ∧ t.otp.mmac = s.otp.mmac
  fuses : t.otp.fuses = s.otp.fuses
  revoked : ∀ k, s.otp.revoked.getLsbD k = true → t.otp.revoked.getLsbD k = true
  sent : s.tx <+: t.tx
  fresh : s.draws ≤ t.draws
  canon : s.canonical = true → t.canonical = true

/-- Between the two states a fault with this code was detected: it has a record of its own or, past the sixteenth of its frame, it
is counted for the summary record (14 R387, R402). -/
def Logged (code : Nat) (s t : State) : Prop :=
  (∃ r ∈ t.flt.recs, r.code = code ∧ s.flt.next ≤ r.num) ∨ 16 ≤ Sparse.get 0 s.flt.perFrame code

/-- Both states agree on the compute side: every byte and mark of the tile stores, every core, tile and site. -/
structure SameCompute (s t : State) : Prop where
  store : t.store = s.store
  marks : t.storePoison = s.storePoison
  cores : t.cores = s.cores
  tiles : t.tiles = s.tiles
  sites : t.sites = s.sites

/-- A lane's records and counts are the same; only the bytes held against its INBUF share, and STATE with them, may differ (12 R345). -/
def SameLane (x y : Lane) : Prop := y = { x with inBytes := y.inBytes, state := y.state }

/-- Both states agree on the domain side: the frame, every plan, crosswind port and intake lane, and the roster. -/
structure SameDomain (s t : State) : Prop where
  frm : t.frm = s.frm
  plans : t.plans = s.plans
  ports : t.ports = s.ports
  lanes : t.lanes = s.lanes
  dom : t.dom = s.dom

/-! ### Cores -/

/-- Core `k` issues `w` next: the word is legal for the core's chain length, and its predicate does not exclude the core (03 R92). -/
structure Issues (s : State) (k : Nat) (w : W128) : Prop where
  word : s.nextWord k = some w
  legal : illegal w (s.core k).chain = false
  included : (s.core k).excluded k w = false

/-- No core but `k` differs, and nothing but cores. -/
structure OnlyCore (k : Nat) (s t : State) : Prop where
  rest : t = { s with cores := t.cores }
  others : ∀ j, j ≠ k → t.core j = s.core j

/-- Core `k` has raised the contained fault `code`: it is logged and goes into the next vote, the tile keeps the first one, and every
core of the plan has stopped; memory is as it was (03 R108, R109). -/
structure CoreFaulted (k code : Nat) (s t : State) : Prop where
  logged : Logged code s t
  stopped : (t.plan (s.core k).plan).stopped = true
  ends : (t.plan (s.core k).plan).terminating = some ((s.plan (s.core k).plan).terminating.getD code)
  vote : { plan := (s.core k).plan, code := code } ∈ t.frm.faultsOut
  cfault : (t.tile (keyTile k)).cfault = satInc (s.tile (keyTile k)).cfault
  first : (s.tile (keyTile k)).fault.valid = false → (t.tile (keyTile k)).fault =
    { pc := (s.core k).pc, lrow := keyRow k, lcol := keyCol k, plan := (s.core k).plan, valid := true, code := code }
  kept : (s.tile (keyTile k)).fault.valid = true → (t.tile (keyTile k)).fault = (s.tile (keyTile k)).fault
  tiles : ∀ j, j ≠ keyTile k → t.tile j = s.tile j
  cores : ∀ j, t.core j = if (s.core j).active && (s.core j).plan == (s.core k).plan then (s.core j).stopped else s.core j
  store : t.store = s.store ∧ t.storePoison = s.storePoison ∧ t.sites = s.sites

/-- Everything outside the bytes `[a, a + n)` of the tile stores reads as before. -/
def StoreFrame (a n : Nat) (s t : State) : Prop :=
  ∀ i, i < a ∨ a + n ≤ i → Sparse.get 0#8 t.store i = Sparse.get 0#8 s.store i

/-! ### Notices -/

/-- A notice comes to a port for the first time, behind no frame that failed: it is taken and passed on (01 R38, 10 R264). -/
structure Hears (p : Nat) (m : Notice) (s : State) : Prop where
  sends : s.sends = true
  up : (s.port p).up = true
  good : (s.port p).stale = 0
  new : s.dom.heard.contains m = false

/-- The notice has left on every port that is up but one. -/
def Told (m : Notice) (but : Option Nat) (s t : State) : Prop :=
  ∀ q, q < 6 → some q ≠ but → (s.port q).up = true → Out.link q (.notice m) ∈ t.tx

/-! ### Datagrams -/

/-- A datagram comes to port `port` (0 host, 1 management) in form: the MAC takes its frame, and it is for the rank's address and UDP
port (13 R357, R358, R360; 14 R401). -/
def State.inForm (s : State) (port : Nat) (e : Eth) (src : W128) (udp : Nat) : Bool :=
  if port = 1 then s.goushOk e else s.frameOk e && s.dgOk e src udp

/-- A datagram for another rank joins, cut into RELAY frames, the output queue of the port that the relay class's route gives; no other
port differs (10 R288, 13 R361). -/
structure Relayed (dest : Nat) (bs : List Byte) (s t : State) : Prop where
  joins : ∀ q, s.sends = true → s.routeOf 4 dest = some q → t.port q = { s.port q with outq := (s.port q).outq ++ relayFrames dest bs }
  others : ∀ j, s.sends = false ∨ s.routeOf 4 dest ≠ some j → t.port j = s.port j

/-! ### Memory sites and data frames -/

/-- No site but `i` differs, and nothing but sites. -/
structure OnlySite (i : Nat) (s t : State) : Prop where
  rest : t = { s with sites := t.sites }
  others : ∀ j, j ≠ i → t.site j = s.site j

/-- No line of any site but line `n` of site `i` differs, and no other site at all. -/
structure OnlyLine (i n : Nat) (s t : State) : Prop where
  lines : ∀ j, j ≠ n → (t.site i).line j = (s.site i).line j
  others : ∀ j, j ≠ i → t.site j = s.site j

/-- A data frame reaches this rank as its destination with nothing before it: formed here by a plan that runs, or arriving on a port
that is up, with no frame in flight behind a bad one and an empty gust queue, for a class that this rank takes (10 R265, R266, R268). -/
structure ReachesHere (p : Option (Fin 6)) (f : DataFrame) (s : State) : Prop where
  sends : s.sends = true
  cls : f.cls < 4
  here : f.dest = s.dom.rank
  own : p = none → (s.plan f.cls).executes = true ∧ (s.port 6).gust = []
  port : ∀ q, p = some q → (s.port q.val).up = true ∧ (s.port q.val).stale = 0 ∧ (s.port q.val).foreign = false ∧
    (s.port q.val).gust = [] ∧ s.takesClass f.cls = true

end Sys2Proof.Machine
end

