-- ==== Sys2Proof/Certificates/Slice0/Obligations.lean ====
section
/-! DEFINITION. The statements about the model: what each family of commands does, what it leaves as it is, and what holds of every
step. -/

open Sys2Proof Sys2Proof.Machine

/-! ### The machine -/

/-- A step runs the command at the front of the queue on the state with the queue's rest; with none waiting, one nanosecond passes
(log 2). -/
def Obligations.StepRunsFrontCommand : Prop :=
  (∀ (c : Instr) (cs : List Instr) (s : State), s.pending = c :: cs → step s = exec c { s with pending := cs }) ∧
  (∀ s : State, s.pending = [] → step s = .next { s with clk := { s.clk with now := s.clk.now + 1 } })

/-- The state at power-on has every map in canonical form and no command waiting. -/
def Obligations.ResetStateIsCanonical : Prop :=
  core.reset = State.reset ∧ State.reset.canonical = true ∧ State.reset.pending = [] ∧ State.reset.pwr.inReset = true

/-- Every step keeps every map of the state in canonical form. -/
def Obligations.EveryStepKeepsCanonicalForm : Prop :=
  ∀ s t : State, s.canonical = true → step s = .next t → t.canonical = true

/-- No command stops the machine: in every state it answers a next state and leaves the queue and the clock alone. A step takes exactly the
front command off the queue, never takes back what has been sent, and never draws a free value twice. -/
def Obligations.EveryCommandAnswersNext : Prop :=
  (∀ (c : Instr) (s : State), ∃ t, exec c s = .next t ∧ t.pending = s.pending ∧ t.clk.now = s.clk.now) ∧
  (∀ s : State, ∃ t, step s = .next t ∧ t.pending = s.pending.tail ∧ s.tx <+: t.tx ∧ s.draws ≤ t.draws)

/-- OTP changes in one way only: a revocation bit may become set, and it stays set (15 R416). -/
def Obligations.RevocationIsPermanent : Prop :=
  ∀ s t : State, step s = .next t →
    t.otp.keys = s.otp.keys ∧ t.otp.serial = s.otp.serial ∧ t.otp.mac = s.otp.mac ∧ t.otp.mmac = s.otp.mmac ∧
    t.otp.fuses = s.otp.fuses ∧ (∀ k, s.otp.revoked.getLsbD k = true → t.otp.revoked.getLsbD k = true)

/-! ### Reset, clocks and temperature -/

/-- RESET_ASSERTION, in any state: every unit's state goes to its reset value with no fault record and no journal write, each site's queue,
write-combining buffer and counters among it; OTP, the eMMC and the journal ring in it, the straps, a trip, and the retirement maps in the
sites' reserves stay, and so do the model's clock and the start-up counts of logs 37 and 56. -/
def Obligations.ResetAssertionResetsAtOnce : Prop :=
  ∀ s : State, ∃ t, exec .resetAssertion s = .next t ∧
    t.pwr.inReset = true ∧ t.frm = Frm.reset ∧ t.flt = FaultUnit.reset ∧ t.dev = Dev.reset ∧ t.plans = [] ∧ t.tiles = [] ∧
    t.cores = [] ∧ t.store = [] ∧ t.storePoison = [] ∧ t.ports = [] ∧ t.lanes = [] ∧ t.dom = Domain.reset ∧
    t.host = HostPort.reset ∧ t.dir = DirUnit.reset ∧ t.img = [] ∧ t.itg = Itg.reset ∧ t.win0 = Window.reset ∧
    t.win1 = Window.reset ∧ t.otp = s.otp ∧ t.emmc = s.emmc ∧ t.jrn.ring = s.jrn.ring ∧ t.jrn.buf = [] ∧ t.tx = s.tx ∧
    t.clk = { Clk.reset with now := s.clk.now } ∧
    t.pwr = { Pwr.reset with rankStraps := s.pwr.rankStraps, forceRec := s.pwr.forceRec, thermTrip := s.pwr.thermTrip } ∧
    t.boot = { Boot.reset with boots := s.boot.boots, starts := s.boot.starts, inOpens := s.boot.inOpens, outOpens := s.boot.outOpens } ∧
    (∀ i, i < 24 → t.site i = { Site.reset with retmap := (s.site i).retmap }) ∧ (∀ i, 24 ≤ i → t.site i = Site.reset)

/-- RESET_RELEASE: the 100 MHz PLLs are served from CLK100_A where it passes its measurement, otherwise from CLK100_B; the other input
is the standby; with neither, the device stays in reset and drives FATAL_N low. -/
def Obligations.ReleaseSelectsReferenceClock : Prop :=
  ∀ (r : ResetIn) (s : State), s.pwr.inReset = true → (r.powerOn = true ∨ s.pwr.thermTrip = false) → ∃ t, exec (.resetRelease r) s = .next t ∧
    (r.ref100.getLsbD 0 = true → t.clk.serving = 0 ∧ t.clk.standbyOk = r.ref100.getLsbD 1) ∧
    (r.ref100.getLsbD 0 = false → r.ref100.getLsbD 1 = true → t.clk.serving = 1 ∧ t.clk.standbyOk = false) ∧
    (r.ref100.getLsbD 0 = false → r.ref100.getLsbD 1 = false → t.pwr.inReset = true ∧ t.fatalN = false)

/-- The 100 MHz inputs after reset: failover to the standby, loss of both, the end of holdover, and a restored standby. PLL_LOCK writes a delta
before it halts the rank: one that selects the other PLL, or one that retires the tile where the other has failed before. -/
def Obligations.ClockLossIsHandled : Prop :=
  (∀ s : State, s.live = true →
    (s.clk.standbyOk = true → s.clk.lost = false → ∃ t, exec .refclkFailover s = .next t ∧
      t.clk = { s.clk with serving := 1 - s.clk.serving, standbyOk := false } ∧ Logged 0x0004 s t ∧ t.frm = s.frm ∧
      t.plans = s.plans ∧ t.tx = s.tx) ∧
    (s.clk.lost = false → ∃ t, exec .refclkLost s = .next t ∧
      t.clk = { s.clk with lost := true, standbyOk := false } ∧ Logged 0x0005 s t ∧ t.runs = false ∧ t.sends = false) ∧
    (s.clk.lost = true → ∃ t, exec .refclkHoldoverEnd s = .next t ∧ t = { s with clk := { s.clk with stopped := true } } ∧
      t.live = false) ∧
    (s.clk.standbyOk = false → s.clk.lost = false → ∃ t, exec .refclkStandbyRestored s = .next t ∧
      t = { s with clk := { s.clk with standbyOk := true } })) ∧
  (∀ (k : Fin 16) (s : State), s.live = true → s.emmc.deltaCount < deltaMax → ∃ t, exec (.pllLock k) s = .next t ∧
    t.emmc.deltas = s.emmc.deltas ++ [s.mkDelta (if (s.tile k.val).otherFailed then 3 else 4) k.val 0 0 0x0210] ∧
    Logged 0x0210 s t ∧ t.flt.fatal = true ∧ t.runs = false ∧ t.sends = false)

/-- TEMPERATURE_SAMPLE with the hottest sensor at `x` sixteenths of a degree: THERM and the hold flag follow the thresholds of 17 Table 17.8, and the
trip point stops plans and ports with no fault record. -/
def Obligations.TemperatureThresholds : Prop :=
  ∀ (d : Fin 21) (y : Int) (ys : List Int) (s : State), s.live = true →
    let x := (BitVec.ofInt 16 (ys.foldl max y)).toInt
    ∃ t, exec (.temperatureSample d (y :: ys)) s = .next t ∧
      (x < 1520 → t.dev.therm = s.dev.therm ∧ t.dev.holdRaised = s.dev.holdRaised ∧ t.flt = s.flt ∧ t.tx = s.tx) ∧
      (1520 ≤ x → x < 1640 → s.dev.therm = 0 → t.dev.therm = 1 ∧ Logged 0x0001 s t ∧ t.dev.holdRaised = s.dev.holdRaised) ∧
      (1640 ≤ x → x < 1760 → s.dev.holdRaised = false → t.dev.therm = 2 ∧ t.dev.holdRaised = true ∧ Logged 0x0002 s t ∧
        (s.frm.leader = s.dom.rank → t.frm.thermUp = true ∧ 5 ∈ t.frm.agreedCauses) ∧
        (s.frm.leader ≠ s.dom.rank → s.sends = true → ∀ q, q < 6 → (s.port q).up = true →
          Out.link q (.notice (.holdReport s.dom.rank)) ∈ t.tx)) ∧
      (1760 ≤ x → t.thermtripN = false ∧ t.live = false ∧ t.sends = false ∧ t.flt = s.flt)

/-- The thermal hold: the leader announces what a rank reports, every rank takes it for its next tick, and the episode ends once every
die has been cool. -/
def Obligations.ThermalHoldReachesEveryRank : Prop :=
  (∀ (p : Fin 6) (r : Fin 64) (s : State), s.sends = true → s.frm.leader = s.dom.rank → (s.port p.val).up = true →
    (s.port p.val).stale = 0 → s.dom.heard.contains (.holdReport r.val) = false → ∃ t, exec (.thermalHoldReport (p, r)) s = .next t ∧
    5 ∈ t.frm.agreedCauses ∧ t.frm.thermUp = true ∧ (∀ q, q < 6 → (s.port q).up = true → Out.link q (.notice .hold) ∈ t.tx)) ∧
  (∀ s : State, s.runs = true → ∃ t, exec .thermalHoldAnnouncement s = .next t ∧
    5 ∈ t.frm.agreedCauses ∧ (∀ c, c ∈ s.frm.agreedCauses → c ∈ t.frm.agreedCauses) ∧ t.frm.thermUp = true ∧ t.flt = s.flt) ∧
  (∀ s : State, s.live = true → s.dev.therm ≠ 0 → s.dev.coolSince.isSome = true → ∃ t, exec .thermalClear s = .next t ∧
    t.dev.therm = 0 ∧ t.dev.holdRaised = false ∧ Logged 0x0003 s t ∧ t.frm = s.frm)

/-! ### Status space -/

/-- A status read for this rank is answered with the words it names, is refused with neither a read nor a write of any word, or waits for
the fetch of its window or behind a request that does; RC_READ is the read of one word with an RC field, and FRM_IDLE shows that the field is
cleared. One for another rank enters the output queue of its route as RELAY frames at the host port and is discarded at the management port;
an answer leaves by the host link where that is up; one out of form is discarded. -/
def Obligations.StatusReadsAnswerRefuseOrWait : Prop :=
  ∀ (r : StatReq) (n : Nat) (s : State), s.reach r.port.val = true →
    let a := r.addr.toNat
    let s1 := s.rxdg r.port.val
    let ok := s.inForm r.port.val r.eth r.src s.dirPort = true
    let op : StatOp := { port := r.port.val, addr := a, count := n, src := r.src, id := reqSeq r, write := none, answers := true }
    let here := ok ∧ r.rank = s.dom.rank ∧ (r.port.val = 0 → s.host.link = 2) ∧ s.host.waiting = []
    (here → a % 8 ≠ 0 ∨ n = 0 ∨ 64 < n ∨ (n = 1 ∧ s1.statusWord r.port.val a = none) →
      ∃ t k, exec (.sread r n) s = .next t ∧ t.tx = s.tx ++ [.sresp r.port.val (reqSeq r) k a []] ∧ k ≠ 0 ∧
        (a % 8 ≠ 0 → k = 1) ∧ (a % 8 = 0 → n = 0 ∨ 64 < n → k = 3) ∧ (a % 8 = 0 → n = 1 → k = 2) ∧
        Logged 0x0706 s t ∧ SameCompute s t ∧ SameDomain s t ∧ t.dev = s.dev ∧ t.win0 = s.win0 ∧ t.win1 = s.win1) ∧
    (∀ v, here → n = 1 → a % 8 = 0 → s1.statusWord r.port.val a = some v → (s.win r.port.val).busy a = false →
      ∃ t, exec (.sread r n) s = .next t ∧ t.tx = s.tx ++ [.sresp r.port.val (reqSeq r) 0 a [v]] ∧ t.store = s.store ∧
        t.storePoison = s.storePoison ∧ t.cores = s.cores ∧ t.flt.recs = s.flt.recs ∧
        (rcWord a = true → exec (.rcRead r) s = .next t) ∧ (a = 0x10020 → s.boot.recovery = false → t.frm.idle = 0)) ∧
    (here → 0 < n → n ≤ 64 → a % 8 = 0 → (∀ x ∈ reqAddrs a n, (s1.statusWord r.port.val x).isSome = true ∧ (s.win r.port.val).busy x = false) →
      ∃ t vs, exec (.sread r n) s = .next t ∧ t.tx = s.tx ++ [.sresp r.port.val (reqSeq r) 0 a vs] ∧ vs.length = n ∧
        vs[0]? = s1.statusWord r.port.val a ∧ vs = (s1.readWords r.port.val (reqAddrs a n)).2 ∧ t.store = s.store ∧
        t.storePoison = s.storePoison ∧ t.cores = s.cores ∧ t.flt.recs = s.flt.recs) ∧
    (here → 0 < n → n ≤ 64 → a % 8 = 0 → (∃ x ∈ reqAddrs a n, s1.statusWord r.port.val x = none) →
      ∃ t, exec (.sread r n) s = .next t ∧ t.tx = s.tx ++ [.sresp r.port.val (reqSeq r) 2 a []] ∧ Logged 0x0706 s t ∧
        SameCompute s t ∧ SameDomain s t ∧ t.win0 = s.win0 ∧ t.win1 = s.win1) ∧
    (∀ v, here → n = 1 → a % 8 = 0 → s1.statusWord r.port.val a = some v → (s.win r.port.val).busy a = true →
      ∃ t, exec (.sread r n) s = .next t ∧ t.tx = s.tx ∧ SameCompute s t ∧ SameDomain s t ∧ t.host.waiting = [op]) ∧
    (∀ q qs, ok → r.rank = s.dom.rank → s.host.waiting = q :: qs → s1.opBusy q = true → ∃ t, exec (.sread r n) s = .next t ∧
      t.host.waiting = s.host.waiting ++ [op] ∧ t.tx = s.tx ∧ SameCompute s t ∧ SameDomain s t) ∧
    (r.port.val = 1 → ¬ok ∨ r.rank ≠ s.dom.rank → exec (.sread r n) s = .next s) ∧
    (r.port.val = 0 → s.frameOk r.eth = false → exec (.sread r n) s = .next s) ∧
    (r.port.val = 0 → s.frameOk r.eth = true → ¬ok → ∃ t, exec (.sread r n) s = .next t ∧ t.host.discard = satInc s.host.discard ∧
      t = { s with host := t.host }) ∧
    (ok → r.rank ≠ s.dom.rank → r.port.val = 0 → ∃ t, exec (.sread r n) s = .next t ∧ t.tx = s.tx ∧ SameCompute s t ∧ t.frm = s.frm ∧
      t.plans = s.plans ∧ t.host.rxdg = satInc s.host.rxdg ∧ t.win0 = s.win0 ∧ t.win1 = s.win1 ∧
      Relayed r.rank (reqBytes r 0x20 n []) s t)

/-- A status write is refused, is ignored where the word has no field to write, or has the effect of its word; every answered one has
STATUS 0. Writing 1 to VALID of a tile's TIL_FAULT, by SWRITE or as the row of its own, clears that word and no other tile's. -/
def Obligations.StatusWritesReachOnlyTheirWord : Prop :=
  (∀ (r : StatReq) (v : W64) (s : State), s.reach r.port.val = true →
    let a := r.addr.toNat
    let p := r.port.val
    let s1 := s.rxdg p
    let w := s.win p
    let form := s.inForm p r.eth r.src s.dirPort = true
    let op : StatOp := { port := p, addr := a, count := 1, src := r.src, id := reqSeq r, write := some v, answers := true }
    let here := form ∧ r.rank = s.dom.rank ∧ (p = 0 → s.host.link = 2) ∧ s.host.waiting = []
    let lives := s.boot.recovery = false ∨ liveInRecovery a = true
    let ok := Out.sresp p (reqSeq r) 0 a []
    let only := fun t : State => t.tx = s.tx ++ [ok] ∧ SameCompute s t ∧ SameDomain s t ∧ t.flt = s.flt
    (here → a % 8 ≠ 0 → ∃ t, exec (.swrite r v) s = .next t ∧ t.tx = s.tx ++ [.sresp p (reqSeq r) 1 a []] ∧ Logged 0x0706 s t ∧
      SameCompute s t ∧ SameDomain s t ∧ t.win0 = s.win0 ∧ t.win1 = s.win1) ∧
    (here → a % 8 = 0 → s1.statusWord p a = none → ∃ t, exec (.swrite r v) s = .next t ∧ t.tx = s.tx ++ [.sresp p (reqSeq r) 2 a []] ∧
      Logged 0x0706 s t ∧ SameCompute s t ∧ SameDomain s t ∧ t.win0 = s.win0 ∧ t.win1 = s.win1) ∧
    (here → a % 8 = 0 → (s1.statusWord p a).isSome = true → ¬lives → ∃ t, exec (.swrite r v) s = .next t ∧
      t = { s with host := t.host, tx := s.tx ++ [ok] }) ∧
    (here → a % 8 = 0 → (s1.statusWord p a).isSome = true → lives →
      (a < 0x20000 ∨ (0x30000 ≤ a ∧ a < 0x80000) → ∃ t, exec (.swrite r v) s = .next t ∧
        t = { s with host := t.host, tx := s.tx ++ [ok] }) ∧
      (a = 0x21000 → ∃ t, exec (.swrite r v) s = .next t ∧ t.win p = { w with watchSel := v.setWidth 17 &&& 0x10FFF#17 } ∧ only t) ∧
      (a = 0xA0010 → ∃ t, exec (.swrite r v) s = .next t ∧ t.win p = { w with jrnSel := v.setWidth 48, jrnFetch := true } ∧ only t) ∧
      (a = 0x80310 → ∃ t, exec (.swrite r v) s = .next t ∧ t.win p = { w with fsel := v.setWidth 48, frecFetch := true } ∧ only t) ∧
      (a = 0x90400 → ∃ t, exec (.swrite r v) s = .next t ∧ t.win p = { w with certSel := v.setWidth 11 &&& 0x707#11 } ∧ only t) ∧
      (∀ k : Fin 4, a = 0x90100 + 8 * k.val → ∃ t, exec (.swrite r v) s = .next t ∧ (t.win p).nonce.getD k.val 0 = v ∧
        (∀ j, j < 4 → j ≠ k.val → (t.win p).nonce.getD j 0 = w.nonce.getD j 0) ∧ only t) ∧
      (a = 0x90120 → ∃ t, exec (.swrite r v) s = .next t ∧ (t.win p).attFetch = true ∧ (t.win p).att.length = 52 ∧ only t) ∧
      (∀ k : Fin 16, a = 0x20008 + 0x100 * k.val → ∃ t, exec (.swrite r v) s = .next t ∧
        (t.tile k.val).fault = { (s.tile k.val).fault with valid := (s.tile k.val).fault.valid && !v.getLsbD 16 } ∧
        (∀ j, j ≠ k.val → t.tile j = s.tile j) ∧ t.store = s.store ∧ t.cores = s.cores ∧ t.sites = s.sites ∧ SameDomain s t)) ∧
    (∀ q qs, form → r.rank = s.dom.rank → s.host.waiting = q :: qs → s1.opBusy q = true → ∃ t, exec (.swrite r v) s = .next t ∧
      t.host.waiting = s.host.waiting ++ [op] ∧ t.tx = s.tx ∧ SameCompute s t ∧ SameDomain s t) ∧
    (p = 1 → ¬form ∨ r.rank ≠ s.dom.rank → exec (.swrite r v) s = .next s) ∧
    (p = 0 → s.frameOk r.eth = false → exec (.swrite r v) s = .next s) ∧
    (p = 0 → s.frameOk r.eth = true → ¬form → ∃ t, exec (.swrite r v) s = .next t ∧ t.host.discard = satInc s.host.discard ∧
      t = { s with host := t.host }) ∧
    (form → r.rank ≠ s.dom.rank → p = 0 → ∃ t, exec (.swrite r v) s = .next t ∧ t.tx = s.tx ∧ SameCompute s t ∧ t.frm = s.frm ∧
      t.plans = s.plans ∧ t.host.rxdg = satInc s.host.rxdg ∧ t.win0 = s.win0 ∧ t.win1 = s.win1 ∧ Relayed r.rank (reqBytes r 0x21 0 [v]) s t)) ∧
  (∀ (k : Fin 16) (s : State), s.live = true → 5 ≤ s.boot.stage → s.boot.recovery = false → s.host.waiting = [] →
    ∃ t, exec (.tilFaultValidClear k) s = .next t ∧ (t.tile k.val).fault = { (s.tile k.val).fault with valid := false } ∧
      (t.tile k.val).cfault = (s.tile k.val).cfault ∧ (t.tile k.val).tok = (s.tile k.val).tok ∧
      (∀ j, j ≠ k.val → t.tile j = s.tile j) ∧ t = { s with tiles := t.tiles })

/-- Each port's windows onto the journal, the fault records and the attestation report: a write, once nothing waits before it, starts a
fetch for that port alone; the fetch's end fills the window, and a read that waited for it is answered with its word (13 R379, 15 R434,
16 R441, R452). -/
def Obligations.WindowsFetchForTheirPort : Prop :=
  ∀ (p : Fin 2) (v : W64) (s : State), s.reach p.val = true →
    let w := s.win p.val
    let jrn := ((s.jrnRec? w.jrnSel).map JrnRec.words).getD []
    let rec_ := ((s.flt.recs.find? fun r => r.num == w.fsel.toNat).map FaultRec.words).getD []
    (∀ q qs, s.host.waiting = q :: qs → s.opBusy q = true → ∀ e ∈ [(Instr.jrnSel p v, 0xA0010), (.itgFsel p v, 0x80310), (.botAttreq p v, 0x90120)],
      exec e.1 s = .next { s with host := { s.host with waiting := s.host.waiting ++
        [{ port := p.val, addr := e.2, count := 1, src := 0, id := 0, write := some v, answers := false }] } }) ∧
    (s.host.waiting = [] → ∃ t, exec (.jrnSel p v) s = .next t ∧ t.win p.val = { s.win p.val with jrnSel := v.setWidth 48, jrnFetch := true } ∧
      t.win (1 - p.val) = s.win (1 - p.val) ∧ t.tx = s.tx ∧ SameCompute s t ∧ SameDomain s t) ∧
    (s.host.waiting = [] → ∃ t, exec (.itgFsel p v) s = .next t ∧ t.win p.val = { s.win p.val with fsel := v.setWidth 48, frecFetch := true } ∧
      t.win (1 - p.val) = s.win (1 - p.val) ∧ t.tx = s.tx ∧ SameCompute s t ∧ SameDomain s t) ∧
    (∀ i, s.host.waiting = [] → s.boot.image = some i →
      let body := s.reportBody w.nonce (beBytes 48 i.hdrDigest.toNat)
      ∃ t, exec (.botAttreq p v) s = .next t ∧ (t.win p.val).attFetch = true ∧
        (t.win p.val).att = bytesWords 52 (body ++ beBytes 96 (ecdsaSign s.otp.idKey (Config.signingNumber s.draws) (sha384 body)).toNat) ∧
        t.win (1 - p.val) = s.win (1 - p.val) ∧ SameCompute s t ∧ SameDomain s t) ∧
    (w.jrnFetch = true → s.host.waiting = [] → exec (.jrnFetchComplete p) s = .next (s.setWin p.val { w with jrnFetch := false, jrnData := jrn })) ∧
    (w.frecFetch = true → s.host.waiting = [] → exec (.frecFetchComplete p) s = .next (s.setWin p.val { w with frecFetch := false, frec := rec_ })) ∧
    (w.attFetch = true → s.host.waiting = [] → exec (.attestationReportFormed p) s = .next (s.setWin p.val { w with attFetch := false })) ∧
    (∀ q : StatOp, s.host.waiting = [q] → q.port = p.val → q.count = 1 → q.write = none → q.addr % 8 = 0 → (p.val = 0 → s.host.link = 2) →
      let o := q.addr % 65536
      let ends := fun (c : Instr) (x : W64) => ∃ t, exec c s = .next t ∧ t.host.waiting = [] ∧
        t.tx = s.tx ++ [.sresp p.val q.id 0 q.addr [x]] ∧ SameCompute s t ∧ SameDomain s t
      (w.jrnFetch = true → 0xA0040 ≤ q.addr → q.addr < 0xA00C0 → ends (.jrnFetchComplete p) (jrn.getD ((o - 0x40) / 8) 0)) ∧
      (w.frecFetch = true → 0x80340 ≤ q.addr → q.addr < 0x80380 → ends (.frecFetchComplete p) (rec_.getD ((o - 0x340) / 8) 0)) ∧
      (w.attFetch = true → 0x90200 ≤ q.addr → q.addr < 0x903A0 → ends (.attestationReportFormed p) (w.att.getD ((o - 0x200) / 8) 0)))

/-! ### Host port -/

/-- DATA of this rank's streams with the current epoch: passed on once each in SEQ order, held ahead of a gap, ignored beyond the
window; one with another epoch is answered with the current one; a datagram out of form or of a stream not known is discarded and counted;
one for another rank enters the output queue of its route as RELAY frames. Of a lane it changes at most the bytes held and STATE. -/
def Obligations.DataIsPassedOnInOrder : Prop :=
  ∀ (d : DataDg) (s : State), s.hostUp = true → s.boot.stage = 11 → s.restorePlan d.stream = none →
    let lanes := fun t : State => ∀ j, ∃ st n, t.lane j = { s.lane j with state := st, inBytes := n }
    let form := s.frameOk d.eth = true ∧ s.dgOk d.eth d.src s.dataPort = true ∧ d.formOk = true ∧ d.body.length ≤ 8192
    (s.frameOk d.eth = false → exec (.data d) s = .next s) ∧
    (s.frameOk d.eth = true → d.formOk = false ∨ s.dgOk d.eth d.src s.dataPort = false ∨ 8192 < d.body.length ∨
        (d.rank = s.dom.rank ∧ s.knowsStream d.stream = false) →
      ∃ t, exec (.data d) s = .next t ∧ t.host.discard = satInc s.host.discard ∧ t.host.ins = s.host.ins ∧ t.tx = s.tx ∧
        SameCompute s t ∧ t.frm = s.frm ∧ t.plans = s.plans ∧ t.ports = s.ports ∧ t.dom = s.dom ∧ lanes t) ∧
    (form → d.rank ≠ s.dom.rank → ∃ t, exec (.data d) s = .next t ∧ t.host.ins = s.host.ins ∧
      t.host.discard = s.host.discard ∧ t.tx = s.tx ∧ SameCompute s t ∧ t.frm = s.frm ∧ t.plans = s.plans ∧ lanes t ∧
      Relayed d.rank (fromSender d.src 0 (dgBytes 1 d.stream d.rank d.epoch d.seq d.body)) s t) ∧
    (form → d.rank = s.dom.rank → s.knowsStream d.stream = true → s.host.link = 2 →
      d.epoch ≠ (s.inStream d.stream).epoch → ∃ t w, exec (.data d) s = .next t ∧ t.host.ins = s.host.ins ∧
        t.tx = s.tx ++ [.ack d.stream (s.inStream d.stream).epoch 0 w []] ∧ SameCompute s t ∧ t.frm = s.frm ∧ t.plans = s.plans) ∧
    (form → d.rank = s.dom.rank → s.knowsStream d.stream = true → s.imgStream d.stream = false →
      d.body ≠ [] → d.epoch = (s.inStream d.stream).epoch →
      let x := s.inStream d.stream
      ∃ t, exec (.data d) s = .next t ∧ SameCompute s t ∧ t.frm = s.frm ∧ t.plans = s.plans ∧ lanes t ∧
        (d.seq.toNat < x.cum.toNat → x.held = [] → (t.inStream d.stream).cum = x.cum ∧ (t.inStream d.stream).passed = x.passed ∧
          (t.inStream d.stream).held = []) ∧
        (d.seq = x.cum → 0 < s.windowOf d.stream → x.held = [] → (t.inStream d.stream).cum = x.cum + 1 ∧
          (t.inStream d.stream).passed = x.passed ++ d.body ∧ (t.inStream d.stream).held = []) ∧
        (x.cum.toNat < d.seq.toNat → d.seq.toNat < x.cum.toNat + s.windowOf d.stream → x.held = [] →
          (t.inStream d.stream).cum = x.cum ∧ (t.inStream d.stream).passed = x.passed ∧
          (t.inStream d.stream).held = [(d.seq, d.body)]) ∧
        (x.cum.toNat + s.windowOf d.stream ≤ d.seq.toNat → t.inStream d.stream = x ∧ t.tx = s.tx))

/-- The outflow side and the acknowledgement of received data: an ACK frees what it covers, a timed-out datagram is sent again with its
interval doubled up to 50 ms, a keep-alive takes no sequence number. -/
def Obligations.OutflowAcknowledgeResendKeepAlive : Prop :=
  (∀ (n : Nat) (s : State), s.hostUp = true → s.host.link = 2 → 0 < (s.inStream n).unacked → ∃ t o, exec (.ackTimer n) s = .next t ∧
    t.tx = s.tx ++ [o] ∧ (∃ w rs, o = .ack n (s.inStream n).epoch (s.inStream n).cum w rs) ∧ (t.inStream n).unacked = 0 ∧
    (t.inStream n).cum = (s.inStream n).cum ∧ (t.inStream n).held = (s.inStream n).held ∧
    (t.inStream n).passed = (s.inStream n).passed ∧ SameCompute s t ∧ SameDomain s t) ∧
  (∀ (a : AckDg) (s : State), s.hostUp = true →
    (s.frameOk a.eth = false → exec (.ack a) s = .next s) ∧
    (s.frameOk a.eth = true → s.dgOk a.eth a.src s.dataPort = false → ∃ t, exec (.ack a) s = .next t ∧
      t.host.discard = satInc s.host.discard ∧ t = { s with host := t.host }) ∧
    (s.inForm 0 a.eth a.src s.dataPort = true → a.rank ≠ s.dom.rank → ∃ t, exec (.ack a) s = .next t ∧ t.host.outs = s.host.outs ∧
      t.tx = s.tx ∧ SameCompute s t ∧ t.frm = s.frm ∧ t.plans = s.plans ∧
      Relayed a.rank (fromSender a.src 0 (dgBytes 2 a.stream a.rank a.epoch 0 (ackBody a.cum a.window a.ranges))) s t)) ∧
  (∀ (a : AckDg) (x : OutStream) (s : State), s.hostUp = true → s.inForm 0 a.eth a.src s.dataPort = true → a.rank = s.dom.rank → s.out? a.stream = some x → a.epoch = x.epoch →
    x.queue = [] →
    ∃ t y, exec (.ack a) s = .next t ∧ t.out? a.stream = some y ∧ y.window = some a.window ∧
      (∀ d, d ∈ y.flight ↔ d ∈ x.flight ∧ a.cum.toNat ≤ d.seq.toNat ∧
        ∀ r ∈ a.ranges, d.seq.toNat < r.1.toNat ∨ r.1.toNat + r.2 ≤ d.seq.toNat) ∧
      t.tx = s.tx ∧ SameCompute s t ∧ SameDomain s t) ∧
  (∀ (n : Nat) (seq : W48) (x : OutStream) (d : OutDg) (s : State), s.hostUp = true → s.host.link = 2 → s.out? n = some x →
    x.flight.find? (fun e => e.seq == seq) = some d → ∃ t, exec (.retransmissionTimeout n seq) s = .next t ∧
      t.tx = s.tx ++ [.outflow n seq true d.data] ∧ t.host.retx = satInc s.host.retx ∧ (d.resends + 1 = 16 → Logged 0x0702 s t) ∧
      (d.resends + 1 ≠ 16 → t.flt = s.flt) ∧ SameCompute s t ∧ SameDomain s t ∧
      ∃ y, t.out? n = some y ∧ y.next = x.next ∧ y.queue = x.queue ∧ y.flight = x.flight.map (fun e => if e.seq == seq then
        { e with resends := e.resends + 1, timeoutUs := min 50000 (2 * e.timeoutUs) } else e)) ∧
  (∀ (n : Nat) (x : OutStream) (s : State), s.hostUp = true → s.host.link = 2 → s.out? n = some x →
    ∃ t, exec (.keepAlive n) s = .next t ∧ t.tx = s.tx ++ [.keepAlive n x.next] ∧ t.out? n = some x ∧ SameCompute s t ∧ SameDomain s t)

/-- The host link and what lies below the host protocol, and PTP: sixteen consecutive calibrated intervals below 100 ns lock the
clock, three seconds without sync put it into holdover, and leaving the locked state is logged. -/
def Obligations.HostLinkAndPtp : Prop :=
  (∀ s : State, s.hostUp = true → ∃ t, exec .hostLinkDown s = .next t ∧ t.host = { s.host with link := 0 } ∧
    (s.host.link = 2 → Logged 0x0701 s t) ∧ (s.host.link ≠ 2 → t.flt = s.flt) ∧ SameCompute s t ∧ SameDomain s t) ∧
  (∀ s : State, s.hostUp = true → s.clk.ref156.getLsbD 2 = true → ∃ t, exec .hostLinkUp s = .next t ∧ t.host.link = 2 ∧
    t.clk.ptp = (if s.clk.ptp = 0 then 1 else s.clk.ptp) ∧ t.flt = s.flt ∧ SameCompute s t ∧ SameDomain s t) ∧
  (∀ (o : Int) (m : PtpIn) (s : State), s.hostUp = true → s.host.link = 2 → m.domain ≠ s.cfgw 2 48 8 → exec (.ptpSync o m) s = .next s) ∧
  (∀ (o : Int) (m : PtpIn) (s : State), s.hostUp = true → s.host.link = 2 → m.domain = s.cfgw 2 48 8 → ∃ t, exec (.ptpSync o m) s = .next t ∧
    t.clk.ptpOfs = s.clk.ptpOfs - (o - s.asym) ∧ t.clk.ptpLast = BitVec.ofInt 32 (o - s.asym) ∧
    t.clk.ptpRun = (if (o - s.asym).natAbs < 100 ∧ m.calibrated = true then s.clk.ptpRun + 1 else 0) ∧
    t.clk.ptp = (if 16 ≤ t.clk.ptpRun then 3 else 2) ∧ (s.clk.ptp = 3 → t.clk.ptp ≠ 3 → Logged 0x0704 s t) ∧
    SameCompute s t ∧ SameDomain s t) ∧
  (∀ s : State, s.hostUp = true → s.clk.ptp = 2 ∨ s.clk.ptp = 3 → ∃ t, exec .ptpHoldover s = .next t ∧ t.clk.ptp = 4 ∧
    t.clk.ptpOfs = s.clk.ptpOfs ∧ (s.clk.ptp = 3 → Logged 0x0704 s t) ∧ (s.clk.ptp = 2 → t.flt = s.flt) ∧ SameCompute s t ∧ SameDomain s t) ∧
  (∀ (b : List Byte) (s : State), s.hostUp = true → s.host.link = 2 →
    (∃ t, exec (.neighborDiscoveryArpEcho (.echo6 b)) s = .next t ∧ t = { s with tx := s.tx ++ [.reply 2 b] }) ∧
    (∃ t, exec (.neighborDiscoveryArpEcho .pause) s = .next t ∧ t = s) ∧
    (∀ f, f = .fragment ∨ f = .other → ∃ t, exec (.neighborDiscoveryArpEcho f) s = .next t ∧ t = (s.rxdg 0).discardDg) ∧
    (∀ w : W128, ∃ t, exec (.neighborDiscoveryArpEcho (.neighborDiscovery w)) s = .next t ∧
      t = (if w.toNat = s.v6addr then { s with tx := s.tx ++ [.reply 0 (leBytes 6 s.dev.mac.toNat)] } else s)) ∧
    (∀ w : W32, ∃ t, exec (.neighborDiscoveryArpEcho (.arp w)) s = .next t ∧
      t = (if s.v4on = true ∧ w.toNat = s.v4addr then { s with tx := s.tx ++ [.reply 1 (leBytes 6 s.dev.mac.toNat)] } else s)) ∧
    (∃ t, exec (.neighborDiscoveryArpEcho (.echo4 b)) s = .next t ∧
      t = (if s.v4on = true then { s with tx := s.tx ++ [.reply 3 b] } else (s.rxdg 0).discardDg)))

/-! ### Management port -/

/-- Reports to the collectors: one that is not acknowledged is sent again with its interval doubled up to 1 s, an acknowledgement
covers every lower number, a heartbeat goes to each collector, and the link's loss is logged. Pattern-pack and image segments are taken in
OFFSET order and acknowledged with the count received; a completed image write that does not verify leaves both slots' images as they were. -/
def Obligations.ManagementPortTraffic : Prop :=
  ((∀ (c : Fin 4) (n : Nat) (x : Collector) (s : State), s.mgmt = true → s.flt.collectors[c.val]? = some x → x.cum ≤ n →
    s.flt.holds n = true → ∃ t y, exec (.reportResend c n) s = .next t ∧
      t.flt.reports = s.flt.reports ++ [{ collector := c.val, seq := n, resend := true }] ∧ t.flt.collectors[c.val]? = some y ∧
      y.cum = x.cum ∧ y.interval = min 1000 (2 * x.interval) ∧
      (∀ j, j ≠ c.val → t.flt.collectors[j]? = s.flt.collectors[j]?) ∧ t = { s with flt := t.flt }) ∧
  (∀ (h : GoushHdr) (c : Fin 4) (cum : W48) (s : State), s.goush h 0x02 8 = false → exec (.rack (h, c) cum) s = .next s) ∧
  (∀ (h : GoushHdr) (c : Fin 4) (cum : W48) (x : Collector) (s : State), s.goush h 0x02 8 = true → s.flt.collectors[c.val]? = some x →
    ∃ t y, exec (.rack (h, c) cum) s = .next t ∧ t.flt.collectors[c.val]? = some y ∧ y.cum = max x.cum cum.toNat ∧ y.interval = 10 ∧
      (∀ j, j ≠ c.val → t.flt.collectors[j]? = s.flt.collectors[j]?) ∧ t.flt.recs = s.flt.recs ∧ t = { s with flt := t.flt }) ∧
  (∀ s : State, s.mgmt = true → ∃ t, exec .heartbeat s = .next t ∧
    t = { s with tx := s.tx ++ (List.range s.flt.collectors.length).map fun c => .heartbeat c [s.devState, s.frmState, s.itgPatrol] }) ∧
  (∀ s : State, s.mgmt = true → ∃ t, exec .mgmtLinkDown s = .next t ∧ t.flt.mgmtUp = false ∧ Logged 0x080B s t ∧
    t = { s with flt := t.flt }) ∧
  (∀ s : State, s.reach 1 = true → s.flt.mgmtUp = false → ∃ t, exec .mgmtLinkUp s = .next t ∧
    t = { s with flt := { s.flt with mgmtUp := true } })) ∧
  ((∀ (h : GoushHdr) (id : BitVec 16) (o : W48) (b : List Byte) (s : State), s.goush h 0x30 (8 + b.length) = false →
    exec (.packSeg (h, id) o b) s = .next s) ∧
  (∀ (h : GoushHdr) (id : BitVec 16) (o : W48) (b : List Byte) (s : State), s.goush h 0x30 (8 + b.length) = true → b.length ≤ 8184 →
    let held := if s.itg.rxPackId = id.toNat then s.itg.rxBytes else []
    (o.toNat ≠ held.length → ∃ t, exec (.packSeg (h, id) o b) s = .next t ∧
      t = { s with tx := s.tx ++ [.packAck h.seq id.toNat held.length 0] }) ∧
    (o.toNat = held.length → (∀ n, packLen (held ++ b) = some n → n ≤ 4194304 ∧ (held ++ b).length < n) →
      ∃ t, exec (.packSeg (h, id) o b) s = .next t ∧ t.itg.rxPackId = id.toNat ∧ t.itg.rxBytes = held ++ b ∧
        t.itg.packs = s.itg.packs ∧ t.tx = s.tx ++ [.packAck h.seq id.toNat (held ++ b).length 0] ∧ t.flt = s.flt) ∧
    (∀ n, o.toNat = held.length → packLen (held ++ b) = some n → 4194304 < n →
      ∃ t, exec (.packSeg (h, id) o b) s = .next t ∧ t.itg.rxBytes = [] ∧ t.itg.packs = s.itg.packs ∧ Logged 0x0805 s t ∧
        t.tx = s.tx ++ [.packAck h.seq id.toNat (held ++ b).length 4]) ∧
    (∀ n, o.toNat = held.length → packLen (held ++ b) = some n → n ≤ 4194304 → n ≤ (held ++ b).length →
      ∃ t x, exec (.packSeg (h, id) o b) s = .next t ∧ t.tx = s.tx ++ [.packAck h.seq id.toNat n x] ∧ t.itg.rxBytes = [] ∧
        (x ≠ 1 → Logged 0x0805 s t ∧ t.itg.packs = s.itg.packs ∧ t.emmc = s.emmc) ∧
        (x = 1 → ∃ q, packSigned s.keyring ((held ++ b).take n) = true ∧ parsePack ((held ++ b).take n) = some q ∧ q.packId = id.toNat ∧
          { q with active := false } ∈ t.itg.newPacks ∧
          (s.itg.deltas = [] → s.jrn.buf = [] → { q with active := false } ∈ t.emmc.packs)))) ∧
  (∀ (h : GoushHdr) (o : W48) (b : List Byte) (s : State), s.goush h 0x32 (8 + b.length) = false → exec (.imgSeg (h, o) b) s = .next s) ∧
  (∀ (h : GoushHdr) (o : W48) (b : List Byte) (w : ImgWrite) (s : State), s.goush h 0x32 (8 + b.length) = true → b.length ≤ 8184 →
    (s.img.find? fun w => w.port == 1 && w.stream == 0xFFFF && decide (w.bytes.length < w.length)) = some w →
    (o.toNat ≠ w.bytes.length → ∃ t, exec (.imgSeg (h, o) b) s = .next t ∧ t = { s with tx := s.tx ++ [.imgAck h.seq w.bytes.length 0] }) ∧
    (o.toNat = w.bytes.length → ∃ t, exec (.imgSeg (h, o) b) s = .next t ∧
      t.img = s.img.map (fun x => if x.slot == w.slot then { x with bytes := w.bytes ++ b.take w.room, seq := h.seq } else x) ∧
      t.tx = s.tx ++ [.imgAck h.seq (w.bytes ++ b.take w.room).length 0] ∧ t.emmc = s.emmc ∧ t.flt = s.flt)) ∧
  (∀ (h : GoushHdr) (o : W48) (b : List Byte) (s : State), s.goush h 0x32 (8 + b.length) = true → b.length ≤ 8184 →
    (s.img.find? fun w => w.port == 1 && w.stream == 0xFFFF) = none →
    ∃ t, exec (.imgSeg (h, o) b) s = .next t ∧ t = { s with tx := s.tx ++ [.imgAck h.seq 0 3] }) ∧
  (∀ s : State, s.emmcIdle = false ∨ (s.img.find? fun w => w.length ≤ w.bytes.length) = none → exec .imageWriteComplete s = .next s) ∧
  (∀ (w : ImgWrite) (s : State), s.live = true → 5 ≤ s.boot.stage → s.emmcIdle = true → (s.img.find? fun w => w.length ≤ w.bytes.length) = some w →
    ∃ t, exec .imageWriteComplete s = .next t ∧ t.img = s.img.filter (fun x => x.slot != w.slot) ∧
      let i := parseImage w.bytes
      let ok := i.valid s.keyring && i.digestsOk (fun _ => true)
      (t.tx = s.tx ++ (if w.port = 1 ∧ w.stream = 0xFFFF then [.imgAck w.seq w.bytes.length (if ok then 1 else 2)] else [])) ∧
      if ok then
        t.emmc.slot w.slot = some i ∧ ∃ d, t.emmc.dir = some d ∧ d.select = w.slot ∧ (d.slot w.slot).state = 1
      else t.emmc = s.emmc))

/-! ### Directives -/

/-- A directive that arrives at a port: a repeat gets the first answer and changes nothing else, one in form is accepted and waits for
the vote of the next frame, and one that the state refuses is answered, logged and not queued. One for another rank enters the output queue of
its route as RELAY frames; a datagram out of form is discarded. -/
def Obligations.DirectivesAreAnsweredAndQueued : Prop :=
  ∀ e ∈ [(Instr.stop, DirOp.stop), (Instr.restart, DirOp.restart), (Instr.hold, DirOp.hold), (Instr.checkpoint, DirOp.checkpoint),
      (Instr.resume, DirOp.resume), (Instr.lrEdit, DirOp.lrEdit), (Instr.patrol, DirOp.patrol),
      (Instr.redundancy, DirOp.redundancy), (Instr.variant, DirOp.variant), (Instr.imageWrite, DirOp.imageWrite)],
    ∀ (i : DirIn) (s : State), s.takesDirs i.port.val = true → dOpc i.words = (dirForm e.2).opc →
      let form := s.inForm i.port.val i.eth i.src s.dirPort = true
      (¬form → i.port.val = 1 ∨ s.frameOk i.eth = false → exec (e.1 i) s = .next s) ∧
      (¬form → i.port.val = 0 → s.frameOk i.eth = true → ∃ t, exec (e.1 i) s = .next t ∧ t.host.discard = satInc s.host.discard ∧
        t = { s with host := t.host }) ∧
      (form → i.port.val = 0 → i.rank ≠ s.dom.rank → ∃ t, exec (e.1 i) s = .next t ∧ t.dir = s.dir ∧ t.jrn = s.jrn ∧ t.tx = s.tx ∧
        t.host.rxdg = satInc s.host.rxdg ∧ t.frm = s.frm ∧ t.plans = s.plans ∧ SameCompute s t ∧
        Relayed i.rank (fromSender i.src i.udp (dgBytes 0x10 0 i.rank 0 0 (wordsBytes (hdrWords i.words)))) s t) ∧
      (form → (i.port.val = 0 → i.rank = s.dom.rank ∧ s.host.link = 2) →
      let d : Directive := { op := e.2, rank := s.dom.rank, port := i.port.val, src := i.src, udp := i.udp,
                             body := dirBody i.port.val i.words, arrival := s.frm.frame, time := s.ptpNow }
      (∀ x, s.repeatOf d = some x → ∃ t, exec (e.1 i) s = .next t ∧
        t.tx = s.tx ++ [.dirack i.port.val (dSeq d.body) x.result x.reason x.arrival] ∧ t.dir = s.dir ∧ t.jrn = s.jrn ∧
        t.flt = s.flt ∧ SameCompute s t ∧ SameDomain s t) ∧
      (s.repeatOf d = none → s.dirAnswer e.2 d = (0, 0) → ∃ t, exec (e.1 i) s = .next t ∧ t.dir.queue = s.dir.queue ++ [d] ∧
        t.tx = s.tx ++ [.dirack i.port.val (dSeq d.body) 0 0 s.frm.frame] ∧ t.jrn = s.jrn ∧ t.flt = s.flt ∧ t.boot = s.boot ∧
        t.itg = s.itg ∧ t.img = s.img ∧ SameCompute s t ∧ SameDomain s t) ∧
      (s.repeatOf d = none → s.jrn.buf.length < jrnBufMax → s.frm.state = .stopped → e.2 ≠ .restart → e.2 ≠ .imageWrite →
        ∃ t, exec (e.1 i) s = .next t ∧ t.dir.queue = s.dir.queue ∧
          t.tx = s.tx ++ [.dirack i.port.val (dSeq d.body) 2 4 s.frm.frame] ∧ Logged 0x0703 s t ∧ SameCompute s t ∧ SameDomain s t))

/-- What each of the ten directives does at its effect tick, once accepted (Table 13.6), and that a tick applies those agreed for it:
each after what else falls on the boundary, refused ones and those that contradict an earlier one only journaled, a RESTART in the frame's
place (13 R371, R373 to R377). -/
def Obligations.DirectiveEffects : Prop :=
  (∀ (d : Directive) (s : State),
    (d.op = .patrol → s.applyDir d = { s with itg := { s.itg with rate := dArg d.body 0 } }) ∧
    (d.op = .resume → (s.applyDir d).frm.holdLatch = false ∧ (s.applyDir d).frm.overrunHold = false ∧
      (∀ c ∈ (s.applyDir d).frm.pend, c ∈ s.frm.pend ∧ c ≠ 1 ∧ c ≠ 2 ∧ c ≠ 4) ∧ (s.applyDir d).frm.state = s.frm.state ∧
      SameCompute s (s.applyDir d)) ∧
    (d.op = .hold → dArg d.body 0 = 0 → (s.applyDir d).frm.holdLatch = true ∧ 2 ∈ (s.applyDir d).frm.pend ∧
      (s.applyDir d).plans = s.plans ∧ SameCompute s (s.applyDir d)) ∧
    (∀ p, d.op = .hold → dArg d.body 0 ≠ 0 → s.namedPlans d.op d.body = [p] →
      (s.applyDir d).frm.holdLatch = true ∧ (s.applyDir d).frm.pend = s.frm.pend ∧ ((s.applyDir d).plan p).holdAtStep = true ∧
      ((s.applyDir d).plan p).ckpt.wanted = true ∧ ((s.applyDir d).plan p).ckpt.streams = (s.plan p).ckpt.streams ++ [dArg d.body 1] ∧
      (∀ q, q ≠ p → (s.applyDir d).plan q = s.plan q) ∧ SameCompute s (s.applyDir d)) ∧
    (∀ p, p < 4 → d.op = .stop → (s.plan p).pstate = .running ∨ (s.plan p).pstate = .held ∨ (s.plan p).pstate = .withdrawn ∨
      (s.plan p).pstate = .restoring → ((s.applyDir d).plan p).pstate = .stopped ∧ ((s.applyDir d).plan p).ckpt.run = none) ∧
    (d.op = .stop → (s.applyDir d).frm.state = .stopped ∧ (s.applyDir d).frm.cause = 0 ∧ (s.applyDir d).frm.holdLatch = false ∧
      (s.applyDir d).store = s.store) ∧
    (d.op = .restart → (s.applyDir d).boot.restart = true ∧
      (s.applyDir d).boot.named = (if dArg d.body 0 = 0 then none else some (dArg d.body 0 - 1)) ∧ SameCompute s (s.applyDir d)) ∧
    (∀ p, d.op = .checkpoint → s.namedPlans d.op d.body = [p] →
      ((s.applyDir d).plan p).ckpt.wanted = true ∧
      ((s.applyDir d).plan p).ckpt.streams = (s.plan p).ckpt.streams ++ [dArg d.body 0] ∧
      (∀ q, q ≠ p → (s.applyDir d).plan q = s.plan q)) ∧
    (∀ p, d.op = .redundancy → s.namedPlans d.op d.body = [p] →
      ((s.applyDir d).plan p).redundNext = some (dArg d.body 0 == 1) ∧ (∀ q, q ≠ p → (s.applyDir d).plan q = s.plan q)) ∧
    (∀ p, d.op = .lrEdit → s.namedPlans d.op d.body = [p] → dNamed d.body = [p] →
      ((s.applyDir d).plan p).lrtab = (s.plan p).lrtab.set (dArg d.body 0)
        (BitVec.ofNat 48 (dArg d.body 1), BitVec.ofNat 32 (dArg d.body 2)) ∧ (∀ q, q ≠ p → (s.applyDir d).plan q = s.plan q)) ∧
    (∀ p, d.op = .variant → s.namedPlans d.op d.body = [p] → let pin := if dArg d.body 0 = 0xF then none else some (dArg d.body 0)
      let s1 := s.modPlan p fun x => { x with pin := pin }
      let v := s1.choose p pin (s.plan p).redundant
      ((s.plan p).pstate ≠ .withdrawn ∨ 4 ≤ v → ((s.applyDir d).plan p) = { s.plan p with pin := pin } ∧
        (∀ q, q ≠ p → (s.applyDir d).plan q = s.plan q) ∧ SameCompute s (s.applyDir d)) ∧
      ((s.plan p).pstate = .withdrawn → v < 4 →
        s.applyDir d = (s1.modPlan p fun x => { x with variant := v }).beginRestore p none true)) ∧
    (d.op = .imageWrite → let k := dArg d.body 0 % 2
      let n := dArg d.body 0 / 2 ^ 16 % 2 ^ 16
      (s.applyDir d).img = s.img ++ [{ slot := k, stream := n, length := dArg d.body 1, port := d.port, bytes := [] }] ∧
      (s.applyDir d).emmc.slot k = none ∧ (s.applyDir d).emmc.dir.map (fun c => (c.slot k).state) = some 2 ∧
      (¬ (d.port = 1 ∧ n = 0xFFFF) → ((s.applyDir d).inStream n).epoch = (s.inStream n).epoch + 1 ∧
        ((s.applyDir d).inStream n).cum = 0) ∧ (s.emmc.dir.isSome = true → (s.applyDir d).plans = s.plans ∧ (s.applyDir d).flt = s.flt) ∧
      SameCompute s (s.applyDir d))) ∧
  ((∀ (o : TickIn) (p : Fin 6) (s : State), s.runs = true → o.port = some p → (s.port p.val).up = true → (s.port p.val).stale = 0 →
    s.dom.tick0 = true → o.frame = s.frm.frame + 1 → s.frm.early = false → s.frm.phase = .guard →
    ∃ v, exec (.tick o) s = .next v.openFrame ∧ v.frm.agreedDirs = s.frm.agreedDirs ∧ v.frm.frame = s.frm.frame ∧ v.plans = s.plans ∧
      v.boot = s.boot ∧ v.dir = s.dir ∧ v.jrn = s.jrn ∧ SameCompute s v) ∧
  (∀ v : State, let u := v.beforeDirs
    u.frm.agreedDirs = v.frm.agreedDirs ∧ u.frm.frame = v.frm.frame + 1 ∧ u.boot.restart = v.boot.restart ∧
    u.applyDirs.frm.agreedDirs = [] ∧
    (u.applyDirs.boot.restart = true → v.openFrame = u.applyDirs.restart) ∧
    (u.applyDirs.boot.restart = false → v.openFrame = u.applyDirs.settleSteps.lateCommits.openFrames)) ∧
  (∀ (d : Directive) (s : State), s.frm.agreedDirs = [d] → let e := s.reached.dirCheck d
    let none_ := fun f : Machine.Frm => { f with agreedDirs := [] }
    (e ≠ 0 → s.applyDirs = (s.journalVerdict ⟨d, 2, e, none⟩).modFrm none_ ∧ SameCompute s s.applyDirs ∧ s.applyDirs.plans = s.plans ∧
      (d.rank = s.dom.rank → Logged 0x0703 s s.applyDirs)) ∧
    (e = 0 → (d.op = .lrEdit → s.reached.editOk [] d = true) →
      s.applyDirs = ((s.journalVerdict ⟨d, 0, 0, none⟩).applyDir d).modFrm none_) ∧
    (d.op = .restart → s.wellFormedDir .restart d.body = true → s.applyDirs.boot.restart = true)) ∧
  (∀ (a b : Directive) (s : State), s.frm.agreedDirs = [a, b] ∨ s.frm.agreedDirs = [b, a] → s.reached.dirCheck a = 0 →
    s.reached.dirCheck b = 0 → (a.op = .lrEdit → s.reached.editOk [] a = true) → contradict a b = true → a.order < b.order →
    s.applyDirs = (((s.journalVerdict ⟨a, 0, 0, none⟩).journalVerdict ⟨b, 1, if sameBody a b then 1 else 0, some a⟩).applyDir a).modFrm
      fun f => { f with agreedDirs := [] }))

/-! ### The frame -/

/-- The lull's phases run in order: close at the end of the work window, then audit, vote, patrol, record and guard, all in the same
frame. A rank whose result differs from the leader's in the vote is split off. -/
def Obligations.LullPhasesRunInOrder : Prop :=
  ∀ s : State, s.runs = true →
    (s.windowEnds = true → ∃ t, exec .endOfWorkWindow s = .next t ∧ t.frm.phase = .close ∧ t.frm.frame = s.frm.frame) ∧
    (s.frm.phase = .close → ∃ t, exec .auditPhase s = .next t ∧ t.frm.phase = .audit ∧ t.frm.frame = s.frm.frame ∧
      (s.frm.capture = none → t = { s with frm := { s.frm with phase := .audit } }) ∧
      (∀ x e, s.frm.capture = some x → firstFail (s.ledgerFails x) = some e → 6 ∈ t.frm.causesOut)) ∧
    (∀ votes, s.frm.phase = .audit → ∃ t, exec (.votePhase votes) s = .next t ∧ t.frm.phase = .vote ∧ t.frm.frame = s.frm.frame) ∧
    (∀ p v d, s.frm.phase = .audit → s.sends = true → s.frm.leader ≠ s.dom.rank → (s.port p.val).up = true → (s.port p.val).stale = 0 →
      v.rank = s.frm.leader → v.frame = s.frm.frame → s.frm.digest = some d → v.digest ≠ d → (∀ c, (s.plan c).ckpt.run = none) →
      ∃ t, exec (.votePhase [(p, v)]) s = .next t ∧ Logged 0x040B s t ∧ t.flt.fatal = true ∧ t.sends = false) ∧
    (∀ outs, s.frm.phase = .vote → ∃ t, exec (.patrolPhase outs) s = .next t ∧ t.frm.phase = .patrol ∧ t.frm.frame = s.frm.frame) ∧
    (s.frm.phase = .patrol → ∃ t, exec .recordPhase s = .next t ∧ t.frm.phase = .record ∧ t.frm.frame = s.frm.frame) ∧
    (s.frm.phase = .record → ∃ t, exec .guardPhase s = .next t ∧ t.frm.phase = .guard ∧ t.frm.frame = s.frm.frame ∧
      t.itg.newPacks = [])

/-- A tick in the guard phase opens the next frame, whether its first copy arrives, the leader issues it or no copy has come; one that
comes before the guard phase is logged and waits for it; one in flight behind a frame that failed is not taken, since it comes again
(10 R264, log 50); tick 0 starts the machine. -/
def Obligations.TicksOpenFrames : Prop :=
  (∀ (o : TickIn) (p : Fin 6) (s : State), s.runs = true → o.port = some p → (s.port p.val).up = true →
    s.dom.tick0 = true → o.frame = s.frm.frame + 1 → s.frm.early = false →
    (0 < (s.port p.val).stale → ∃ t, exec (.tick o) s = .next t ∧ t = { s with ports := t.ports } ∧
      t.port p.val = { s.port p.val with stale := (s.port p.val).stale - 1 } ∧ ∀ q, q ≠ p.val → t.port q = s.port q) ∧
    ((s.port p.val).stale = 0 → s.frm.phase = .guard → s.frm.agreedDirs = [] → s.boot.restart = false → ∃ t, exec (.tick o) s = .next t ∧
      t.frm.frame = s.frm.frame + 1 ∧ t.frm.phase = .work) ∧
    ((s.port p.val).stale = 0 → s.frm.phase ≠ .guard → ∃ t, exec (.tick o) s = .next t ∧ t.frm.frame = s.frm.frame ∧ t.frm.phase = s.frm.phase ∧
      t.frm.early = true ∧ Logged 0x0409 s t)) ∧
  (∀ (o : TickIn) (s : State), s.runs = true → o.port = none → s.frm.leader = s.dom.rank → s.dom.tick0 = true →
    o.frame = s.frm.frame + 1 → s.frm.early = false → s.frm.phase = .guard → s.frm.agreedDirs = [] → s.boot.restart = false →
    ∃ t, exec (.tick o) s = .next t ∧ t.frm.frame = s.frm.frame + 1 ∧ t.frm.phase = .work) ∧
  (∀ s : State, s.runs = true → s.dom.tick0 = true → s.frm.leader ≠ s.dom.rank → s.frm.phase = .guard → s.frm.agreedDirs = [] →
    s.boot.restart = false → ∃ t, exec .tickLost s = .next t ∧ t.frm.frame = s.frm.frame + 1 ∧ t.frm.phase = .work) ∧
  (∀ s : State, s.runs = true → s.dom.tick0 = false → s.boot.stage = 10 →
    (s.dom.out = true ∨ provisional s.readyRoster.1 = s.dom.rank) → ∃ t, exec .firstTick s = .next t ∧ t.frm.frame = 0 ∧
      t.frm.phase = .work)

/-- SLOT_START: on every core of the slot vector registers are +0, k1 to k7 and the address registers are 0, the chain length is 1 and
no handle is bound; pocket contents persist. -/
def Obligations.SlotStartSetsCoreState : Prop :=
  ∀ (i : Nat) (r : SlotRun) (s : State), s.slot? i = some r → s.startable i r = true → r.entry.kind = .cores →
    ∃ t, exec (.slotStart i) s = .next t ∧
      (∀ k ∈ r.entry.cores, (∀ v, (t.core k).vreg v = List.replicate 16 0#32) ∧ (∀ j, 1 ≤ j → j ≤ 7 → (t.core k).kreg j = 0#16) ∧
        (∀ j, (t.core k).areg j = 0#32) ∧ (t.core k).chain = 1 ∧ (∀ h, (t.core k).handle h = none) ∧
        (t.core k).pocket = (s.core k).pocket ∧ (t.core k).active = true ∧ (t.core k).ended = false ∧
        (t.core k).prog = r.entry.addr ∧ (t.core k).pc = 0)

/-- A slot starts once every earlier slot on its units has completed, completes once its units have ended, a port's or an engine's once it
has done what its program has left to do, and is reported once when its deadline passes before that. -/
def Obligations.SlotLifecycle : Prop :=
  ∀ (i : Nat) (r : SlotRun) (s : State), s.slot? i = some r →
    (s.startable i r = true → ∃ t y, exec (.slotStart i) s = .next t ∧ t.slot? i = some y ∧ y = { r with started := true } ∧
      (∀ j, j ≠ i → t.slot? j = s.slot? j) ∧ t.store = s.store ∧ t.sites = s.sites ∧ t.tiles = s.tiles) ∧
    (s.startable i r = false → exec (.slotStart i) s = .next s) ∧
    (s.runs = true → s.frm.phase = .work → r.started = true → r.done = false → (s.plan r.entry.plan).executes = true →
      s.slotEnded r = true → (s.workSlot i r).2 = false → r.entry.kind = .port ∨ r.entry.kind = .engine →
      exec (.slotComplete i) s = .next (s.workSlot i r).1) ∧
    (s.runs = true → s.frm.phase = .work → r.started = true → r.done = false → (s.plan r.entry.plan).executes = true →
      s.slotEnded r = true → (s.workSlot i r).2 = true → r.entry.kind = .port ∨ r.entry.kind = .engine →
      ∃ t, exec (.slotComplete i) s = .next t ∧ t.slot? i = ((s.workSlot i r).1.slot? i).map (fun y => { y with done := true }) ∧
        (∀ j, j ≠ i → t.slot? j = (s.workSlot i r).1.slot? j) ∧ t.store = (s.workSlot i r).1.store ∧
        t.sites = (s.workSlot i r).1.sites ∧ t.tiles = (s.workSlot i r).1.tiles) ∧
    (s.runs = true → s.frm.phase = .work → r.started = true → r.done = false → (s.plan r.entry.plan).executes = true →
      s.slotEnded r = true → r.entry.kind = .cores ∨ r.entry.kind = .mover → ∃ t y, exec (.slotComplete i) s = .next t ∧ t.slot? i = some y ∧ y = { r with done := true } ∧
        (∀ j, j ≠ i → t.slot? j = s.slot? j) ∧ t.store = s.store ∧ t.sites = s.sites ∧ t.tiles = s.tiles ∧ t.flt = s.flt) ∧
    (s.runs = true → s.measures = true → (s.plan r.entry.plan).executes = true → r.done = false → r.late = false →
      ∃ t, exec (.lateSlot i) s = .next t ∧ (t.plan r.entry.plan).lates = satInc (s.plan r.entry.plan).lates ∧ t.cores = s.cores ∧
        t.store = s.store ∧ t.sites = s.sites ∧
        (s.frm.leader ≠ s.dom.rank → t.slot? i = some { r with late := true } ∧ (∀ j, j ≠ i → t.slot? j = s.slot? j) ∧
          (s.sends = true → Told (.late s.dom.rank r.entry.plan s.frm.frame r.deadline s.frm.grants.length) none s t)) ∧
        (s.frm.leader = s.dom.rank → (s.plan r.entry.plan).overruns = true → t.frm.state = .grace ∨ t.frm.state = .finish))

/-- Late reports end in a grant while the plan has one left and in FINISH otherwise; a grant moves the deadlines at or after its own
and takes one from the plan's count; FINISH ends by the leader's announcement, or with the plan of a hung slot terminated (01 R38 to R42). -/
def Obligations.LateSlotsGraceAndFinish : Prop :=
  ((∀ (o : LateIn) (q : Plan) (s : State), s.frm.leader = s.dom.rank → s.frm.frame = o.frame →
    (s.plan o.plan.val).overruns = true → s.measures = true → s.frm.superseded o.d o.grantsSeen = false →
    s.img? o.plan.val = some q → Hears o.port.val (.late o.rank o.plan.val o.frame o.d o.grantsSeen) s →
    (0 < (s.plan o.plan.val).grace → ∃ t, exec (.lateReport o) s = .next t ∧ t.frm.state = .grace ∧
      (t.plan o.plan.val).grace = (s.plan o.plan.val).grace - 1 ∧ t.frm.grants = (o.d, q.graceLen) :: s.frm.grants ∧
      Told (.grant o.plan.val s.frm.frame o.d q.graceLen) none s t ∧ SameCompute s t) ∧
    ((s.plan o.plan.val).grace = 0 → ∃ t, exec (.lateReport o) s = .next t ∧ t.frm.state = .finish ∧
      t.frm.finishPlan = some o.plan.val ∧ Told (.finish o.plan.val s.frm.frame) none s t ∧ SameCompute s t)) ∧
  (∀ (o : LateIn) (s : State), s.frm.leader ≠ s.dom.rank → Hears o.port.val (.late o.rank o.plan.val o.frame o.d o.grantsSeen) s →
    ∃ t, exec (.lateReport o) s = .next t ∧ t.frm = s.frm ∧ t.plans = s.plans ∧ SameCompute s t ∧
      Told (.late o.rank o.plan.val o.frame o.d o.grantsSeen) (some o.port.val) s t) ∧
  (∀ (i : Fin 6) (p : Fin 4) (f : W48) (d g : Nat) (s : State), s.frm.frame = f → s.measures = true →
    s.frm.leader ≠ s.dom.rank → Hears i.val (.grant p.val f d g) s → ∃ t, exec (.graceGrant (i, p) f d g) s = .next t ∧ t.frm.state = .grace ∧
      t.frm.slots = s.frm.slots.map (fun r => if d ≤ r.deadline then { r with deadline := r.deadline + 1900 * g, late := false } else r) ∧
      t.frm.moved = s.frm.moved + g ∧ (t.plan p.val).grace = (s.plan p.val).grace - 1 ∧
      (t.plan p.val).graces = satInc (s.plan p.val).graces ∧ Logged 0x0130 s t ∧ SameCompute s t ∧
      Told (.grant p.val f d g) (some i.val) s t) ∧
  (∀ (i : Fin 6) (p : Fin 4) (f : W48) (s : State), s.frm.frame = f → s.measures = true →
    s.frm.leader ≠ s.dom.rank → Hears i.val (.finish p.val f) s → ∃ t, exec (.finish (i, p) f) s = .next t ∧ t.frm.state = .finish ∧
      t.frm.finishPlan = some p.val ∧ t.frm.overrunHold = true ∧ (t.plan p.val).finishes = satInc (s.plan p.val).finishes ∧
      Logged 0x0131 s t ∧ SameCompute s t ∧ Told (.finish p.val f) (some i.val) s t) ∧
  (∀ (i : Fin 6) (done : W64) (s : State), s.frm.state = .finish →
    (s.frm.leader ≠ s.dom.rank → Hears i.val (.lull s.frm.frame) s → ∃ t, exec (.finishLullAnnounce (i, done)) s = .next t ∧
      t.frm.lullAnnounced = true ∧ SameCompute s t ∧ Told (.lull s.frm.frame) (some i.val) s t) ∧
    (s.runs = true → s.sends = true → s.frm.leader = s.dom.rank → s.frm.lullAnnounced = false → s.allDone = true →
      (s.dom.present &&& ~~~((s.frm.completed ||| done) ||| BitVec.ofNat 64 (2 ^ s.dom.rank))) = 0 →
      ∃ t, exec (.finishLullAnnounce (i, done)) s = .next t ∧ t.frm.lullAnnounced = true ∧ Told (.lull s.frm.frame) none s t ∧
        SameCompute s t))) ∧
  (∀ (i : Nat) (r : SlotRun) (s : State), s.slot? i = some r → s.runs = true → s.frm.phase = .work →
    s.frm.state = .finish → r.done = false → ∃ t, exec (.hungSlot i) s = .next t ∧ Logged 0x0132 s t ∧
      (t.plan r.entry.plan).stopped = true ∧ (t.plan r.entry.plan).terminating = some ((s.plan r.entry.plan).terminating.getD 0x0132) ∧
      { plan := r.entry.plan, code := 0x0132 } ∈ t.frm.faultsOut ∧ (∀ q, q ≠ r.entry.plan → t.plan q = s.plan q) ∧
      t.store = s.store ∧ t.sites = s.sites ∧ t.tiles = s.tiles)

/-- Late commits, checkpoints and restores: each is reported once, at the rank that sees it, and owes the domain an answer at the next
tick. -/
def Obligations.LateTrainingActs : Prop :=
  (∀ (p : Fin 4) (s : State), s.runs = true → s.frm.phase = .guard → s.frm.commitLate.contains p.val = false →
    let late := s.boundary.boot.restart = false ∧ s.boundary.settleSteps.commitDue p.val = true
    (late → ∃ t, exec (.commitLate p) s = .next t ∧ p.val ∈ t.frm.commitLate ∧ Logged 0x0509 s t ∧ SameCompute s t ∧ t.plans = s.plans) ∧
    (¬late → exec (.commitLate p) s = .next s)) ∧
  (∀ (p : Fin 4) (s : State), s.frm.state ≠ .stopped → s.commitDue p.val = true → 1 ∈ s.lateCommits.frm.pend) ∧
  (∀ (p : Fin 4) (q : Plan) (c : Rec) (k : Nat) (f : W48) (s : State), s.runs = true →
    s.frm.leader = s.dom.rank → s.voted = true → s.img? p.val = some q → q.ckpt = some c →
    (s.plan p.val).ckpt.late = false →
    ((s.plan p.val).ckpt.run = some (k, f) → (s.plan p.val).inPlans = true →
      ((s.plan p.val).ckpt.gens.getD k Gen.reset).complete = false → s.frm.frame.toNat + 1 = f.toNat + ckFrames c →
      ∃ t, exec (.ckptLate p) s = .next t ∧ (t.plan p.val).ckpt.late = true ∧ t.frm.lateNext = s.frm.lateNext ++ [(p.val, true)] ∧
        Logged 0x0908 s t ∧ SameCompute s t) ∧
    ((s.plan p.val).ckpt.restore = some (ckRframes c) → (s.plan p.val).pstate = .restoring →
      ∃ t, exec (.restoreLate p) s = .next t ∧ (t.plan p.val).ckpt.late = true ∧ t.frm.lateNext = s.frm.lateNext ++ [(p.val, true)] ∧
        Logged 0x0909 s t ∧ SameCompute s t))

/-! ### Core instructions -/

/-- A word of a reserved opcode, or one that its rule calls illegal, stops the plan with 0x0202 whichever command issues it; a word
whose predicate excludes the core retires in one cycle with no other effect (03 R92). -/
def Obligations.IllegalWordsStopThePlan : Prop :=
  ∀ (id : CoreId) (w : W128) (s : State), s.nextWord (coreKey id) = some w →
    ∀ e ∈ [(Instr.mstep id, 0x01), (.pld id, 0x02), (.pst id, 0x03), (.vld id, 0x04), (.vst id, 0x05), (.vop id, 0x06), (.twait id, 0x07),
      (.tsig id, 0x08), (.spill id, 0x09), (.accAlloc id, 0x0A), (.accFree id, 0x0A), (.accZero id, 0x0A), (.loop id, 0x0B),
      (.addr id, 0x0C), (.chain id, 0x0D), (.endProg id, 0x0F)],
    (opc w = 0 ∨ opc w = 0x0E ∨ 0x0F < opc w → ∃ t, exec e.1 s = .next t ∧ CoreFaulted (coreKey id) 0x0202 s t) ∧
    (opc w = e.2 → (e.2 = 0x0A → e.1 = [Instr.accAlloc id, .accFree id, .accZero id].getD (bfld w 116 2) (.accAlloc id)) →
      (illegal w (s.core (coreKey id)).chain = true → ∃ t, exec e.1 s = .next t ∧ CoreFaulted (coreKey id) 0x0202 s t) ∧
      (illegal w (s.core (coreKey id)).chain = false → (s.core (coreKey id)).excluded (coreKey id) w = true →
        ∃ t, exec e.1 s = .next t ∧ OnlyCore (coreKey id) s t ∧ t.core (coreKey id) = (s.core (coreKey id)).retire 1))

/-- ADDR writes the register it names and no other: an immediate, a register plus an immediate, a sum of the core's place in its slot, or a
carry-counter of its tile; a0 stays 0. A LOOP is entered with its count, skipped at count 0, and faults where it ends beyond an enclosing
one or is the fifth; CHAIN sets the chain length; END ends the program and unbinds every handle (03 R78, R83, R94, R104). -/
def Obligations.SequencerWords : Prop :=
  (∀ (id : CoreId) (w : W128) (s : State), Issues s (coreKey id) w → opc w = 0x0C →
    let k := coreKey id
    let c := s.core k
    let imm := bfld w 79 32
    ∃ t a, exec (.addr id) s = .next t ∧ OnlyCore k s t ∧ t.core k = ({ c with ar := a } : Core).retire 1 ∧ (t.core k).areg 0 = 0 ∧
      (∀ i, i ≠ bfld w 111 4 → (t.core k).areg i = c.areg i) ∧
      (bfld w 111 4 ≠ 0 →
        (bfld w 115 3 = 0 → ((t.core k).areg (bfld w 111 4)).toNat = imm) ∧
        (bfld w 115 3 = 1 → ((t.core k).areg (bfld w 111 4)).toNat = ((c.areg (bfld w 111 4)).toNat + imm) % 2 ^ 32) ∧
        (bfld w 115 3 = 2 → ((t.core k).areg (bfld w 111 4)).toNat =
          ((globalRow k - c.top) / c.chain * (imm / 65536) + (globalCol k - c.left) * (imm % 65536)) % 2 ^ 32) ∧
        (bfld w 115 3 = 3 → ((t.core k).areg (bfld w 111 4)).toNat = (globalRow k - c.top) % c.chain * (imm % 65536) % 2 ^ 32) ∧
        (bfld w 115 3 = 4 → (t.core k).areg (bfld w 111 4) = Sparse.get 0#32 (s.tile (keyTile k)).cw (imm % 256)))) ∧
  (∀ (id : CoreId) (w : W128) (s : State), Issues s (coreKey id) w →
    let k := coreKey id
    let c := s.core k
    (opc w = 0x0B →
      let last := c.pc + bfld w 94 8
      let n := if bfld w 90 4 = 0 then bfld w 102 16 else min (bfld w 102 16) (c.areg (bfld w 90 4)).toNat
      ((∃ l ∈ c.loops, l.last < last) → ∃ t, exec (.loop id) s = .next t ∧ CoreFaulted k 0x0202 s t) ∧
      ((∀ l ∈ c.loops, last ≤ l.last) → 4 ≤ c.loops.length → ∃ t, exec (.loop id) s = .next t ∧ CoreFaulted k 0x0208 s t) ∧
      ((∀ l ∈ c.loops, last ≤ l.last) → c.loops.length < 4 → ∃ t, exec (.loop id) s = .next t ∧ OnlyCore k s t ∧
        (0 < n → t.core k = { c with pc := c.pc + 1, loops := { first := c.pc + 1, last := last, left := n } :: c.loops, lat := 1 }) ∧
        (n = 0 → t.core k = ({ c with pc := last } : Core).retire 1))) ∧
    (opc w = 0x0D → ∃ t, exec (.chain id) s = .next t ∧ OnlyCore k s t ∧ t.core k = ({ c with chain := bfld w 115 3 + 1 } : Core).retire 1) ∧
    (opc w = 0x0F → ∃ t, exec (.endProg id) s = .next t ∧ OnlyCore k s t ∧ (t.core k).ended = true ∧
      (∀ h, (t.core k).handle h = none) ∧ t.core k = { c with ended := true, acc := (t.core k).acc, loops := [], lat := 1 }))

/-- TWAIT passes a count reached and holds the core at one not reached, TWAIT_RELEASE resumes it; TSIG adds at once or, fenced, at
FENCED_TSIG; a region outside the plan's and a counter past its top fault (03 R102, R106). -/
def Obligations.TokensHoldAndRelease : Prop :=
  ∀ (id : CoreId) (s : State),
    let k := coreKey id
    let c := s.core k
    let tok := fun (x : State) (t n : Nat) => (Sparse.get 0#24 (x.tile t).tok n).toNat
    (∀ w, Issues s k w → opc w = 0x07 → ∃ t, exec (.twait id) s = .next t ∧ OnlyCore k s t ∧
      (bfld w 82 24 ≤ tok s (keyTile k) (bfld w 106 12) → t.core k = c.retire 1) ∧
      (tok s (keyTile k) (bfld w 106 12) < bfld w 82 24 → t.core k = { c with held := some (bfld w 106 12, bfld w 82 24) })) ∧
    (∀ n m, c.held = some (n, m) → s.runs = true → c.active = true → ∃ t, exec (.twaitRelease id) s = .next t ∧ OnlyCore k s t ∧
      (m ≤ tok s (keyTile k) n → t.core k = ({ c with held := none } : Core).retire 1) ∧ (tok s (keyTile k) n < m → t = s)) ∧
    (∀ w q, Issues s k w → opc w = 0x08 → s.img? c.plan = some q →
      let r := bfld w 114 4
      let n := bfld w 106 8 * 16 + bfld w 102 4
      (q.hasTile r = false → ∃ t, exec (.tsig id) s = .next t ∧ CoreFaulted k 0x0120 s t) ∧
      (q.hasTile r = true → bfld w 85 1 = 1 → ∃ t, exec (.tsig id) s = .next t ∧ t.tiles = s.tiles ∧
        t.core k = ({ c with fenced := c.fenced ++ [{ pc := c.pc, tile := r, tok := n, inc := bfld w 86 16 }] } : Core).retire 1 ∧
        (∀ j, j ≠ k → t.core j = s.core j) ∧ (t.plan c.plan).issued = (s.plan c.plan).issued + bfld w 86 16 ∧ t.frm = s.frm ∧
        t.store = s.store ∧ t.sites = s.sites ∧ t.flt = s.flt) ∧
      (q.hasTile r = true → bfld w 85 1 = 0 → tok s r n + bfld w 86 16 < 2 ^ 24 → ∃ t, exec (.tsig id) s = .next t ∧
        tok t r n = tok s r n + bfld w 86 16 ∧ (∀ j m, j ≠ r ∨ m ≠ n → tok t j m = tok s j m) ∧
        t.core k = c.retire 1 ∧ (∀ j, j ≠ k → t.core j = s.core j) ∧ t.frm = s.frm ∧ t.store = s.store ∧ t.sites = s.sites ∧ t.flt = s.flt) ∧
      (q.hasTile r = true → bfld w 85 1 = 0 → 2 ^ 24 ≤ tok s r n + bfld w 86 16 → ∃ t, exec (.tsig id) s = .next t ∧
        CoreFaulted k 0x0207 s t)) ∧
    (∀ f fs, s.runs = true → c.twin = [] → c.fenced = f :: fs → ∃ t, exec (.fencedTsig id) s = .next t ∧
      (tok s f.tile f.tok + f.inc < 2 ^ 24 → tok t f.tile f.tok = tok s f.tile f.tok + f.inc ∧
        (∀ j m, j ≠ f.tile ∨ m ≠ f.tok → tok t j m = tok s j m) ∧ t.core k = { c with fenced := fs } ∧
        (∀ j, j ≠ k → t.core j = s.core j) ∧ t.frm = s.frm ∧ t.store = s.store ∧ t.sites = s.sites ∧ t.flt = s.flt) ∧
      (2 ^ 24 ≤ tok s f.tile f.tok + f.inc → Logged 0x0207 s t ∧ (t.plan c.plan).stopped = true ∧ t.store = s.store ∧
        ((s.tile (keyTile k)).fault.valid = false → (t.tile (keyTile k)).fault.pc = f.pc)))

/-- ACC: alloc binds a free handle to a zero tile of its type and leaves a bound one alone, free unbinds, zero clears and keeps the
type; the ninth tile and a handle that is not bound fault (03 R83, R85, R104). -/
def Obligations.AccumulatorHandles : Prop :=
  ∀ (id : CoreId) (w : W128) (s : State), Issues s (coreKey id) w → opc w = 0x0A →
    let k := coreKey id
    let c := s.core k
    let h := bfld w 112 4
    (bfld w 116 2 = 0 →
      (∀ x, c.handle h = some x → ∃ t, exec (.accAlloc id) s = .next t ∧ OnlyCore k s t ∧ t.core k = c.retire 1) ∧
      (c.handle h = none → c.bound < 8 → ∃ t a, exec (.accAlloc id) s = .next t ∧ OnlyCore k s t ∧
        t.core k = ({ c with acc := a } : Core).retire 1 ∧
        (t.core k).handle h = some { int32 := bfld w 111 1 == 1, data := [], poison := false } ∧
        (∀ j, j ≠ h → (t.core k).handle j = c.handle j)) ∧
      (c.handle h = none → 8 ≤ c.bound → ∃ t, exec (.accAlloc id) s = .next t ∧ CoreFaulted k 0x0204 s t)) ∧
    (bfld w 116 2 = 1 →
      (c.handle h ≠ none → ∃ t a, exec (.accFree id) s = .next t ∧ OnlyCore k s t ∧ t.core k = ({ c with acc := a } : Core).retire 1 ∧
        (t.core k).handle h = none ∧ (∀ j, j ≠ h → (t.core k).handle j = c.handle j)) ∧
      (c.handle h = none → ∃ t, exec (.accFree id) s = .next t ∧ CoreFaulted k 0x0205 s t)) ∧
    (bfld w 116 2 = 2 →
      (∀ x, c.handle h = some x → ∃ t a, exec (.accZero id) s = .next t ∧ OnlyCore k s t ∧ t.core k = ({ c with acc := a } : Core).retire 1 ∧
        (t.core k).handle h = some { int32 := x.int32, data := [], poison := false } ∧
        (∀ j, j ≠ h → (t.core k).handle j = c.handle j)) ∧
      (c.handle h = none → ∃ t, exec (.accZero id) s = .next t ∧ CoreFaulted k 0x0205 s t))

/-- VLD loads sixteen lanes from the pocket, converted from their format, or from half a row of an accumulator tile; the register takes the
mark of what it was loaded from. VST to an accumulator tile writes half a row of it and marks it with the register's poison; VST to the
pocket writes the converted lanes and, in block form, one scale code, and no other pocket byte (03 R94, R98, R99, R107). -/
def Obligations.VectorLoadsAndStores : Prop :=
  (∀ (id : CoreId) (w : W128) (s : State), Issues s (coreKey id) w → opc w = 0x04 →
    let k := coreKey id
    let c := s.core k
    let vd := bfld w 112 5
    let n := 2 * pocketBits (bfld w 108 4)
    let a := bfld w 92 16 + (c.areg (bfld w 88 4)).toNat
    let h := bfld w 108 4
    (bfld w 117 1 = 0 → (a + n ≤ 65536 ∧ a % n = 0 → ∃ t v p r, exec (.vld id) s = .next t ∧ OnlyCore k s t ∧
        t.core k = ({ c with vr := v, vpoison := p, ar := r } : Core).retire 4 ∧
        (t.core k).vreg vd = (List.range 16).map (fun i =>
          loadLane (bfld w 108 4) (pocketElem c.pocket a (pocketBits (bfld w 108 4)) i)) ∧
        (∀ u, u ≠ vd → (t.core k).vreg u = c.vreg u) ∧ Sparse.get false (t.core k).vpoison vd = anyMark c.pocketPoison a n ∧
        (∀ u, u ≠ vd → Sparse.get false (t.core k).vpoison u = Sparse.get false c.vpoison u) ∧
        (∀ i, i ≠ bfld w 88 4 → (t.core k).areg i = c.areg i) ∧
        (bfld w 88 4 ≠ 0 → (t.core k).areg (bfld w 88 4) = c.areg (bfld w 88 4) + BitVec.ofInt 32 (sext (bfld w 78 10) 10 * 16))) ∧
      (65536 < a + n ∨ a % n ≠ 0 → ∃ t, exec (.vld id) s = .next t ∧ CoreFaulted k 0x0203 s t)) ∧
    (bfld w 117 1 = 1 → (∀ x, c.handle h = some x → ∃ t v p, exec (.vld id) s = .next t ∧ OnlyCore k s t ∧
        t.core k = ({ c with vr := v, vpoison := p } : Core).retire 4 ∧
        (t.core k).vreg vd = (List.range 16).map (fun i => x.at (bfld w 103 5) (16 * bfld w 102 1 + i)) ∧
        (∀ u, u ≠ vd → (t.core k).vreg u = c.vreg u) ∧ Sparse.get false (t.core k).vpoison vd = x.poison) ∧
      (c.handle h = none → ∃ t, exec (.vld id) s = .next t ∧ CoreFaulted k 0x0205 s t))) ∧
  (∀ (id : CoreId) (w : W128) (s : State), Issues s (coreKey id) w → opc w = 0x05 →
    let k := coreKey id
    let c := s.core k
    let h := bfld w 108 4
    let vs := bfld w 112 5
    let wd := pocketBits (bfld w 108 4)
    let n := bfld w 97 8
    let a := bfld w 81 16 + (c.areg (bfld w 77 4)).toNat
    let sa := bfld w 51 16 + (c.areg (bfld w 47 4)).toNat
    let len := (n * wd + 7) / 8
    (bfld w 117 1 = 1 →
      (∀ x, c.handle h = some x → ∃ t b y, exec (.vst id) s = .next t ∧ OnlyCore k s t ∧ t.core k = ({ c with acc := b } : Core).retire 4 ∧
        (t.core k).handle h = some y ∧ y.int32 = x.int32 ∧ y.poison = (x.poison || Sparse.get false c.vpoison vs) ∧
        (∀ i, i < 16 → y.at (bfld w 103 5) (16 * bfld w 102 1 + i) = (c.vreg vs).getD i 0) ∧
        (∀ r i, i < 32 → r ≠ bfld w 103 5 ∨ i / 16 ≠ bfld w 102 1 → y.at r i = x.at r i) ∧
        (∀ j, j ≠ h → (t.core k).handle j = c.handle j)) ∧
      (c.handle h = none → ∃ t, exec (.vst id) s = .next t ∧ CoreFaulted k 0x0205 s t)) ∧
    (bfld w 117 1 = 0 → 0 < n →
      (a + len ≤ 65536 ∧ a % (2 * wd) = 0 ∧ (bfld w 105 1 = 1 → sa < 65536) → ∃ t m p r, exec (.vst id) s = .next t ∧
        t.core k = ({ c with pocket := m, pocketPoison := p, ar := r } : Core).retire 4 ∧ (∀ j, j ≠ k → t.core j = s.core j) ∧
        t = { s with cores := t.cores, plans := t.plans } ∧ (bfld w 36 1 = 0 → t.plans = s.plans) ∧
        (∀ i, i < a ∨ a + len ≤ i → bfld w 105 1 = 0 ∨ i ≠ sa → Sparse.get 0#8 m i = Sparse.get 0#8 c.pocket i) ∧
        (bfld w 105 1 = 0 → wd = 8 → ∀ i, i < n → Sparse.get 0#8 m (a + i) =
          BitVec.ofNat 8 (convert (bfld w 108 4) false ((c.vreg vs).getD i 0) (f32 ((c.vreg vs).getD i 0))).code) ∧
        (∀ i, i ≠ bfld w 77 4 → i ≠ bfld w 47 4 → (t.core k).areg i = c.areg i)) ∧
      (65536 < a + len ∨ a % (2 * wd) ≠ 0 → ∃ t, exec (.vst id) s = .next t ∧ CoreFaulted k 0x0203 s t)) ∧
    (bfld w 117 1 = 0 → n = 0 → ∃ t r, exec (.vst id) s = .next t ∧ OnlyCore k s t ∧ t.core k = ({ c with ar := r } : Core).retire 4))

/-- VOP computes lane by lane under its lane mask, a horizontal function into every selected lane; a compare writes the selected bits
of its mask register and no vector register (03 R100, R101). -/
def Obligations.VectorOperations : Prop :=
  ∀ (id : CoreId) (w : W128) (s : State), Issues s (coreKey id) w → opc w = 0x06 →
    let k := coreKey id
    let c := s.core k
    let fn := bfld w 112 6
    let vd := bfld w 107 5
    let km := c.kreg (bfld w 89 3)
    let va := c.vreg (bfld w 102 5)
    let vb := if bfld w 85 1 = 1 then List.replicate 16 (BitVec.ofNat 32 (bfld w 53 32)) else c.vreg (bfld w 97 5)
    let vc := c.vreg (bfld w 92 5)
    (0x10 ≤ fn ∧ fn ≤ 0x13 → ∃ t m, exec (.vop id) s = .next t ∧ OnlyCore k s t ∧ t.core k = ({ c with kr := m } : Core).retire 4 ∧
      (t.core k).kreg 0 = 0xFFFF#16 ∧ (∀ i, i ≠ bfld w 86 3 → (t.core k).kreg i = c.kreg i) ∧
      (bfld w 86 3 ≠ 0 → ∀ i, i < 16 → ((t.core k).kreg (bfld w 86 3)).getLsbD i =
        if km.getLsbD i then compareLane fn (va.getD i 0) (vb.getD i 0) else (c.kreg (bfld w 86 3)).getLsbD i)) ∧
    (fn < 0x10 ∨ 0x13 < fn → ∃ t v p, exec (.vop id) s = .next t ∧ OnlyCore k s t ∧
      t.core k = ({ c with vr := v, vpoison := p } : Core).retire (if fn = 0x28 ∨ fn = 0x29 ∨ fn = 0x30 then 6 else 4) ∧
      (∀ u, u ≠ vd → (t.core k).vreg u = c.vreg u) ∧
      (∀ i, i < 16 → ((t.core k).vreg vd).getD i 0 =
        if km.getLsbD i = false then (c.vreg vd).getD i 0
        else if fn = 0x28 ∨ fn = 0x29 then horizontal fn va
        else vopLane fn (va.getD i 0) (vb.getD i 0) (vc.getD i 0) ((c.kreg (bfld w 92 3)).getLsbD i) i))

/-- MSTEP waits until every core of its chain has reached it; then the bottom core's tile takes, or adds, the chain's running sum in
every output cell of the step's extents, and every core of the chain retires it. A step with an extent of 0 writes and binds nothing (03 R79,
R81 to R83). -/
def Obligations.MatrixStep : Prop :=
  ∀ (id : CoreId) (w : W128) (s : State), Issues s (coreKey id) w → opc w = 0x01 →
    let k := coreKey id
    let c := s.core k
    let keys := chainKeys s k
    let b := keys.getLastD 0
    let h := bfld w 73 4
    let add := bfld w 117 1 == 1
    let int32 := bfld w 116 1 == 1
    let klen := bfld w 77 14
    let sum := fun m n => if klen = 0 then 0#32 else chainSum w ((keys.map s.core).map (stepSrc w)) m n
    let there := fun j => j = k ∨ ((s.core j).active = true ∧ (s.core j).atStep = true ∧ (s.core j).plan = c.plan ∧
      (s.core j).prog + (s.core j).pc = c.prog + c.pc)
    let panels := pocketOk (stepSrc w c).a (panelA w) 32 = true ∧ pocketOk (stepSrc w c).b (panelB w) 32 = true
    (stepEmpty w = true →
      ((∃ j ∈ keys, ¬there j) → ∃ t, exec (.mstep id) s = .next t ∧ OnlyCore k s t ∧ t.core k = { c with atStep := true }) ∧
      ((∀ j ∈ keys, there j) → k ∈ keys → ∃ t, exec (.mstep id) s = .next t ∧ t = { s with cores := t.cores } ∧
        (∀ j, j ∉ keys → t.core j = s.core j) ∧
        (∀ j ∈ keys, (t.core j).atStep = false ∧ (t.core j).pc = ((s.core j).retire 0).pc ∧
          (t.core j).loops = ((s.core j).retire 0).loops ∧ (t.core j).pocket = (s.core j).pocket ∧ (t.core j).vr = (s.core j).vr ∧
          (t.core j).kr = (s.core j).kr ∧ (∀ g, (t.core j).handle g = (s.core j).handle g)))) ∧
    (stepEmpty w = false →
      (¬panels → ∃ t, exec (.mstep id) s = .next t ∧ CoreFaulted k 0x0203 s t) ∧
      (panels → (∃ j ∈ keys, ¬there j) → ∃ t, exec (.mstep id) s = .next t ∧ OnlyCore k s t ∧ t.core k = { c with atStep := true }) ∧
      (panels → (∀ j ∈ keys, there j) → k ∈ keys →
        (∀ x, ((s.core b).handle h = some x ∧ x.int32 = int32) ∨
            ((s.core b).handle h = none ∧ add = false ∧ (s.core b).bound < 8 ∧ x = AccTile.fresh int32) →
          ∃ t y, exec (.mstep id) s = .next t ∧ t = { s with cores := t.cores } ∧ (∀ j, j ∉ keys → t.core j = s.core j) ∧
            (t.core b).handle h = some y ∧ y.int32 = int32 ∧
            (∀ m n, n < 32 → (bfld w 97 6 ≤ m ∨ bfld w 91 6 ≤ n) → y.at m n = x.at m n) ∧
            (∀ m n, m < bfld w 97 6 → n < bfld w 91 6 → y.at m n =
              if add = false then sum m n else if klen = 0 then x.at m n else if int32 then x.at m n + sum m n
              else fadd (x.at m n) (sum m n)) ∧
            (∀ j ∈ keys, (t.core j).atStep = false ∧ (t.core j).pc = ((s.core j).retire 0).pc ∧
              (t.core j).loops = ((s.core j).retire 0).loops ∧ (t.core j).pocket = (s.core j).pocket ∧ (t.core j).vr = (s.core j).vr ∧
              (t.core j).kr = (s.core j).kr ∧ (∀ g, j ≠ b ∨ g ≠ h → (t.core j).handle g = (s.core j).handle g))) ∧
        ((s.core b).plan = c.plan → (s.core b).handle h = none → add = true → ∃ t, exec (.mstep id) s = .next t ∧ Logged 0x0205 s t ∧
          (t.plan c.plan).stopped = true ∧ t.store = s.store) ∧
        ((s.core b).plan = c.plan → (s.core b).handle h = none → add = false → 8 ≤ (s.core b).bound → ∃ t,
          exec (.mstep id) s = .next t ∧ Logged 0x0204 s t ∧ (t.plan c.plan).stopped = true ∧ t.store = s.store) ∧
        (∀ x, (s.core b).plan = c.plan → (s.core b).handle h = some x → x.int32 ≠ int32 → ∃ t, exec (.mstep id) s = .next t ∧
          Logged 0x0206 s t ∧ (t.plan c.plan).stopped = true ∧ t.store = s.store)))

/-- SPILL of an FP32 tile on a core that is no primary or twin: added to or written over the wide buffer in FP64, the spilled cells
then zero, or loaded from it; only the elements of its extents change in the tile store; a handle not bound or of INT32 type and a tile out
of place fault, and it waits for a twin's copy (03 R86, R88, R104). -/
def Obligations.SpillMovesToAndFromWideBuffers : Prop :=
  ∀ (id : CoreId) (w : W128) (s : State), Issues s (coreKey id) w → opc w = 0x09 →
    let k := coreKey id
    let c := s.core k
    let h := bfld w 112 4
    let mode := bfld w 116 2
    let mr := bfld w 106 6
    let nc := bfld w 100 6
    let off := bfld w 81 19 * 256 + (c.areg (bfld w 77 4)).toNat
    let base := tileAddr (keyTile k) off
    (c.twin ≠ [] → exec (.spill id) s = .next s) ∧
    (c.twin = [] → c.handle h = none → ∃ t, exec (.spill id) s = .next t ∧ CoreFaulted k 0x0205 s t) ∧
    (∀ x, c.twin = [] → c.handle h = some x →
      (x.int32 = true → ∃ t, exec (.spill id) s = .next t ∧ CoreFaulted k 0x0206 s t) ∧
      (x.int32 = false → off % 256 ≠ 0 ∨ 0x8000000 < off + 8192 → ∃ t, exec (.spill id) s = .next t ∧ CoreFaulted k 0x0201 s t) ∧
      (x.int32 = false → off % 256 = 0 → off + 8192 ≤ 0x8000000 →
        ∃ t, exec (.spill id) s = .next t ∧ t = { s with cores := t.cores, store := t.store, storePoison := t.storePoison } ∧
          (∀ j, j ≠ k → t.core j = s.core j) ∧ (t.core k).pc = (c.retire 1).pc ∧ (t.core k).loops = (c.retire 1).loops ∧
          (t.core k).pocket = c.pocket ∧ (t.core k).vr = c.vr ∧ (∀ g, g ≠ h → (t.core k).handle g = c.handle g) ∧
          (∀ i, i ≠ bfld w 77 4 → (t.core k).areg i = c.areg i) ∧
          (mode = 2 → t.store = s.store ∧ (0 < mr → 0 < nc → ∃ y, (t.core k).handle h = some y ∧
            (∀ m n, m < mr → n < nc → y.at m n = toF32 (f64 (s.wideAt base m n))) ∧
            (∀ m n, n < 32 → mr ≤ m ∨ nc ≤ n → y.at m n = x.at m n))) ∧
          (mode < 2 → s.twinRole k = .none →
            (∀ m n, m < mr → n < nc → t.wideAt base m n =
              if mode = 0 then toF64 ((f64 (s.wideAt base m n)).add (f32 (x.at m n))) else toF64 (f32 (x.at m n))) ∧
            (∀ i, (∀ m, m < mr → i < base + 256 * m ∨ base + 256 * m + 8 * nc ≤ i) →
              Sparse.get 0#8 t.store i = Sparse.get 0#8 s.store i) ∧
            (0 < mr → 0 < nc → ∃ y, (t.core k).handle h = some y ∧ (∀ m n, m < mr → n < nc → y.at m n = 0#32) ∧
              (∀ m n, n < 32 → mr ≤ m ∨ nc ≤ n → y.at m n = x.at m n))) ∧
          (mode < 2 → s.twinRole k ≠ .none → t.store = s.store)))

/-- PLD and PST in direct form: rows between the tile store and the pocket, each pocket row padded to 32 bytes. Rows in range and in the plan's
region move whole and nothing else is written; a primary's or twin's store is not written yet; either waits while a partial write of its
core waits on a full buffer, a PLD also for its twin's copy (03 R91, R96, 09 R244, 14 R393). -/
def Obligations.DirectTransfersMoveRows : Prop :=
  ∀ (id : CoreId) (w : W128) (q : Plan) (s : State), Issues s (coreKey id) w → bfld w 117 1 = 0 → s.img? (s.core (coreKey id)).plan = some q →
    let k := coreKey id
    let c := s.core k
    let rows := bfld w 70 9
    let len := bfld w 58 12
    let r := bfld w 110 4
    let ofs := fun i => (xferRow w c i).1
    let pa := fun i => (xferRow w c i).2
    let row := (len + 31) / 32 * 32
    let fits := pa 0 + rows * row ≤ 65536 ∧ pa 0 % 32 = 0
    let inStore := ∀ i, i < rows → ofs i + len ≤ 0x8000000
    ∀ e ∈ [(Instr.pld id, 0x02), (Instr.pst id, 0x03)], opc w = e.2 →
      (s.stalled (coreUnit k) = true ∨ (e.2 = 0x02 ∧ c.twin ≠ []) → exec e.1 s = .next s) ∧
      ((e.2 = 0x02 → c.twin = []) → s.stalled (coreUnit k) = false →
      (rows = 0 ∨ len = 0 → ∃ t a, exec e.1 s = .next t ∧ OnlyCore k s t ∧ t.core k = ({ c with ar := a } : Core).retire 0) ∧
      (0 < rows → 0 < len → ¬fits → ∃ t, exec e.1 s = .next t ∧ CoreFaulted k 0x0203 s t) ∧
      (0 < rows → 0 < len → fits → 0x8000000 < ofs 0 + len → ∃ t, exec e.1 s = .next t ∧ CoreFaulted k 0x0201 s t) ∧
      (0 < rows → 0 < len → fits → inStore → q.hasTile r = false → ∃ t, exec e.1 s = .next t ∧ CoreFaulted k 0x0120 s t) ∧
      (0 < rows → 0 < len → fits → inStore → q.hasTile r = true → e.2 = 0x02 → ∃ t m p a n, exec e.1 s = .next t ∧ OnlyCore k s t ∧
        t.core k = ({ c with pocket := m, pocketPoison := p, ar := a } : Core).retire n ∧
        (∀ i j, i < rows → j < len → Sparse.get 0#8 m (pa i + j) = Sparse.get 0#8 s.store (tileAddr r (ofs i) + j)) ∧
        (∀ x, (∀ i, i < rows → x < pa i ∨ pa i + len ≤ x) → Sparse.get 0#8 m x = Sparse.get 0#8 c.pocket x) ∧
        (∀ i, i ≠ bfld w 79 4 → i ≠ bfld w 26 4 → (t.core k).areg i = c.areg i)) ∧
      (0 < rows → 0 < len → fits → inStore → q.hasTile r = true → e.2 = 0x03 → ∃ t a n, exec e.1 s = .next t ∧
        (∀ j, j ≠ k → t.core j = s.core j) ∧ t = { s with cores := t.cores, store := t.store, storePoison := t.storePoison } ∧
        (s.twinRole k = .none → t.core k = ({ c with ar := a } : Core).retire n ∧
          (∀ x, (∀ i, i < rows → x < tileAddr r (ofs i) ∨ tileAddr r (ofs i) + len ≤ x) →
            Sparse.get 0#8 t.store x = Sparse.get 0#8 s.store x) ∧
          (len ≤ bfld w 46 12 * 32 → ∀ i j, i < rows → j < len →
            Sparse.get 0#8 t.store (tileAddr r (ofs i) + j) = Sparse.get 0#8 c.pocket (pa i + j))) ∧
        (s.twinRole k ≠ .none → t.store = s.store ∧ t.storePoison = s.storePoison)))

/-- PLD and PST of a tensor block: an empty tensor moves nothing; otherwise PLD puts the block as read, unpacked and with its scale
codes, into the pocket, and PST writes the bytes of the block and no other byte of the stores; a fault of the access stops the plan; a
transfer whose turn at a site has not come waits (03 R97, 05 R151, R154, 09 R243). `z` is the state once the block has been read, or the
access checked; `u` the one in which the transfer has left its places and what waited behind it has gone on. -/
def Obligations.DescriptorTransfersMoveBlocks : Prop :=
  ∀ (id : CoreId) (w : W128) (q : Plan) (s : State), Issues s (coreKey id) w → bfld w 117 1 = 1 → s.img? (s.core (coreKey id)).plan = some q →
    s.stalled (coreUnit (coreKey id)) = false →
    let k := coreKey id
    let c := s.core k
    let n := bfld w 101 16
    let d : Desc := q.descs.getD n 0#1024
    let base := bfld w 73 16 + (c.areg (bfld w 69 4)).toNat
    let b := blockShape q n d (c.areg (bfld w 97 4)).toNat (c.areg (bfld w 93 4)).toNat (c.areg (bfld w 89 4)).toNat
    let fits := fun x => base + (b x).bytes d.pw ≤ 65536 ∧ base % 32 = 0
    (opc w = 0x02 → c.twin = [] →
      (d.empty = true ∨ (b true).elems = [] → ∃ t a, exec (.pld id) s = .next t ∧ OnlyCore k s t ∧ t.core k = ({ c with ar := a } : Core).retire 0) ∧
      (d.empty = false → (b true).elems ≠ [] → ¬fits true → ∃ t, exec (.pld id) s = .next t ∧ CoreFaulted k 0x0203 s t) ∧
      (d.empty = false → (b true).elems ≠ [] → fits true →
        (∀ z, s.readBlock (coreUnit k) c.plan q d (b true).elems (b true).scales = .wait z → exec (.pld id) s = .next z) ∧
        (∀ x a, s.readBlock (coreUnit k) c.plan q d (b true).elems (b true).scales = .fault x a → faultClass x = 1 →
          ∃ t, exec (.pld id) s = .next t ∧ Logged x s t ∧ (t.plan c.plan).stopped = true ∧ t.store = s.store ∧
            (x ≠ 0x0301 → CoreFaulted k x s t)) ∧
        (∀ z r, s.readBlock (coreUnit k) c.plan q d (b true).elems (b true).scales = .ok z r →
          let u := z.finishXfer (coreUnit k) c.plan []
          ∃ t m p a l, exec (.pld id) s = .next t ∧ t = { u with cores := t.cores } ∧ (∀ j, j ≠ k → t.core j = u.core j) ∧
            t.core k = ({ u.core k with pocket := m, pocketPoison := p, ar := a } : Core).retire l ∧ t.store = s.store ∧
            (∀ i, i < (loadedBytes d r).length → Sparse.get 0#8 m (base + i) = ((loadedBytes d r).getD i (0, false)).1) ∧
            (∀ x, x < base ∨ base + (loadedBytes d r).length ≤ x → Sparse.get 0#8 m x = Sparse.get 0#8 (u.core k).pocket x)))) ∧
    (opc w = 0x03 →
      (d.empty = true ∨ (b false).elems = [] → ∃ t a, exec (.pst id) s = .next t ∧ OnlyCore k s t ∧ t.core k = ({ c with ar := a } : Core).retire 0) ∧
      (d.empty = false → (b false).elems ≠ [] → ¬fits false → ∃ t, exec (.pst id) s = .next t ∧ CoreFaulted k 0x0203 s t) ∧
      (let es := (b false).elems.zipIdx.filterMap fun e => e.1.map fun idx =>
         (idx, (pocketCode c base d.pw e.2).1 % 2 ^ d.w, (pocketCode c base d.pw e.2).2)
       let sb := base + ((b false).elems.length * d.pw + 7) / 8
       let ss := (b false).scales.zipIdx.filterMap fun e => e.1.map fun idx =>
         (idx, (Sparse.get 0#8 c.pocket (sb + e.2)).toNat, Sparse.get false c.pocketPoison ((sb + e.2) / 32))
       let out := d.blockOut q es ss
       d.empty = false → (b false).elems ≠ [] → fits false →
       (∀ z, s.writable (coreUnit k) c.plan out = .wait z → exec (.pst id) s = .next z) ∧
       (∀ x a, s.writable (coreUnit k) c.plan out = .fault x a → faultClass x = 1 →
         ∃ t, exec (.pst id) s = .next t ∧ Logged x s t ∧ (t.plan c.plan).stopped = true ∧ t.store = s.store ∧
           (x ≠ 0x0301 → CoreFaulted k x s t)) ∧
       (∀ z, s.writable (coreUnit k) c.plan out = .ok z → z.twinRole k = .none →
         let u := z.finishXfer (coreUnit k) c.plan out
         ∃ t a l, exec (.pst id) s = .next t ∧ t = { u with cores := t.cores } ∧ (∀ j, j ≠ k → t.core j = u.core j) ∧
           t.core k = ({ u.core k with ar := a } : Core).retire l ∧
           (∀ x, (∀ o ∈ out, o.addr ≠ x) → Sparse.get 0#8 t.store x = Sparse.get 0#8 s.store x))))

/-! ### Movers -/

/-- MOVER_COMMAND moves the block of the slot's next command, waits for its turn at a site or raises the fault of its access;
MOVER_COMMAND_COMPLETE returns the token of the oldest command in progress; both wait while a partial write of the mover waits on a full
buffer (05 R145, R150, R154, 09 R243, R244). -/
def Obligations.MoversMoveBlocksAndReturnTokens : Prop :=
  ∀ (i : Nat) (r : SlotRun) (q : Plan) (w : BitVec 256) (s : State), s.moverSlot i = some (r, q) →
    let src : Desc := q.descs.getD (mcf w 0 48 16) 0#1024
    let dst : Desc := q.descs.getD (mcf w 0 32 16) 0#1024
    let p := r.entry.plan
    let m := moverUnit i
    (s.stalled m = true → exec (.moverCommand i) s = .next s ∧ exec (.moverCommandComplete i) s = .next s) ∧
    (s.stalled m = false → (q.moverList r.entry.addr)[r.issued]? = some w →
      (src.empty = true ∨ dst.empty = true → ∃ t, exec (.moverCommand i) s = .next t ∧
        t.slot? i = some { r with issued := r.issued + 1 } ∧ (∀ j, j ≠ i → t.slot? j = s.slot? j) ∧ t = { s with frm := t.frm }) ∧
      (∀ y b, src.empty = false → dst.empty = false →
        s.readBlock m p q src (src.block (mcf w 1 0 32) (mcf w 1 32 32) (mcf w 2 0 32))
          (src.scaleBlock (mcf w 1 0 32) (mcf w 1 32 32) (mcf w 2 0 32)) = .ok y b →
        let out := dst.blockOut q (moved src.fill (dst.block (mcf w 2 32 32) (mcf w 3 0 32) (mcf w 3 32 32)) b.elems)
          (moved 127 (dst.scaleBlock (mcf w 2 32 32) (mcf w 3 0 32) (mcf w 3 32 32)) b.scales)
        ∀ z, y.writable m p out = .ok z →
        let u := z.finishXfer m p out
        ∃ t, exec (.moverCommand i) s = .next t ∧ t = { u with frm := t.frm } ∧
          t.slot? i = (u.slot? i).map (fun r => { r with issued := r.issued + 1 }) ∧
          (∀ x, (∀ o ∈ out, o.addr ≠ x) → Sparse.get 0#8 t.store x = Sparse.get 0#8 s.store x)) ∧
      (∀ c a, s.move m p q w = .fault c a → ∃ t, exec (.moverCommand i) s = .next t ∧ Logged c s t ∧ (t.plan p).stopped = true ∧
        t.store = s.store) ∧
      (∀ z, s.move m p q w = .wait z → exec (.moverCommand i) s = .next z)) ∧
    (s.stalled m = false → (q.moverList r.entry.addr)[r.completed]? = some w → r.completed < r.issued →
      let g := mcf w 0 28 4
      let n := mcf w 0 16 12
      let tok := fun (x : State) (j m : Nat) => (Sparse.get 0#24 (x.tile j).tok m).toNat
      ∃ t, exec (.moverCommandComplete i) s = .next t ∧ t.store = s.store ∧ t.sites = s.sites ∧
        (tok s g n + 1 < 2 ^ 24 → tok t g n = tok s g n + 1 ∧ (∀ j m, j ≠ g ∨ m ≠ n → tok t j m = tok s j m) ∧
          t.slot? i = some { r with completed := r.completed + 1 } ∧ (∀ j, j ≠ i → t.slot? j = s.slot? j) ∧ t.cores = s.cores ∧
          t.flt = s.flt) ∧
        (2 ^ 24 ≤ tok s g n + 1 → Logged 0x0207 s t ∧ (t.plan p).stopped = true))

/-! ### Memory sites -/

/-- The residue of a line, the invalid residue field, and the worked example of 09 R235. -/
def Obligations.ResidueOfLine : Prop :=
  (∀ d : BitVec 2048, residue d ≤ 0x3FFFFFFE ∧
    (residue d : Int) = ((List.range 64).map fun i => (d.extractLsb' (32 * i) 32).toInt).sum % (2 ^ 30 - 1)) ∧
  (∀ (l : Line) (x : Xfer), bfld (l.tag ^^^ x.terr) 0 30 = 0x3FFFFFFF → (readLine l x).poisoned = true) ∧
  (let d : BitVec 2048 := BitVec.ofNat 2048 (7 + 2 ^ 32 * (2 ^ 32 - 2) + 2 ^ 64 * 2 ^ 30)
   residue d = 6 ∧ (mkLine d 1 (residue d)).tag = 0x40000006#32)

/-- LINE_READ: a ready site answers with the line, corrected or poisoned as its checks say and then written back; a third EDC failure or a hold
makes the request wait; a failed site answers poison. FULL_LINE_WRITE: the line takes the data with its checks, class and residue and loses
its pending entry; a poisoned write into a sink range is not made and stops its owner (09 R237, R240 to R242, R245, R249, R250). -/
def Obligations.SitesServeReadsAndLineWrites : Prop :=
  (∀ (i : Fin 24) (n : Nat) (x : Xfer) (s : State), s.live = true → n < siteLines (s.site i.val).tier →
    let z := s.site i.val
    let y := x.join (z.upset n)
    let r := readLine (z.line n) y
    (z.state = .ready → z.queue = [] → z.entry? n = none → y.edcFails < 3 → ∃ t, exec (.lineRead i n x) s = .next t ∧
      t.tx = s.tx ++ [.lineData i.val n r.line.data r.poison] ∧ OnlyLine i.val n s t ∧
      (t.site i.val).line n = (if r.corrected || r.poisoned then r.line else z.line n) ∧
      (r.corrected = true → Logged 0x0302 s t ∧ (t.site i.val).corr = satInc z.corr) ∧
      (r.poisoned = true → Logged 0x0303 s t ∧ (t.site i.val).uncorr = satInc z.uncorr ∧
        (t.site i.val).paddr = BitVec.ofNat 48 (siteAddr i.val n)) ∧
      (r.poison = true → (t.site i.val).pread = satInc z.pread) ∧ (0 < y.edcFails → Logged 0x0305 s t) ∧
      (t.site i.val).upsets = dropUpset n z.upsets ∧ SameDomain s t ∧ t.store = s.store ∧ t.cores = s.cores ∧ t.tiles = s.tiles) ∧
    (z.state = .ready → z.queue = [] → 3 ≤ y.edcFails → ∃ t, exec (.lineRead i n x) s = .next t ∧ t.tx = s.tx ∧
      (t.site i.val).state = .retrainUnsched ∧ (t.site i.val).queue = [.read n] ∧ (t.site i.val).lines = z.lines ∧
      (∀ j, j ≠ i.val → t.site j = s.site j) ∧ Logged 0x0305 s t ∧ Logged 0x0310 s t ∧ SameDomain s t ∧ t.store = s.store) ∧
    (z.holds = true → ∃ t, exec (.lineRead i n x) s = .next t ∧ OnlySite i.val s t ∧
      (t.site i.val).queue = z.queue ++ [.read n] ∧ (t.site i.val).lines = z.lines ∧ (t.site i.val).wcb = z.wcb ∧
      (t.site i.val).state = z.state ∧ (z.waitFrom = none → t.site i.val = { z with queue := z.queue ++ [.read n] })) ∧
    (z.state = .failed → z.queue = [] → ∃ t, exec (.lineRead i n x) s = .next t ∧ t.tx = s.tx ++ [.lineData i.val n 0 true] ∧
      t.site i.val = { z with pread := satInc z.pread } ∧ (∀ j, j ≠ i.val → t.site j = s.site j) ∧ t.store = s.store ∧ SameDomain s t)) ∧
  (∀ (i : Fin 24) (n : Nat) (d : BitVec 2048) (m : BitVec 8) (p : Option (Fin 4)) (x : Xfer) (s : State), s.live = true →
    n < siteLines (s.site i.val).tier →
    let z := s.site i.val
    let y := x.join (z.upset n)
    (z.state = .ready → z.queue = [] → y.edcFails < 3 → s.sinkBarred i.val n = false → m = 0 ∨ s.sinkOwner i.val n = none →
      ∃ t, exec (.fullLineWrite i n d m p x) s = .next t ∧
        (t.site i.val).line n = mkLine d (if m = 0 then 0 else 2) (residue d) ∧ (t.site i.val).entry? n = none ∧
        OnlyLine i.val n s t ∧ t.store = s.store ∧ t.tiles = s.tiles ∧ t.ports = s.ports) ∧
    (∀ q, z.state = .ready → z.queue = [] → y.edcFails < 3 → s.sinkBarred i.val n = false → m ≠ 0 → s.sinkOwner i.val n = some q →
      ∃ t, exec (.fullLineWrite i n d m p x) s = .next t ∧ (t.site i.val).lines = z.lines ∧
        (∀ j, j ≠ i.val → t.site j = s.site j) ∧ Logged 0x0304 s t ∧ (t.plan q).stopped = true ∧ t.store = s.store) ∧
    (z.state = .ready → z.queue = [] → y.edcFails < 3 → s.sinkBarred i.val n = true →
      ∃ t, exec (.fullLineWrite i n d m p x) s = .next t ∧ (t.site i.val).lines = z.lines ∧ (t.site i.val).wcb = z.wcb ∧
        (∀ j, j ≠ i.val → t.site j = s.site j) ∧ SameDomain s t ∧ t.store = s.store) ∧
    (z.state = .ready → z.queue = [] → 3 ≤ y.edcFails → ∃ t, exec (.fullLineWrite i n d m p x) s = .next t ∧
      (t.site i.val).state = .retrainUnsched ∧ (t.site i.val).queue = [.full n d m (p.map (·.val))] ∧
      (t.site i.val).lines = z.lines ∧ (∀ j, j ≠ i.val → t.site j = s.site j) ∧ Logged 0x0310 s t) ∧
    (z.holds = true → ∃ t, exec (.fullLineWrite i n d m p x) s = .next t ∧ OnlySite i.val s t ∧
      (t.site i.val).queue = z.queue ++ [.full n d m (p.map (·.val))] ∧ (t.site i.val).lines = z.lines ∧ (t.site i.val).wcb = z.wcb ∧
      (t.site i.val).state = z.state) ∧
    (z.state = .failed → z.queue = [] → exec (.fullLineWrite i n d m p x) s = .next s))

/-- PARTIAL_WRITE and WCB_MERGE, which complete at a ready site with nothing waiting: bytes gather in the line's entry, and a full entry
is written without a read; with every entry in use the request waits. In a buffer of 7,168 entries the oldest is laid over the line it
reads, and lets a waiting one go on; below that, or named for another line, WCB_MERGE changes nothing; a third EDC failure, of its read or, once
that has passed, of its write, makes the merge itself wait with its entry kept (09 R237, R244, R245). -/
def Obligations.WriteCombining : Prop :=
  (∀ (i : Fin 24) (n : Nat) (d : BitVec 2048) (v : BitVec 256) (m : BitVec 8) (p : Option (Fin 4)) (s : State), s.live = true →
    n < siteLines (s.site i.val).tier → (s.site i.val).state = .ready → (s.site i.val).queue = [] → (s.site i.val).waitFrom = none →
    s.sinkBarred i.val n = false → m = 0 ∨ s.sinkOwner i.val n = none →
    let z := s.site i.val
    (z.entry? n = none → v ≠ BitVec.allOnes 256 → z.wcb.length < 8192 → ∃ t, exec (.partialWrite i n d v m p) s = .next t ∧
      OnlySite i.val s t ∧ t.site i.val = { z with wcb := z.wcb ++ [{ line := n, data := d, valid := v, marks := m }],
                                                   wcbPeak := max z.wcbPeak (z.wcb.length + 1) }) ∧
    (z.entry? n = none → v ≠ BitVec.allOnes 256 → 8192 ≤ z.wcb.length → ∃ t, exec (.partialWrite i n d v m p) s = .next t ∧
      OnlySite i.val s t ∧ t.site i.val = { z with queue := [.part n d v m (p.map (·.val)) none], waitFrom := some s.clk.now }) ∧
    (z.entry? n = none → v = BitVec.allOnes 256 → (z.upset n).edcFails < 3 → ∃ t, exec (.partialWrite i n d v m p) s = .next t ∧
      OnlyLine i.val n s t ∧ (t.site i.val).line n = mkLine d (if m = 0 then 0 else 2) (residue d) ∧ t.store = s.store) ∧
    (∀ e, z.entry? n = some e → e.valid ||| v ≠ BitVec.allOnes 256 → ∃ t, exec (.partialWrite i n d v m p) s = .next t ∧
      OnlySite i.val s t ∧ t.site i.val = { z with wcb := z.wcb.map (fun w =>
        if w.line == n then { line := n, data := overlay e.data d v, valid := e.valid ||| v, marks := e.marks ||| m } else w) }) ∧
    (∀ e, z.entry? n = some e → e.valid ||| v = BitVec.allOnes 256 → (z.upset n).edcFails < 3 →
      ∃ t, exec (.partialWrite i n d v m p) s = .next t ∧ OnlyLine i.val n s t ∧ (t.site i.val).entry? n = none ∧
      (t.site i.val).line n = mkLine (overlay e.data d v) (if e.marks ||| m = 0 then 0 else 2) (residue (overlay e.data d v)) ∧
      t.store = s.store)) ∧
  (∀ (i : Fin 24) (n : Nat) (x : Xfer) (s : State), s.live = true →
    let z := s.site i.val
    let y := x.join (z.upset n)
    let y2 := ({ z with upsets := dropUpset n z.upsets } : Site).upset n
    (∀ e, z.state = .ready → 7168 ≤ z.wcb.length → z.wcb.head? = some e → e.line = n →
      let r := readLine (z.line n) y
      let d := overlay r.line.data e.data e.valid
      (y.edcFails < 3 → e.valid = BitVec.allOnes 256 ∨ y2.edcFails < 3 → z.queue = [] → s.sinkBarred i.val n = false → ∃ t, exec (.wcbMerge i n x) s = .next t ∧ OnlyLine i.val n s t ∧
        (t.site i.val).entry? n = none ∧ t.store = s.store ∧
        ((∀ p q, s.img? p = some q → q.sealAt (siteAddr i.val n) = none) → t.cores = s.cores ∧ SameDomain s t) ∧
        (e.valid = BitVec.allOnes 256 → (t.site i.val).line n = mkLine e.data (if e.marks = 0 then 0 else 2) (residue e.data)) ∧
        (e.valid ≠ BitVec.allOnes 256 →
          (t.site i.val).line n = mkLine d (if e.marks = 0 ∧ r.poison = false then 0 else 2) (residue d))) ∧
      (∀ l c v m p u t0, z.queue = [.part l c v m p u] → l ≠ n → z.wcb.length = 8192 → z.entry? l = none → v ≠ BitVec.allOnes 256 →
        s.sinkOwner i.val l = none → y.edcFails = 0 → y2.edcFails = 0 → z.edcTimes.length < 16 → z.waitFrom = some t0 →
        ∃ t, exec (.wcbMerge i n x) s = .next t ∧ (t.site i.val).queue = [] ∧ (t.site i.val).entry? n = none ∧
          (t.site i.val).entry? l = some { line := l, data := c, valid := v, marks := m } ∧ (t.site i.val).waitFrom = none ∧
          (t.site i.val).wstall = satAdd z.wstall ((s.clk.now - t0) * z.rate / 32) ∧ t.store = s.store) ∧
      (3 ≤ y.edcFails → ∃ t, exec (.wcbMerge i n x) s = .next t ∧ (t.site i.val).state = .retrainUnsched ∧
        (t.site i.val).queue = .merge n :: z.queue ∧ (t.site i.val).wcb = z.wcb ∧ (t.site i.val).lines = z.lines ∧
        t.store = s.store) ∧
      (y.edcFails < 3 → e.valid ≠ BitVec.allOnes 256 → 3 ≤ y2.edcFails → s.sinkBarred i.val n = false → ∃ t, exec (.wcbMerge i n x) s = .next t ∧
        (t.site i.val).state = .retrainUnsched ∧ (t.site i.val).queue = .merge n :: z.queue ∧ (t.site i.val).wcb = z.wcb ∧
        t.store = s.store)) ∧
    (z.state ≠ .ready ∨ z.wcb.length < 7168 ∨ z.wcb.head?.map (·.line) ≠ some n → exec (.wcbMerge i n x) s = .next s))

/-- Refresh and the ends of a hold: an overrunning scheduled retrain goes on unscheduled, a completed one serves the requests that waited,
and a site that has not retrained in time has failed, answers them with poison and stops the plan it belongs to (09 R246, R248 to R250). -/
def Obligations.SiteHoldsEnd : Prop :=
  ∀ (i : Fin 24) (s : State), s.live = true →
    let z := s.site i.val
    (∀ u, z.state ≠ .absent → z.state ≠ .training → ∃ t, exec (.pacedRefresh (i, u)) s = .next t ∧ OnlySite i.val s t ∧
      t.site i.val = { z with refreshes := z.refreshes + 1, upsets := z.upsets ++ u }) ∧
    (z.state = .retrainSched → ∃ t, exec (.scheduledRetrainOverrun i) s = .next t ∧
      t.site i.val = { z with state := .retrainUnsched, retrains := satInc z.retrains, edcTimes := [] } ∧
      (∀ j, j ≠ i.val → t.site j = s.site j) ∧ Logged 0x0310 s t ∧ t.tx = s.tx ∧ t.store = s.store ∧ SameDomain s t) ∧
    (∀ e ∈ [(Instr.scheduledRetrainComplete i, SiteState.retrainSched), (.retrainComplete i, .retrainUnsched)], z.state = e.2 →
      (∀ p, (s.port p).gust = []) →
      (z.queue = [] → z.waitFrom = none → ∃ t, exec e.1 s = .next t ∧ OnlySite i.val s t ∧ t.site i.val = { z with state := .ready }) ∧
      (∀ n, z.queue = [.read n] → z.entry? n = none → (z.upset n).edcFails < 3 → ∃ t, exec e.1 s = .next t ∧ (t.site i.val).queue = [] ∧
        OnlyLine i.val n s t ∧ t.tx = s.tx ++
          [.lineData i.val n (readLine (z.line n) (z.upset n)).line.data (readLine (z.line n) (z.upset n)).poison])) ∧
    (z.state = .retrainUnsched → (∀ p, (s.port p).gust = []) →
      (z.queue = [] → ∃ t, exec (.siteFailed i) s = .next t ∧
        t.site i.val = { z with state := .failed, queue := [], waitFrom := none, wstall := match z.waitFrom with
          | none => z.wstall
          | some t0 => satAdd z.wstall ((s.clk.now - t0) * z.rate / 32) } ∧ (∀ j, j ≠ i.val → t.site j = s.site j) ∧
        Logged 0x0311 s t ∧ t.store = s.store ∧ (s.siteClaim i.val = none → t.plans = s.plans ∧ t.cores = s.cores) ∧
        (∀ p, s.siteClaim i.val = some p → (t.plan p).stopped = true ∧
          (t.plan p).terminating = some ((s.plan p).terminating.getD 0x0311))) ∧
      (∀ n, z.queue = [.read n] → n < siteLines z.tier → ∃ t, exec (.siteFailed i) s = .next t ∧ (t.site i.val).state = .failed ∧
        (t.site i.val).queue = [] ∧ (t.site i.val).lines = z.lines ∧ Out.lineData i.val n 0 true ∈ t.tx ∧ Logged 0x0311 s t ∧
        t.store = s.store))

/-! ### Crosswind data -/

/-- WRITE into a tile store or a ready site at its destination: the line's bytes and marks are written, nothing else in memory; an address outside the
plan's region stops the plan (10 R265, 01 R29). -/
def Obligations.WriteFramesLandAtTheirLine : Prop :=
  ∀ (p : Option (Fin 6)) (f : DataFrame) (s : State), ReachesHere p f s → f.op = 0 →
    let a := 256 * f.line.toNat
    (∀ g o, s.accessFault f.cls a = none → s.place a = .store g o → ∃ t, exec (.write p f) s = .next t ∧
      (∀ i, i < 256 → Sparse.get 0#8 t.store (a + i) = f.body.extractLsb' (8 * i) 8) ∧ StoreFrame a 256 s t ∧
      (∀ w, w < 8 → Sparse.get false t.storePoison (a / 32 + w) = f.poison.getLsbD w) ∧
      t.sites = s.sites ∧ t.cores = s.cores ∧ t.tiles = s.tiles ∧ t.frm = s.frm ∧ t.plans = s.plans ∧ t.flt = s.flt ∧
      (∀ q, p = some q → (t.port q.val).gust = [] ∧ (t.port q.val).rxGood = (s.port q.val).rxGood + 1)) ∧
    (∀ i o, s.accessFault f.cls a = none → s.place a = .site i o → (s.site i).state = .ready → (s.site i).queue = [] →
      ((s.site i).upset (o / 256)).edcFails < 3 → s.sinkBarred i (o / 256) = false →
      f.poison = 0 ∨ s.sinkOwner i (o / 256) = none → ∃ t, exec (.write p f) s = .next t ∧
        (t.site i).line (o / 256) = mkLine f.body (if f.poison = 0 then 0 else 2) (residue f.body) ∧ OnlyLine i (o / 256) s t ∧
        t.store = s.store) ∧
    (∀ code, s.accessFault f.cls a = some code → ∃ t, exec (.write p f) s = .next t ∧ Logged code s t ∧
      (t.plan f.cls).stopped = true ∧ t.store = s.store ∧ t.sites = s.sites)

/-- The adder's arithmetic: element by element, a marker or a sum out of range giving the marker, and the residue it predicts is the
residue of the line it forms (11 R299, R302). -/
def Obligations.AddersPredictTheResidue : Prop :=
  ∀ (d : BitVec 2048) (xs : List Int) (m : Int), xs.length = 64 →
    let a := addLine d (residue d) xs m
    a.pred = residue a.line ∧
    (∀ i, i < 64 →
      let t := (d.extractLsb' (32 * i) 32).toInt
      let x := xs.getD i 0
      (a.line.extractLsb' (32 * i) 32).toInt = if t = -(2 ^ 31) ∨ x = m ∨ 2 ^ 31 ≤ (t + x).natAbs then -(2 ^ 31) else t + x) ∧
    (a.range = true ↔ ∃ i, i < 64 ∧ (d.extractLsb' (32 * i) 32).toInt ≠ -(2 ^ 31) ∧ xs.getD i 0 ≠ m ∧
      2 ^ 31 ≤ ((d.extractLsb' (32 * i) 32).toInt + xs.getD i 0).natAbs)

/-- ACC16 and ACC32 at a ready site: the operand is added into the line, or the pair of lines, of the reduction area and counted; a computed line that
fails its residue check is computed again, and one that fails twice leaves the line poisoned (11 R299, R302, R303, R306). -/
def Obligations.AccumulatesAddIntoTheirArea : Prop :=
  ∀ (p : Option (Fin 6)) (f : DataFrame) (a : AddIn) (i o k : Nat) (q : Plan) (rec : Rec) (s : State), ReachesHere p f s →
    f.poison = 0 → s.accessFault f.cls (256 * f.line.toNat) = none → s.place (256 * f.line.toNat) = .site i o →
    (s.site i).state = .ready → (s.site i).queue = [] → (s.plan f.cls).stopped = false → s.img? f.cls = some q → q.redArea (siteAddr i (o / 256)) = some (.sum rec k) → a.xfer = Xfer.clean →
    let n := o / 256
    let z := s.site i
    let old := fun j => readLine (z.line j) Xfer.clean
    (∀ e ∈ z.upsets, e.1 = n ∨ e.1 = n + 1 → e.2 = Xfer.clean) →
    let chk := fun j => ∀ h b, s.place (redDigest rec + 0x500 * k + 0x400) = .site h b → h ≠ i ∨ b / 256 ≠ j
    (f.op = 2 → z.entry? n = none → (old n).poison = false → chk n →
      let r := addLine (old n).line.data (old n).line.res (g32Elems f.body) (-(2 ^ 31))
      (a.first.getD 0 0 = 0 → ∃ t, exec (.acc32 p f a) s = .next t ∧ (t.site i).line n = mkLine r.line 1 r.pred ∧
        (t.plan f.cls).red.adds = satInc (s.plan f.cls).red.adds ∧ t.store = s.store ∧ t.cores = s.cores ∧
        (r.range = true → Logged 0x050A s t)) ∧
      (residue (r.line ^^^ a.first.getD 0 0) ≠ r.pred → a.second.getD 0 0 = 0 → ∃ t, exec (.acc32 p f a) s = .next t ∧
        (t.site i).line n = mkLine r.line 1 r.pred ∧ (t.plan f.cls).red.rretry = satInc (s.plan f.cls).red.rretry ∧
        Logged 0x0501 s t ∧ t.store = s.store) ∧
      (residue (r.line ^^^ a.first.getD 0 0) ≠ r.pred → residue (r.line ^^^ a.second.getD 0 0) ≠ r.pred →
        ∃ t, exec (.acc32 p f a) s = .next t ∧
          (t.site i).line n = mkLine (old n).line.data 2 (residue (old n).line.data) ∧ Logged 0x0502 s t ∧
          (t.plan f.cls).stopped = true ∧ t.store = s.store)) ∧
    (f.op = 1 → n % 2 = 0 → z.entry? n = none → z.entry? (n + 1) = none → (old n).poison = false → (old (n + 1)).poison = false →
      chk n → chk (n + 1) → a.first = [] →
      let r0 := addLine (old n).line.data (old n).line.res ((g16Elems f.body).take 64) (-32768)
      let r1 := addLine (old (n + 1)).line.data (old (n + 1)).line.res ((g16Elems f.body).drop 64) (-32768)
      ∃ t, exec (.acc16 p f a) s = .next t ∧ (t.site i).line n = mkLine r0.line 1 r0.pred ∧
        (t.site i).line (n + 1) = mkLine r1.line 1 r1.pred ∧
        (t.plan f.cls).red.adds = satAdd (satAdd (s.plan f.cls).red.adds 1) 1 ∧ t.store = s.store ∧ t.cores = s.cores)

/-- A TSIG frame adds to its counter once no line of its plan waits at a site and waits in its gust queue before that. A relay
datagram is put together from its segments; one for this rank is taken as the host port's, out of form it is discarded and counted,
one for another rank leaves by this rank's host link, and of one with no bytes, a keep-alive, there is nothing to take (10 R266, R288, R293,
log 52). -/
def Obligations.SignalAndRelayFrames : Prop :=
  (∀ (p : Option (Fin 6)) (f : DataFrame) (q : Plan) (s : State), ReachesHere p f s → f.op = 3 → s.img? f.cls = some q →
    q.hasTile (bfld f.line 36 4) = true →
    let g := bfld f.line 36 4
    let n := bfld f.line 24 12
    let inc := bfld f.line 0 24
    let tok := fun (x : State) (j m : Nat) => (Sparse.get 0#24 (x.tile j).tok m).toNat
    (s.waitsAtSite f.cls = false → tok s g n + inc < 2 ^ 24 → ∃ t, exec (.tsigFrame p f) s = .next t ∧
      tok t g n = tok s g n + inc ∧ (∀ j m, j ≠ g ∨ m ≠ n → tok t j m = tok s j m) ∧ t.cores = s.cores ∧ t.store = s.store ∧
      t.sites = s.sites ∧ t.frm = s.frm ∧ t.flt = s.flt) ∧
    (s.waitsAtSite f.cls = false → 2 ^ 24 ≤ tok s g n + inc → ∃ t, exec (.tsigFrame p f) s = .next t ∧ Logged 0x0207 s t ∧
      (t.plan f.cls).stopped = true ∧ t.store = s.store) ∧
    (∀ x, p = some x → s.waitsAtSite f.cls = true → ∃ t, exec (.tsigFrame p f) s = .next t ∧ (t.port x.val).gust = [f] ∧
      t.tiles = s.tiles ∧ t.store = s.store ∧ t.sites = s.sites)) ∧
  (∀ (p : Fin 6) (f : DataFrame) (h : List Byte) (s : State), s.sends = true → f.op = 4 → f.cls = 4 → f.dest = s.dom.rank →
    (s.port p.val).up = true → (s.port p.val).stale = 0 → (s.port p.val).gust = [] → s.host.inbox = [] →
    (if bfld f.line 39 1 = 1 then some [] else (s.port p.val).reasm) = some h →
    let bytes := h ++ (lineBytes f.body).take (bfld f.line 0 16)
    let dg := parseDatagram bytes
    (bfld f.line 38 1 = 0 → ∃ t, exec (.relay (some p) f) s = .next t ∧ t = { s with ports := t.ports } ∧
      (t.port p.val).reasm = some bytes ∧ (∀ q, q ≠ p.val → t.port q = s.port q)) ∧
    (bfld f.line 38 1 = 1 → ∃ u, u = { s with ports := u.ports } ∧ (u.port p.val).reasm = none ∧
      (∀ q, q ≠ p.val → u.port q = s.port q) ∧
      (bytes = [] → exec (.relay (some p) f) s = .next u) ∧
      (bytes ≠ [] →
      (dg.rank ≠ s.dom.rank → s.host.link = 2 → ∃ t, exec (.relay (some p) f) s = .next t ∧
        t.tx = s.tx ++ [.forward (bytes.drop 18)] ∧ t.ports = u.ports ∧ t.host.txdg = satInc s.host.txdg ∧ SameCompute s t ∧
        t.plans = s.plans ∧ t.frm = s.frm) ∧
      (dg.rank ≠ s.dom.rank → s.host.link ≠ 2 → exec (.relay (some p) f) s = .next u) ∧
      (dg.rank = s.dom.rank → s.hostUp = true → dg.formOk = false → ∃ t, exec (.relay (some p) f) s = .next t ∧
        t = { u with host := { s.host with discard := satInc s.host.discard } }) ∧
      (dg.rank = s.dom.rank → s.hostUp = true → dg.formOk = true → exec (.relay (some p) f) s = .next (u.answerDg dg)))))

/-- Every operation of a data frame on its way: an undefined one or a class that does not fit is discarded and counted, one for a class
not taken here is also logged, wherever it is going, and one for another rank goes to the next hop's queue while that hop has credit
(10 R265, R266, R268). -/
def Obligations.DataFramesAreDroppedOrForwarded : Prop :=
  ∀ (p : Fin 6) (f : DataFrame) (s : State), s.sends = true → (s.port p.val).up = true → (s.port p.val).stale = 0 → s.host.inbox = [] →
    ∀ e ∈ [(Instr.write (some p) f, 0), (.acc16 (some p) f AddIn.clean, 1), (.acc32 (some p) f AddIn.clean, 2),
        (.tsigFrame (some p) f, 3), (.relay (some p) f, 4)],
      (5 ≤ f.op ∨ (f.op = e.2 ∧ (5 ≤ f.cls ∨ (f.cls = 4) ≠ (f.op = 4))) → ∃ t, exec e.1 s = .next t ∧
        t.port p.val = { s.port p.val with rxGood := (s.port p.val).rxGood + 1, rxDrop := satInc (s.port p.val).rxDrop } ∧
        (∀ q, q ≠ p.val → t.port q = s.port q) ∧ t = { s with ports := t.ports }) ∧
      (f.op = e.2 → f.cls < 4 → e.2 ≠ 4 → (s.port p.val).foreign = false → s.takesClass f.cls = false →
        ∃ t, exec e.1 s = .next t ∧ (t.port p.val).rxDrop = satInc (s.port p.val).rxDrop ∧ (∀ q, q ≠ p.val → t.port q = s.port q) ∧
          Logged 0x040C s t ∧ SameCompute s t) ∧
      (∀ q, f.op = e.2 → f.cls < 5 → (f.cls = 4 ↔ e.2 = 4) → (f.cls < 4 → s.takesClass f.cls = true) → f.dest ≠ s.dom.rank →
        (s.port p.val).foreign = false → (s.port p.val).gust = [] → s.routeOf f.cls f.dest = some q → q ≠ p.val →
        ∃ t, exec e.1 s = .next t ∧ SameCompute s t ∧ t.plans = s.plans ∧ t.frm = s.frm ∧
          ((s.port q).waiting f.cls < ((s.port q).acct f.cls).held → (t.port q).outq = (s.port q).outq ++ [f] ∧
            (t.port p.val).gust = [] ∧ (((s.port p.val).acct f.cls).isOpen = true →
              ((t.port p.val).acct f.cls).freed = ((s.port p.val).acct f.cls).freed + 1)) ∧
          (((s.port q).acct f.cls).held ≤ (s.port q).waiting f.cls → t.port q = s.port q ∧ (t.port p.val).gust = [f]))

/-- The link layer of a port that is up: a bad CRC is answered with the count received, a NACK has every frame from its count on sent again, a
control frame frees what it acknowledges and returns credit. A port sends the next data frame in the order of classes while credit is held,
a control frame when idle, and drops and counts a relay datagram without credit (10 R264, R268, R269, R280, R288). -/
def Obligations.LinkLayerSendsAndReplays : Prop :=
  (∀ (p : Fin 6) (s : State), s.sends = true → (s.port p.val).up = true →
    let x := s.port p.val
    let rest := fun t : State => (∀ q, q ≠ p.val → t.port q = s.port q) ∧ SameCompute s t ∧ t.frm = s.frm ∧ t.plans = s.plans
    (∀ b, x.stale = 0 → ∃ t, exec (.crcFail (p, b)) s = .next t ∧ t.tx = s.tx ++ [.link p.val (.nack x.rxGood)] ∧
      (t.port p.val).rxGood = x.rxGood ∧ (t.port p.val).stale = b ∧
      (t.port p.val).replay = x.replay ++ [(x.txSeq, .nack x.rxGood)] ∧ rest t) ∧
    (0 < x.stale → (∀ b n, ∀ c ∈ [Instr.crcFail (p, b), .nack p n], ∃ t, exec c s = .next t ∧ t = { s with ports := t.ports } ∧
      t.port p.val = { x with stale := x.stale - 1 } ∧ rest t)) ∧
    (∀ n, x.stale = 0 → ∃ t, exec (.nack p n) s = .next t ∧
      t.tx = s.tx ++ ((x.replay.filter fun e => decide (n ≤ e.1)).map fun e => .link p.val e.2) ∧
      (t.port p.val).replay = x.replay ∧ (t.port p.val).rxGood = x.rxGood + 1 ∧
      (t.port p.val).replayCnt = satAdd x.replayCnt (x.replay.filter fun e => decide (n ≤ e.1)).length ∧ rest t) ∧
    (∀ ack returns, x.stale = 0 → returns.length = 5 → (∀ q, (s.port q).gust = []) → s.host.inbox = [] →
      ∃ t, exec (.controlFrame p ack returns) s = .next t ∧
      (t.port p.val).replay = x.replay.filter (fun e => !decide (e.1 < ack)) ∧ (t.port p.val).rxGood = x.rxGood + 1 ∧ t.tx = s.tx ∧
      (∀ c, c < 5 → (x.acct c).isOpen = true →
        let d := (returns.getD c 0 + 2 ^ 32 - (x.acct c).retIn % 2 ^ 32) % 2 ^ 32
        ((t.port p.val).acct c).held = (x.acct c).held + d ∧ ((t.port p.val).acct c).retIn = (x.acct c).retIn + d) ∧ rest t)) ∧
  (∀ (p : Fin 6) (s : State), s.sends = true →
    let o := s.port p.val
    let x : Port := { o with outq := o.outq.filter fun f => !s.barredFrame f }
    let rest := fun t : State => (∀ q, q ≠ p.val → t.port q = s.port q) ∧ SameCompute s t ∧ t.frm = s.frm ∧ t.plans = s.plans
    (∀ c f, x.nextClass = some c → x.outq.find? (fun f => f.cls == c) = some f → ∃ t, exec (.dataFrameSend p) s = .next t ∧
      ((t.port p.val).acct c).held = (x.acct c).held - 1 ∧ ((t.port p.val).acct c).sent = (x.acct c).sent + 1 ∧
      (t.port p.val).outq = x.outq.erase f ∧ rest t ∧
      (x.owes = false → t.tx = s.tx ++ [.link p.val (.data f)] ∧ (t.port p.val).replay = x.replay ++ [(x.txSeq, .data f)] ∧
        (∀ d, d < 5 → d ≠ c → (t.port p.val).acct d = x.acct d)) ∧
      (x.owes = true → t.tx = s.tx ++ [.link p.val (.control x.rxGood x.returns), .link p.val (.data f)] ∧
        (t.port p.val).replay = x.replay ++ [(x.txSeq, .control x.rxGood x.returns), (x.txSeq + 1, .data f)] ∧
        (t.port p.val).ackOut = x.rxGood ∧
        (∀ d, d < 5 → d ≠ c → (t.port p.val).acct d = { x.acct d with unret := 0, retOut := (x.acct d).freed }))) ∧
    (x.nextClass = none → ∃ t, exec (.dataFrameSend p) s = .next t ∧ t.port p.val = x ∧ t.tx = s.tx ∧ rest t) ∧
    (o.up = true → o.nextClass = none → ∃ t, exec (.idleControlFrame p) s = .next t ∧
      t.tx = s.tx ++ [.link p.val (.control o.rxGood o.returns)] ∧ (t.port p.val).ackOut = o.rxGood ∧
      (∀ c, c < 5 → ((t.port p.val).acct c).unret = 0 ∧ ((t.port p.val).acct c).retOut = (o.acct c).freed ∧
        ((t.port p.val).acct c).held = (o.acct c).held) ∧ rest t) ∧
    (o.outq.any (fun f => f.cls == 4) = true → (o.acct 4).held = 0 → ∃ t, exec (.relayDrop p) s = .next t ∧
      (t.port p.val).rDrop = satInc o.rDrop ∧ (t.port p.val).outq = dropDatagram o.outq ∧
      (t.port p.val).outq.filter (fun f => f.cls != 4) = o.outq.filter (fun f => f.cls != 4) ∧ (t.port p.val).outq.length < o.outq.length ∧
      (∀ q, q ≠ p.val → t.port q = s.port q) ∧ t = { s with ports := t.ports }))

/-! ### Crosswind ports and the domain -/

/-- Bringing a port up: trained, it sends identity frames from a fresh link and the first of 64 probes, but no probe while the module is
out of the domain, and is down with too few lanes; not trained in time it is down; identities repeat until it is up; probes measure its latency
in the set in progress, a shift is logged from the second set on, and a port above 110 ns is excluded. What its ACK and credit returns owe leaves
before (10 R262, R269, R272 to R274, R286). -/
def Obligations.PortsTrainIdentifyAndProbe : Prop :=
  ∀ (p : Fin 6) (s : State), s.sends = true →
    let x := s.port p.val
    let idf := Out.link p.val (.identity s.dev.serial s.dom.rank p.val 0xB0 (4 * s.dom.shape) s.pfps)
    let frame := fun t : State => (∀ q, q ≠ p.val → t.port q = s.port q) ∧ SameCompute s t ∧ t.frm = s.frm ∧ t.plans = s.plans
    (s.clocked p.val = true → x.state = .training ∨ x.state = .down → (farEnd s.dom.shape s.dom.rank p.val).isSome = true →
      (x.grade = .down → ∃ t, exec (.portTrained p) s = .next t ∧ t.port p.val = { x with state := .down } ∧ t.tx = s.tx ∧ frame t) ∧
      (x.grade ≠ .down → ∃ t, exec (.portTrained p) s = .next t ∧ (t.port p.val).state = .identify ∧ (t.port p.val).rxGood = 0 ∧
        (t.port p.val).stale = 0 ∧ (t.port p.val).idGot = false ∧ (t.port p.val).idSent = x.idSent + 1 ∧ frame t ∧
        (s.dom.out = false → (∃ l, t.tx = s.tx ++ l ++ [idf, .link p.val .probe] ∧ ((∀ c, c < 5 → (x.acct c).unret = 0) → l = [])) ∧
          (t.port p.val).setLen = 64) ∧
        (s.dom.out = true → t.tx = s.tx ++ [idf] ∧ (t.port p.val).txSeq = 1 ∧ (t.port p.val).setLen = 0))) ∧
    (x.state = .training → ∃ t, exec (.portTrainTimeout p) s = .next t ∧ t.port p.val = { x with state := .down } ∧
      t = { s with ports := t.ports } ∧ frame t) ∧
    (x.state = .identify ∨ x.state = .excluded → ∃ t l, exec (.identityRepeat p) s = .next t ∧ t.tx = s.tx ++ l ++ [idf] ∧
      (x.owes = false ∨ x.state = .excluded → l = []) ∧
      (t.port p.val).idSent = x.idSent + 1 ∧ (t.port p.val).state = x.state ∧ frame t) ∧
    (x.up = true → exec (.identityRepeat p) s = .next s) ∧
    (∀ rtt, x.linked = true → x.stale = 0 →
      let n := x.setLen
      let new := (x.hopSum + rtt) / (2 * n)
      (s.dom.out = true ∨ n = 0 → ∃ t, exec (.probeFrame p rtt) s = .next t ∧ t = { s with ports := t.ports } ∧
        t.port p.val = { x with rxGood := x.rxGood + 1 } ∧ frame t) ∧
      (s.dom.out = false → n ≠ 0 → x.probes + 1 < n → ∃ t l, exec (.probeFrame p rtt) s = .next t ∧ t.tx = s.tx ++ l ++ [.link p.val .probe] ∧
        (t.port p.val).probes = x.probes + 1 ∧ (t.port p.val).hopSum = x.hopSum + rtt ∧ (t.port p.val).hopNs = x.hopNs ∧
        (t.port p.val).setLen = n ∧ frame t) ∧
      (s.dom.out = false → n ≠ 0 → n ≤ x.probes + 1 → ∃ t, exec (.probeFrame p rtt) s = .next t ∧
        (t.port p.val).probes = 0 ∧ (t.port p.val).setLen = 0 ∧ (t.port p.val).measured = true ∧ (t.port p.val).hopNs = new ∧
        (x.measured = true → x.hopNs + 2 < new ∨ new + 2 < x.hopNs → Logged 0x0408 s t) ∧
        (hopMax < new → x.state ≠ .excluded → (t.port p.val).state = .excluded ∧ (t.port p.val).reason = 4 ∧ Logged 0x0406 s t ∧
          t.store = s.store ∧ t.sites = s.sites) ∧
        (new ≤ hopMax ∨ x.state = .excluded → (t.port p.val).state = x.state ∧ t.tx = s.tx ∧ frame t ∧
          (x.measured = false → t.flt = s.flt))))

/-- IDENTITY_FRAME: a peer that does not fit excludes the port with its reason, once, and closes its accounts; one that fits brings the
port up, as its lanes allow, once the own identity is acknowledged, with the relay class's account open, and is foreign where its plans
differ (10 R262, R273, R274). -/
def Obligations.PeersAreCheckedByIdentity : Prop :=
  ∀ (p : Fin 6) (b : IdBody) (ack : Bool) (s : State), s.sends = true → s.dom.out = false → (s.port p.val).linked = true →
    (s.port p.val).stale = 0 →
    let x := s.port p.val
    let why := s.exclusion p.val b
    let y : Port := { x with rxGood := x.rxGood + 1, peerRank := b.rank, peerPort := b.port, peerSerial := b.serial, idGot := true,
                             idAcked := x.idAcked || ack }
    let only := fun t : State => t = { s with ports := t.ports } ∧ ∀ q, q ≠ p.val → t.port q = s.port q
    (why ≠ 0 → x.state = .excluded → x.reason = why → ∃ t, exec (.identityFrame p b ack) s = .next t ∧ t.port p.val = y ∧ only t) ∧
    (why ≠ 0 → x.state ≠ .excluded ∨ x.reason ≠ why → ∃ t, exec (.identityFrame p b ack) s = .next t ∧
      (t.port p.val).state = .excluded ∧ (t.port p.val).reason = why ∧ (t.port p.val).peerSerial = b.serial ∧ Logged 0x0406 s t ∧
      (x.up = true → ∀ c, c < 5 → ((t.port p.val).acct c).isOpen = false) ∧ t.store = s.store ∧ t.sites = s.sites) ∧
    (why = 0 → x.up = false →
      (y.idAcked = true → x.grade ≠ .down → ∃ t, exec (.identityFrame p b ack) s = .next t ∧ (t.port p.val).state = x.grade ∧
        (t.port p.val).peerRank = b.rank ∧ (t.port p.val).peerPort = b.port ∧ (t.port p.val).foreign = (b.pfp != s.pfps) ∧
        ((t.port p.val).acct 4).isOpen = true ∧ t.store = s.store ∧ t.sites = s.sites) ∧
      (y.idAcked = true → x.grade = .down → ∃ t, exec (.identityFrame p b ack) s = .next t ∧
        t.port p.val = { y with foreign := b.pfp != s.pfps, reason := 0, state := .down } ∧ only t) ∧
      (y.idAcked = false → ∃ t, exec (.identityFrame p b ack) s = .next t ∧
        t.port p.val = { y with foreign := b.pfp != s.pfps, reason := 0, state := .identify } ∧ only t)) ∧
    (why = 0 → x.up = true → ∃ t, exec (.identityFrame p b ack) s = .next t ∧
      t.port p.val = { y with foreign := b.pfp != s.pfps, reason := 0 } ∧ only t)

/-- A failing lane is logged and marked; a dead one is marked, and degrades the port, or brings it down with fewer than seven left; where the spare
is free a delta waits to be written, and once it is, the spare takes the bad lane's place in the lull (10 R261, R262, 14 R397). -/
def Obligations.LanesFailDieAndAreSpared : Prop :=
  ∀ (p : Fin 6) (l : Fin 9) (s : State), s.sends = true →
    let x := s.port p.val
    (∀ a b c, ∃ t, exec (.laneFailing p l a b c) s = .next t ∧ (t.port p.val).fecc = satAdd x.fecc b ∧
      (t.port p.val).fecu = satAdd x.fecu c ∧ (t.port p.val).state = x.state ∧ (∀ q, q ≠ p.val → t.port q = s.port q) ∧
      (224 < a ∨ 16 < c → x.up = true → x.laneFail.getLsbD l.val = false → x.badLane = none → Logged 0x0401 s t ∧
        (x.carries l.val = true → (t.port p.val).badLane = some l.val ∧
          (x.spareFor = 15 → x.laneFail.getLsbD 8 = false → l.val < 8 → s.mkDelta 6 p.val 0 l.val 0x0401 ∈ t.itg.deltas))) ∧
      (a ≤ 224 → c ≤ 16 → t.flt = s.flt ∧ (t.port p.val).badLane = x.badLane) ∧ SameCompute s t ∧ t.frm = s.frm ∧ t.plans = s.plans) ∧
    (x.laneFail.getLsbD l.val = false →
      let y := { x with laneFail := x.laneFail ||| BitVec.ofNat 9 (2 ^ l.val) }
      (x.carries l.val = true → x.up = true → y.grade ≠ .down → ∃ t, exec (.laneDead p l) s = .next t ∧
        t.port p.val = { y with state := .degraded, badLane := some l.val } ∧ Logged 0x0403 s t ∧
        (∀ q, q ≠ p.val → t.port q = s.port q) ∧ SameCompute s t ∧ t.frm = s.frm ∧ t.plans = s.plans) ∧
      (x.carries l.val = true → x.linked = true → y.grade = .down → ∃ t, exec (.laneDead p l) s = .next t ∧
        (t.port p.val).state = .down ∧ (t.port p.val).laneFail = y.laneFail ∧ Logged 0x0404 s t) ∧
      (x.carries l.val = true → x.linked = false ∨ (x.up = false ∧ y.grade ≠ .down) → ∃ t, exec (.laneDead p l) s = .next t ∧
        t.port p.val = { y with badLane := some l.val } ∧ t = { s with ports := t.ports, itg := t.itg } ∧ (∀ q, q ≠ p.val → t.port q = s.port q) ∧
        (x.spareFor = 15 → y.laneFail.getLsbD 8 = false → l.val < 8 → s.mkDelta 6 p.val 0 l.val 0x0403 ∈ t.itg.deltas)) ∧
      (x.carries l.val = false → ∃ t, exec (.laneDead p l) s = .next t ∧ t.port p.val = y ∧ t = { s with ports := t.ports } ∧
        (∀ q, q ≠ p.val → t.port q = s.port q))) ∧
    (x.laneFail.getLsbD l.val = true → exec (.laneDead p l) s = .next s) ∧
    (x.badLane = some l.val → s.deltaDone 6 p.val l.val = false → exec (.laneSpared p) s = .next s) ∧
    (x.badLane = some l.val → l.val < 8 → s.inLull = true → x.up = true → x.spareFor = 15 → x.laneFail.getLsbD 8 = false →
      s.deltaDone 6 p.val l.val = true →
      let y : Port := { x with spareFor := l.val, laneFail := x.laneFail ||| BitVec.ofNat 9 (2 ^ l.val), badLane := none }
      ∃ t, exec (.laneSpared p) s = .next t ∧ t.port p.val = { y with state := y.grade } ∧
        Logged 0x0402 s t ∧ (∀ q, q ≠ p.val → t.port q = s.port q) ∧ SameCompute s t ∧ t.frm = s.frm ∧ t.plans = s.plans)

/-- A link going down, and the 156.25 MHz input of a side: the port is down, its accounts close, nothing is replayed, and the report of it goes out
on every other port; with the input back the ports train again (10 R280, 14 R400, 17 R469). -/
def Obligations.LinksGoDownAndReturn : Prop :=
  (∀ (p : Fin 6) (s : State), s.sends = true → (s.port p.val).linked = true → ∃ t r, exec (.linkDown p) s = .next t ∧
    (t.port p.val).state = .down ∧ (t.port p.val).replay = [] ∧ (∀ c, c < 5 → ((t.port p.val).acct c).isOpen = false) ∧
    Logged 0x0404 s t ∧ r.rank = s.dom.rank ∧ (r.ports[p.val]?).map (·.1) = some .down ∧ r ∈ t.dom.reports ∧
    (∀ q, q < 6 → q ≠ p.val → (s.port q).up = true → (t.port q).state = (s.port q).state ∧ Out.link q (.report r) ∈ t.tx) ∧
    t.store = s.store ∧ t.sites = s.sites ∧ t.tiles = s.tiles) ∧
  (∀ (i : Fin 3) (s : State), s.live = true →
    (s.clk.ref156.getLsbD i.val = true → ∃ t, exec (.refclk156Loss i) s = .next t ∧ t.clk.ref156.getLsbD i.val = false ∧
      (∀ j, j < 3 → j ≠ i.val → t.clk.ref156.getLsbD j = s.clk.ref156.getLsbD j) ∧
      (∀ q, q < 6 → q / 3 = i.val → (s.port q).linked = true → (t.port q).state = .down ∧ Logged 0x0404 s t) ∧
      (∀ q, q < 6 → q / 3 ≠ i.val → (t.port q).state = (s.port q).state) ∧ (i.val = 2 → t.host.link = 0) ∧
      t.store = s.store ∧ t.sites = s.sites ∧ t.tiles = s.tiles) ∧
    (s.clk.ref156.getLsbD i.val = false → ∃ t, exec (.refclk156Return i) s = .next t ∧ t.clk.ref156.getLsbD i.val = true ∧
      (∀ j, j < 3 → j ≠ i.val → t.clk.ref156.getLsbD j = s.clk.ref156.getLsbD j) ∧
      (∀ q, q < 6 → t.port q = if q / 3 = i.val ∧ (s.port q).state = .down then { s.port q with state := .training } else s.port q) ∧
      t.host = (if i.val = 2 ∧ s.host.link = 0 ∧ s.reach 0 = true then { s.host with link := 1 } else s.host) ∧
      t = { s with clk := t.clk, ports := t.ports, host := t.host }))

/-- A link report not seen before is kept and passed on every other port; at the leader a plan whose variant needs what it reports down is
withdrawn and that is announced. The rank's own report goes out on every port that is up (10 R275, R281). -/
def Obligations.LinkReportsFlood : Prop :=
  (∀ (p : Fin 6) (r : LinkReport) (s : State), s.sends = true → s.dom.out = false → (s.port p.val).up = true →
    (s.port p.val).stale = 0 →
    let seen := (r.rank, r.num) ∈ s.dom.seen
    (seen ∨ r.rank = s.dom.rank → ∃ t, exec (.linkReport (some p) r) s = .next t ∧ t.dom = s.dom ∧ t.tx = s.tx ∧
      t = { s with ports := t.ports }) ∧
    (¬seen → r.rank ≠ s.dom.rank → ∃ t, exec (.linkReport (some p) r) s = .next t ∧ (r.rank, r.num) ∈ t.dom.seen ∧
      (s.dom.outdated r = true → t.dom.reports = s.dom.reports) ∧
      (s.dom.outdated r = false → ∀ x, x ∈ t.dom.reports ↔ x = r ∨ (x ∈ s.dom.reports ∧ x.rank ≠ r.rank)) ∧
      (∀ q, q < 6 → q ≠ p.val → (s.port q).up = true → Out.link q (.report r) ∈ t.tx) ∧
      (s.frm.leader ≠ s.dom.rank ∨ s.dom.outdated r = true → t.plans = s.plans ∧ SameCompute s t) ∧
      (∀ c v, c < 4 → s.frm.leader = s.dom.rank → s.dom.outdated r = false → (s.plan c).inPlans = true → s.variantOf c = some v →
        v.broken s.dom.shape r = true → (t.plan c).pstate = .withdrawn ∧ Told (.withdraw c) none s t) ∧ t.store = s.store ∧ t.sites = s.sites)) ∧
  (∀ (x : LinkReport) (s : State), s.sends = true → s.dom.out = false →
    let r : LinkReport := { s.ownReport with num := max (s.boot.starts * 2 ^ 32) s.dom.reportNo + 1 }
    ∃ t, exec (.linkReport none x) s = .next t ∧ r ∈ t.dom.reports ∧
    (∀ q, q < 6 → (s.port q).up = true → Out.link q (.report r) ∈ t.tx) ∧ t.store = s.store ∧ t.sites = s.sites)

/-- Before tick 0 the provisional leader assembles the roster from the reports and floods it; a rank that gets one adopts it where it agrees
with its own reports and passes it on, and splits off where it does not (10 R275, R277, R279). -/
def Obligations.RosterIsAgreed : Prop :=
  ∀ s : State, s.sends = true → s.dom.out = false → 8 ≤ s.boot.stage → s.dom.tick0 = false →
    let a := s.assembled
    let adopted := fun (p : Nat) (t : State) => t.dom.roster = a.1 ∧ t.dom.links = a.2 ∧ t.dom.present = presentBits a.1 ∧
      t.frm.leader = t.leaderOf ∧ SameCompute s t ∧
      (∀ q, q < 6 → q ≠ p → (s.port q).up = true → Out.link q (.roster a.1 a.2 (s.picks a.1 a.2)) ∈ t.tx)
    (provisional a.1 = s.dom.rank → ∃ t, exec .rosterAssembly s = .next t ∧ adopted 6 t) ∧
    (provisional a.1 ≠ s.dom.rank → exec .rosterAssembly s = .next s) ∧
    (∀ (p : Fin 6) (r : RosterIn), (s.port p.val).up = true → (s.port p.val).stale = 0 →
      (r.ranks = a.1 → r.links = a.2 → r.variants = s.picks a.1 a.2 → ∃ t, exec (.roster (p, r)) s = .next t ∧ adopted p.val t ∧
        (t.port p.val).rxGood = (s.port p.val).rxGood + 1) ∧
      (r.ranks ≠ a.1 ∨ r.links ≠ a.2 ∨ r.variants ≠ s.picks r.ranks r.links → ∃ t, exec (.roster (p, r)) s = .next t ∧
        Logged 0x040B s t ∧ t.flt.fatal = true ∧ t.sends = false ∧ t.dom.roster = s.dom.roster)) ∧
    (∀ (p : Fin 6) (r : RosterIn) (u : State), u.sends = true → u.gathers = false → (u.port p.val).linked = true → (u.port p.val).stale = 0 →
      ∃ t, exec (.roster (p, r)) u = .next t ∧ t.port p.val = { u.port p.val with rxGood := (u.port p.val).rxGood + 1 } ∧
        t = { u with ports := t.ports })

/-- A withdrawal, announced by the leader or taken there after a twin mismatch: the plan stops with no fault of its own, one that it had before
still goes into the vote, its cores stop, its grants end, its accounts close on every port, its lines are discarded; memory stays (10 R281, 14
R385, R394, R400). -/
def Obligations.WithdrawalStopsThePlan : Prop :=
  ∀ (i : Fin 6) (r : Fin 64) (c : Fin 4) (s : State), (s.plan c.val).inPlans = true ∨ (s.plan c.val).pstate = .restoring →
    ∀ e ∈ [(Instr.planWithdrawal (i, c), Notice.withdraw c.val, false), (.twinMismatchReport (i, r) c, .twin r.val c.val, true)],
      Hears i.val e.2.1 s → (e.2.2 = true → s.frm.leader = s.dom.rank) →
      ∃ t, exec e.1 s = .next t ∧ (t.plan c.val).pstate = .withdrawn ∧ (t.plan c.val).stopped = true ∧
        (t.plan c.val).terminating = (s.plan c.val).terminating ∧ (t.plan c.val).ckpt.run = none ∧ (t.plan c.val).ckpt.restore = none ∧
        t.frm.faultsOut = s.frm.faultsOut ∧ (∀ q, q ≠ c.val → t.plan q = s.plan q) ∧
        (∀ j, t.core j = if (s.core j).active && (s.core j).plan == c.val then (s.core j).stopped else s.core j) ∧
        (∀ p, p < 6 → ((t.port p).acct c.val).isOpen = false ∧ ∀ f ∈ (t.port p).outq, f.cls ≠ c.val) ∧
        (∀ g ∈ t.frm.grantPlans, s.frm.grants.length = s.frm.grantPlans.length → g ≠ c.val) ∧
        Told e.2.1 (some i.val) s t ∧
        (e.2.2 = true → Told (.withdraw c.val) none s t) ∧ t.store = s.store ∧ t.sites = s.sites ∧ t.tiles = s.tiles

/-! ### Training step and media intake -/

/-- SEGMENT_CLOSE sets the count word of the segment on every tile of the region, keeps its counts for the ledger, all of them declined at QUOTA
0, and writes only the fill of its open rows. ROOT_WATCH_DEADLINE at the leader sums the rank records of the same step that have arrived; PART says that one is missing, and
the domain record goes to every collector (08 R218, R219, R222 to R225). -/
def Obligations.TrainingStepRecords : Prop :=
  (∀ (p : Fin 4) (g : SegIn) (q : Plan) (s : State), s.runs = true → s.img? p.val = some q → (s.plan p.val).executes = true →
    (q.training = none ∨ (q.experts.any fun e => rf e 0 48 16 == g.layer) = false → exec (.segmentClose p g) s = .next s) ∧
    (q.training ≠ none → (q.experts.any fun e => rf e 0 48 16 == g.layer) = true → ∃ t, exec (.segmentClose p g) s = .next t ∧
      let rows := g.rows.filter fun r => decide (r < q.quota g.layer)
      let shut := q.quota g.layer = 0
      (∀ k, k < 16 → q.hasTile k = true → Sparse.get 0#32 (t.tile k).cw g.word = BitVec.ofNat 32 ((rows.map (· / 32)).eraseDups.length)) ∧
      (∀ k w, w ≠ g.word ∨ q.hasTile k = false → Sparse.get 0#32 (t.tile k).cw w = Sparse.get 0#32 (s.tile k).cw w) ∧
      (t.plan p.val).segs = (s.plan p.val).segs ++ [⟨g.layer, g.seg, g.assigned, rows.length, if shut then g.assigned else g.declined,
        if shut then 0 else g.dispatched, if shut then 0 else g.returned, true⟩] ∧
      (∀ x, (∀ o ∈ segFill q { g with rows := rows }, o.addr ≠ x) → Sparse.get 0#8 t.store x = Sparse.get 0#8 s.store x))) ∧
  (∀ (p : Fin 4) (recs : List WatchRec) (own : WatchRec) (q : Plan) (s : State), s.runs = true → (s.plan p.val).rwatch = some own →
    (s.plan p.val).image = some q →
    (s.frm.leader ≠ s.dom.rank → exec (.rootWatchDeadline p recs) s = .next s) ∧
    (s.frm.leader = s.dom.rank →
      let others := recs.filter fun r => r.plan == p.val && r.step == own.step && r.rank != s.dom.rank
      let want := ((s.variantOf p.val).map fun v => v.rankList.length).getD 1
      ∃ t r, exec (.rootWatchDeadline p recs) s = .next t ∧ r.step = own.step ∧ r.plan = own.plan ∧
        r.ranks = own.ranks + (others.map (·.ranks)).sum ∧ (r.part = true ↔ r.ranks < want) ∧
        r.layers.map (·.layer) = own.layers.map (·.layer) ∧
        (∀ c, c < s.flt.collectors.length → Out.watchMsg c r ∈ t.tx) ∧ (t.plan p.val).rwatch = none ∧
        (∀ k, k ≠ p.val → t.plan k = s.plan k) ∧ SameCompute s t ∧ t.frm = s.frm))

/-- SAMPLE_RECORD takes the next record of the lane's stream in SEQ order into the lane it names; a record for a lane that takes none and one out
of order are logged and left out; a sensor's frame joins its queue of 64; an ill-formed one with no reserve leaves zeros. DECODE_COMPLETE of the record that
heads its lane places what the engines give at the lane's next position and counts it, whichever engine finishes; outside that position's bytes and its mask word
the tile stores stay as they were (12 R328 to R332, R341, R342, R346, R348, R349). -/
def Obligations.MediaRecordsAreTakenAndStaged : Prop :=
  (∀ (l : Fin 16) (w : W64) (ws : List W64) (b : List Byte) (s : State), s.runs = true → let h : SampleHdr := w :: ws
    (s.consumed (s.laneStreamOf l.val) h b = none → exec (.sampleRecord l w ws b) s = .next s) ∧
    ∀ z, s.consumed (s.laneStreamOf l.val) h b = some z →
    let k := hLane h
    let x := s.lane k
    (x.record = [] ∨ s.takesClass x.plan = false → ∃ t, exec (.sampleRecord l w ws b) s = .next t ∧ Logged 0x0608 s t ∧
      t = { z with flt := t.flt, lanes := t.lanes } ∧ ∀ j, SameLane (s.lane j) (t.lane j)) ∧
    (x.record ≠ [] → s.takesClass x.plan = true →
      (x.expects h = none → ∃ t, exec (.sampleRecord l w ws b) s = .next t ∧ Logged 0x0607 s t ∧
        t = { z with flt := t.flt, lanes := t.lanes } ∧ ∀ j, SameLane (s.lane j) (t.lane j)) ∧
      (∀ y, x.expects h = some y →
        (∃ t, exec (.sampleRecord l w ws b) s = .next t ∧ (t.lane k).recv = satInc x.recv ∧ (t.lane k).next = y.next ∧
          (t.lane k).expectResv = y.expectResv ∧ (t.lane k).record = x.record) ∧
        (laneKind x.record = 3 → hResv h = false → hEmpty h = false → z.classify k h b = 0 → z.sensorOk k h b.length = true →
          let q := Sparse.get [] x.sensors (hSensor h)
          ∃ t e, exec (.sampleRecord l w ws b) s = .next t ∧ Sparse.get [] (t.lane k).sensors (hSensor h) = (if 64 ≤ q.length then q.drop 1 else q) ++ [e] ∧
            e.seq = hSeq h ∧ e.payload = b ∧ (t.lane k).drop = (if 64 ≤ q.length then satInc x.drop else x.drop) ∧
            (t.lane k).posn = x.posn) ∧
        (laneKind x.record ≠ 3 → hEmpty h = false → hResv h = false → x.queue = [] → z.classify k h b = 0 →
          ∃ t e, exec (.sampleRecord l w ws b) s = .next t ∧ (t.lane k).queue = [e] ∧ e.seq = hSeq h ∧ e.payload = b ∧ e.result = none ∧
            e.reason = 0 ∧ (t.lane k).recv = satInc x.recv ∧ (t.lane k).next = y.next ∧ (t.lane k).posn = x.posn ∧
            (∀ j, j ≠ k → SameLane (s.lane j) (t.lane j)) ∧ SameCompute s t ∧ t.frm = s.frm ∧ t.plans = s.plans) ∧
        (laneKind x.record ≠ 3 → hResv h = false → x.queue = [] → x.resv = [] → z.classify k h b ≠ 0 → z.canStage k = true →
          ∃ t, exec (.sampleRecord l w ws b) s = .next t ∧ (t.lane k).recv = satInc x.recv ∧ (t.lane k).queue = [] ∧
            (t.lane k).zfill = satInc x.zfill ∧ (t.lane k).posn = satInc x.posn ∧ (t.lane k).placed = x.placed ∧ Logged 0x0604 s t ∧
            (z.classify k h b ≤ 2 → (t.lane k).odd = satInc x.odd ∧ Logged 0x0601 s t) ∧
            (2 < z.classify k h b → (t.lane k).corr = satInc x.corr))))) ∧
  (∀ (l : Fin 16) (s : State), s.runs = true →
    let k := l.val
    let x := s.lane k
    let p := x.staging.length
    let base := laneStage x.record + x.stagedAll % max 1 (s.ringSlots k) * s.posOff k (lanePpm x.record)
    let bk := s.bucket k (s.bucketAt k p)
    let n := posBytes x.record bk.1 bk.2.1
    let placed := fun t : State => (t.lane k).queue = [] ∧ (t.lane k).staging.length = p + 1 ∧ (t.lane k).posn = satInc x.posn ∧
      (∀ a, (a < base + s.posOff k p ∨ base + s.posOff k p + n ≤ a) → (a < base + 8 * p ∨ base + 8 * p + 8 ≤ a) →
        Sparse.get 0#8 t.store a = Sparse.get 0#8 s.store a)
    (∀ seq, x.working seq = none → ∀ e, exec (.decodeComplete l seq e) s = .next s) ∧
    (∀ y, x.queue = [y] → y.ready = false → hResv y.hdr = false → hEmpty y.hdr = false → x.resv = [] → s.canStage k = true →
      p + 1 < lanePpm x.record →
      (∀ e0 e1 bs, engine x.record (s.laneTab k) y = .done e0 e1 bs → hMedia y.hdr ≠ 5 ∨ e0 ≤ bk.1 →
        ∀ g, ∃ t, exec (.decodeComplete l y.seq g) s = .next t ∧ placed t ∧ (t.lane k).placed = satInc x.placed ∧ (t.lane k).corr = x.corr ∧
          (t.lane k).odd = x.odd) ∧
      (∀ e0 e1 bs, engine x.record (s.laneTab k) y = .done e0 e1 bs → hMedia y.hdr = 5 → bk.1 < e0 →
        ∀ g, ∃ t, exec (.decodeComplete l y.seq g) s = .next t ∧ placed t ∧ (t.lane k).odd = satInc x.odd ∧ (t.lane k).zfill = satInc x.zfill ∧
          (t.lane k).placed = x.placed ∧ Logged 0x0601 s t ∧ Logged 0x0604 s t) ∧
      (engine x.record (s.laneTab k) y = .corrupt → ∀ g, ∃ t, exec (.decodeComplete l y.seq g) s = .next t ∧ placed t ∧
        (t.lane k).corr = satInc x.corr ∧ (t.lane k).zfill = satInc x.zfill ∧ (t.lane k).placed = x.placed ∧ Logged 0x0602 s t ∧
        Logged 0x0604 s t)))

/-! ### Integrity -/

/-- TWIN_COMPARE: words that agree with the twin's copy are written and released; at the first that differs the word is written poisoned, and the plan
stops and is withdrawn or reported to the leader (14 R393, R394). -/
def Obligations.TwinsAreCompared : Prop :=
  ∀ (id : CoreId) (copy : List HeldWord) (tp : TwinPair) (s : State),
    let k := coreKey id
    let c := s.core k
    (s.twinPairs c.plan).find? (fun x => x.primary == k) = some tp → s.runs = true → c.active = true → (s.plan c.plan).executes = true →
    let put := fun (m : Mem) (ws : List HeldWord) => ws.foldl (fun m w => Mem.put m w.addr w.data) m
    (copy = c.twin → ∃ t, exec (.twinCompare id copy) s = .next t ∧ t.store = put s.store c.twin ∧ (t.core k).twin = [] ∧
      (∀ j, j ≠ k → t.core j = s.core j) ∧ t = { s with store := t.store, storePoison := t.storePoison, cores := t.cores }) ∧
    (∀ pre w c' ws cs, c.twin = pre ++ w :: ws → copy = pre ++ c' :: cs → w ≠ c' → ∃ t, exec (.twinCompare id copy) s = .next t ∧
      t.store = put s.store (pre ++ [w]) ∧ (∀ i ∈ wordsOf w.addr w.data.length, Sparse.get false t.storePoison i = true) ∧
      (w.line = true → ∀ i ∈ wordsOf (w.addr / 256 * 256) 256, Sparse.get false t.storePoison i = true) ∧
      Logged 0x0803 s t ∧ t.itg.twin = satInc s.itg.twin ∧ (t.plan c.plan).stopped = true ∧ (t.core k).active = false ∧
      (s.frm.leader ≠ s.dom.rank → s.sends = true → Told (.twin s.dom.rank c.plan) none s t) ∧
      (s.frm.leader = s.dom.rank → (t.plan c.plan).pstate = .withdrawn ∧ (s.sends = true → Told (.withdraw c.plan) none s t)) ∧
      t.sites = s.sites ∧ t.tiles = s.tiles)

/-- The eMMC's requests in their order, delta records, then journal records, then pattern packs: the oldest waiting delta and the oldest
buffered journal record are written in order, a failed write is logged and retried, a full delta area loses the record; a tile retires with its
delta; a pack is stored once neither waits (13 R378, 14 R397, 15 R411). -/
def Obligations.DeltasAndJournalAreWritten : Prop :=
  (∀ (d : Delta) (ds : List Delta) (s : State), s.live = true → s.itg.deltas = d :: ds →
    let still := s.itg.packStores = [] ∨ ds ≠ [] ∨ s.jrn.buf ≠ []
    let plain := d.kind ≠ 3 ∧ d.kind ≠ 7
    (d.kind = 3 → d.unit < 16 → s.boot.mapDone = true → ∃ t, exec (.deltaRecordWrite true) s = .next t ∧ (t.tile d.unit).retired = true ∧
      (s.emmc.deltaCount < deltaMax → t.emmc.deltas = s.emmc.deltas ++ [d]) ∧ ∀ k, k ≠ d.unit → (t.tile k).retired = (s.tile k).retired) ∧
    (s.emmc.deltaCount < deltaMax → plain → still → ∃ t, exec (.deltaRecordWrite true) s = .next t ∧
      t = { s with itg := { s.itg with deltas := ds }, emmc := { s.emmc with deltas := s.emmc.deltas ++ [d], deltaCount := s.emmc.deltaCount + 1 } }) ∧
    (s.emmc.deltaCount < deltaMax → plain → ds = [] → s.jrn.buf = [] → ∀ q, s.itg.packStores = [q] → ∃ t, exec (.deltaRecordWrite true) s = .next t ∧
      t.emmc.deltas = s.emmc.deltas ++ [d] ∧ t.emmc.packs = (s.emmc.packs.filter fun x => x.packId != q.packId) ++ [q] ∧
      t.itg = { s.itg with deltas := [], packStores := [] }) ∧
    (deltaMax ≤ s.emmc.deltaCount → plain → still → ∃ t, exec (.deltaRecordWrite true) s = .next t ∧ t.emmc = s.emmc ∧ t.itg.deltas = ds ∧
      t.itg.deltaFull = true ∧ (s.itg.deltaFull = false → Logged 0x0808 s t)) ∧
    (∃ t, exec (.deltaRecordWrite false) s = .next t ∧ Logged 0x0807 s t ∧ t.itg = s.itg ∧ t.emmc = s.emmc ∧ SameCompute s t ∧ SameDomain s t)) ∧
  (∀ (ok : Bool) (s : State), s.live = true → 5 ≤ s.boot.stage → s.itg.deltas ≠ [] → exec (.journalRecordWrite ok) s = .next s) ∧
  (∀ (r : JrnRec) (rs : List JrnRec) (s : State), s.live = true → 5 ≤ s.boot.stage → s.jrn.buf = r :: rs → s.itg.deltas = [] →
    (s.jrn.lostPend = 0 → r.kind ≠ 1 → s.itg.packStores = [] ∨ rs ≠ [] → ∃ t, exec (.journalRecordWrite true) s = .next t ∧
      t = { s with jrn := { s.jrn with buf := rs, ring := (r :: s.jrn.ring).take jrnRingMax } }) ∧
    (0 < s.jrn.lostPend → ∃ t e, exec (.journalRecordWrite true) s = .next t ∧ t.jrn.buf = rs ++ [e] ∧ e.index = s.jrn.next ∧ e.kind = 1 ∧
      e.body = [4, BitVec.ofNat 64 s.jrn.lostPend, 0, 0] ∧ t.jrn.lostPend = 0 ∧ t.jrn.next = s.jrn.next + 1) ∧
    (r.kind = 1 → bfld (r.body.getD 0 0) 0 8 = 4 → ∃ t, exec (.journalRecordWrite true) s = .next t ∧ Logged 0x0A02 s t) ∧
    (∃ t, exec (.journalRecordWrite false) s = .next t ∧ Logged 0x0A01 s t ∧ t.jrn = s.jrn ∧ SameCompute s t ∧ SameDomain s t))

/-! ### Start-up -/

/-- RESET_RELEASE with a reference clock and a good boot ROM: the image of the slot named by the directory is loaded and its sites start to
train; a slot that fails is left for the other; with none, or with FORCE_REC_N low, the rank runs alone in recovery (15 R409, R413, R414, R423). -/
def Obligations.ReleaseBootsAnImageOrRecovers : Prop :=
  ∀ (r : ResetIn) (s : State), s.pwr.inReset = true → (r.powerOn = true ∨ s.pwr.thermTrip = false) → r.ref100 ≠ 0#2 →
    (r.romOk = false → ∃ t, exec (.resetRelease r) s = .next t ∧ t.pwr.inReset = true ∧ t.live = false) ∧
    (r.romOk = true → r.emmcOk = false → ∃ t, exec (.resetRelease r) s = .next t ∧ t.pwr.inReset = false ∧ t.boot.stage = 3 ∧
      t.dom.rank = r.straps.val) ∧
    (r.romOk = true → r.emmcOk = true → r.forceRec = true → ∃ t, exec (.resetRelease r) s = .next t ∧ t.boot.recovery = true ∧
      t.boot.image = none ∧ t.frm.state = .stopped ∧ t.frm.leader = r.straps.val ∧ t.dom.out = true ∧ t.dom.rank = r.straps.val) ∧
    (∀ d i, r.romOk = true → r.emmcOk = true → r.forceRec = false → s.emmc.dir = some d →
      let good := fun (k : Nat) (i : Image) => s.emmc.slot k = some i ∧ (d.slot k).state = 1 ∧ i.valid s.otp = true ∧
        i.digestsOk earlySection = true
      let loaded := fun (t : State) (k : Nat) => t.boot.stage = 6 ∧ t.boot.slot = k ∧ t.boot.image = some i ∧ t.boot.cfg = i.device ∧
        t.pwr.inReset = false ∧ t.dom.rank = r.straps.val ∧ t.frm = Frm.reset ∧ t.plans = [] ∧
        (∀ j, j < 24 → (t.site j).tier = bfld (siteWord i.device j) 62 2 ∧
          (t.site j).state = if bfld (siteWord i.device j) 62 2 = 0 then .absent else .training)
      (good (d.select % 2) i → ∃ t, exec (.resetRelease r) s = .next t ∧ loaded t (d.select % 2) ∧ t.boot.fallback = false) ∧
      (s.emmc.slot (d.select % 2) = none → good (1 - d.select % 2) i → ∃ t, exec (.resetRelease r) s = .next t ∧
        loaded t (1 - d.select % 2) ∧ t.boot.fallback = true) ∧
      (s.emmc.slotA = none → s.emmc.slotB = none → ∃ t, exec (.resetRelease r) s = .next t ∧ t.boot.recovery = true ∧
        t.frm.state = .stopped ∧ t.boot.image = none))

/-- Steps 3, 6 and 7: an eMMC that does not come up is fatal; a trained site is ready and empty, a failed one is logged; the self-test leaves every
store empty and retires what failed; the fuses, the image, the eMMC and this start-up's own deltas, in this order, give each tile's
steering, the own deltas are written, and every port with a far end trains (15 R409, R423 to R425). -/
def Obligations.StartUpStepsThreeToSeven : Prop :=
  ((∀ s : State, s.runs = true → s.boot.stage = 3 → ∃ t, exec .emmcFail s = .next t ∧ Logged 0x0907 s t ∧ t.flt.fatal = true ∧
    t.runs = false) ∧
  (∀ (i : Fin 24) (s : State), s.runs = true → s.boot.stage = 6 → (s.site i.val).state = .training →
    (∃ t, exec (.siteTrainingComplete i true) s = .next t ∧ (t.site i.val).state = .ready ∧ (t.site i.val).lines = [] ∧
      (t.site i.val).tier = (s.site i.val).tier ∧ (∀ j, j ≠ i.val → t.site j = s.site j) ∧ t.boot.sitesDone.getLsbD i.val = true ∧
      (s.boot.selfTestDone = true → (∀ j, j < 24 → j ≠ i.val → (s.site j).state ≠ .training) → t.boot.stage = 7) ∧
      (s.boot.selfTestDone = false → t.boot.stage = 6)) ∧
    (∃ t, exec (.siteTrainingComplete i false) s = .next t ∧ (t.site i.val).state = .failed ∧
      (∀ j, j ≠ i.val → t.site j = s.site j) ∧ Logged 0x0312 s t)) ∧
  (∀ (r : SelfTestIn) (s : State), s.runs = true → s.boot.stage = 6 → s.boot.selfTestDone = false →
    ∃ t, exec (.selfTestComplete r) s = .next t ∧ t.store = [] ∧ t.storePoison = [] ∧ t.cores = [] ∧ t.boot.selfTestDone = true ∧
      t.itg.scratch = [] ∧ t.sites = s.sites ∧
      (∀ k, t.tile k = { s.tile k with patrol := if k < 16 ∧ (s.tile k).retired = false then s.itg.active else (s.tile k).patrol }) ∧
      (r.cores = [] → r.tiles = [] → t.boot.selfDeltas = s.boot.selfDeltas ∧ t.flt = s.flt) ∧
      (∀ k, k < 16 → r.cores = [] → r.tiles = [k] → (s.mapTile k).retired = false →
        t.boot.selfDeltas = s.boot.selfDeltas ++ [s.mkDelta 3 k 0 0 0x0906] ∧ Logged 0x0906 s t) ∧
      (∀ k a b, k < 16 → a < 74 → b < 74 → r.cores = [(k, a, b)] → r.tiles = [] → (s.mapTile k).retired = false →
        a ∉ (s.mapTile k).rows → b ∉ (s.mapTile k).cols → (s.mapTile k).rows.length < 2 →
        t.boot.selfDeltas = s.boot.selfDeltas ++ [s.mkDelta 1 k 0 a 0x0906] ∧ Logged 0x0906 s t))) ∧
  (∀ s : State, s.runs = true → s.boot.stage = 7 → ∃ t, exec .spareMapApply s = .next t ∧ t.boot.stage = 8 ∧ t.boot.mapDone = true ∧
    (let waits := fun d : Delta => s.itg.deltas.contains d
     let lost := s.boot.selfDeltas.filter fun d => !waits d && !s.emmc.deltas.contains d
     ∀ k, k < 16 → let own := s.boot.selfDeltas.filter fun d => waits d && d.unit == k
       let y := ((s.otp.fuses ++ (s.boot.image.map (·.deltas)).getD [] ++ s.emmc.deltas ++ lost).filter
         fun d => d.unit == k && d.crcOk).foldl Tile.take (s.tile k)
       t.tile k = { y with pendRows := y.pendRows ++ (own.filter (·.kind == 1)).map (·.index)
                           pendCols := y.pendCols ++ (own.filter (·.kind == 2)).map (·.index) }) ∧
    t.emmc = s.emmc ∧ t.itg = s.itg ∧
    (∀ p, p < 6 → s.dom.out = true ∨ (farEnd s.dom.shape s.dom.rank p).isSome = true → (t.port p).state = .training) ∧
    t.store = s.store ∧ t.cores = s.cores ∧ t.sites = s.sites ∧ t.plans = s.plans)

/-- PLAN_VALIDATION and READY_FRAME: each plan of the image is rejected with the code of its first failing check, or loaded; another rank's
codes reject it here as well (01 R32, R33, 15 R422, R426). -/
def Obligations.PlansAreValidatedAndLoaded : Prop :=
  (∀ (i : Image) (s : State), s.runs = true → s.boot.stage = 8 → s.dom.out = false → s.dom.roster ≠ [] → s.boot.image = some i →
    i.digestsOk (· == 6) = true → ∃ t, exec .planValidation s = .next t ∧ 9 ≤ t.boot.stage ∧ t.store = s.store ∧ t.cores = s.cores ∧
      (∀ p q, p < 4 → (i.plans[p]?).bind id = some q → (s.plan p).pstate = .absent →
        let code := s.planCode i p q
        (t.plan p).pstate = (if code ≠ 0 then .rejected else if q.start = 1 then .restoring else .absent) ∧
        (t.plan p).vcode = (if code ≠ 0 then code else (s.plan p).vcode) ∧
        (t.plan p).vrank = (if code ≠ 0 then s.dom.rank else (s.plan p).vrank) ∧
        (t.plan p).image = (if code ≠ 0 then (s.plan p).image else some q) ∧
        (t.plan p).lrtab = (if code ≠ 0 then (s.plan p).lrtab else q.lrtab) ∧ (code = 0 ∨ Logged code s t) ∧
        (code = 0 → ∀ k, k < 16 → q.hasTile k = true → (p, q.programs) ∈ (t.tile k).progs ∧ (p, q.steps, q.tables) ∈ (t.tile k).tabs))) ∧
  (∀ (g : Fin 6) (r : Fin 64) (codes : List Nat) (s : State), s.sends = true → s.dom.out = false → 8 ≤ s.boot.stage →
    s.dom.tick0 = false → (s.port g.val).up = true → (s.port g.val).stale = 0 →
    ∃ t, exec (.readyFrame (g, r) codes) s = .next t ∧ t.dom.ready.getLsbD r.val = true ∧
      (s.dom.ready.getLsbD r.val = false → ∀ q, q < 6 → q ≠ g.val → (s.port q).up = true → Out.link q (.ready r.val codes) ∈ t.tx) ∧
      (∀ k, k < 64 → s.dom.ready.getLsbD k = true → t.dom.ready.getLsbD k = true) ∧ SameCompute s t ∧
      (∀ p c, codes[p]? = some c → c ≠ 0 → (s.imagePlan p).isSome = true → (s.plan p).pstate ≠ .rejected →
        (t.plan p).pstate = .rejected ∧ (t.plan p).vcode = c ∧ (t.plan p).vrank = r.val) ∧
      (∀ p, codes.getD p 0 = 0 → (t.plan p).pstate = (s.plan p).pstate))
end

