-- ==== Sys2Proof/Laws/Sparse.lean ====
section
/-! SUPPORT. Laws of sparse maps and byte memories: a read after a write, and that every operation keeps the canonical form. -/

namespace Sys2Proof.Machine

variable {α : Type} [DecidableEq α] {d : α}

theorem Sparse.wfFrom_mono {m : Sparse α} {a b : Nat} (hab : a ≤ b) (h : Sparse.wfFrom d b m = true) : Sparse.wfFrom d a m = true := by
  cases m with
  | nil => rfl
  | cons e m => obtain ⟨k, v⟩ := e; simp only [Sparse.wfFrom, Bool.and_eq_true, decide_eq_true_eq] at h ⊢; exact ⟨⟨by omega, h.1.2⟩, h.2⟩

/-- A key that is dropped reads as the default; one that stays reads as before. -/
theorem Sparse.get_keep (p : Nat → Bool) (m : Sparse α) (i : Nat) :
    Sparse.get d (Sparse.keep p m) i = if p i then Sparse.get d m i else d := by
  induction m with
  | nil => simp [Sparse.keep, Sparse.get]
  | cons e m ih =>
    obtain ⟨k, w⟩ := e
    simp only [Sparse.keep, List.filter_cons] at ih ⊢
    by_cases hk : p k = true
    · simp only [hk, if_true, Sparse.get, ih]
      by_cases hi : i = k
      · subst hi; simp [hk]
      · simp [hi]
    · simp only [hk, if_false, Sparse.get, ih, Bool.false_eq_true]
      by_cases hi : i = k
      · subst hi; simp [hk]
      · simp [hi]

theorem Sparse.get_insert (m : Sparse α) (i : Nat) (v : α) (j : Nat) :
    Sparse.get d (Sparse.insert m i v) j = if j = i then v else Sparse.get d m j := by
  induction m with
  | nil => simp [Sparse.insert, Sparse.get]
  | cons e m ih =>
    obtain ⟨k, w⟩ := e
    simp only [Sparse.insert]
    split
    · simp [Sparse.get]
    · split
      · rename_i h1 h2; subst h2; simp only [Sparse.get]; split <;> rfl
      · rename_i h1 h2
        simp only [Sparse.get, ih]
        by_cases hj : j = k
        · subst hj; simp [Ne.symm h2]
        · simp [hj]

/-- What a key reads as after a write. -/
theorem Sparse.get_set (m : Sparse α) (i : Nat) (v : α) (j : Nat) :
    Sparse.get d (Sparse.set d m i v) j = if j = i then v else Sparse.get d m j := by
  unfold Sparse.set
  split
  · rename_i h
    rw [Sparse.get_keep]
    by_cases hj : j = i
    · simp [hj, h]
    · simp [hj]
  · exact Sparse.get_insert m i v j

/-- A read after a write to the same key gives the value written. -/
@[simp] theorem Sparse.get_set_self (m : Sparse α) (i : Nat) (v : α) : Sparse.get d (Sparse.set d m i v) i = v := by
  simp [Sparse.get_set]

/-- A write leaves every other key alone. -/
theorem Sparse.get_set_ne (m : Sparse α) {i j : Nat} (v : α) (hj : j ≠ i) :
    Sparse.get d (Sparse.set d m i v) j = Sparse.get d m j := by
  simp [Sparse.get_set, hj]

theorem Sparse.wfFrom_keep {m : Sparse α} {a : Nat} (p : Nat → Bool) (h : Sparse.wfFrom d a m = true) :
    Sparse.wfFrom d a (Sparse.keep p m) = true := by
  induction m generalizing a with
  | nil => rfl
  | cons e m ih =>
    obtain ⟨k, w⟩ := e
    simp only [Sparse.wfFrom, Bool.and_eq_true, decide_eq_true_eq] at h
    simp only [Sparse.keep, List.filter_cons] at ih ⊢
    split
    · simp only [Sparse.wfFrom, Bool.and_eq_true, decide_eq_true_eq]; exact ⟨h.1, ih h.2⟩
    · exact Sparse.wfFrom_mono (by omega) (ih h.2)

theorem Sparse.wfFrom_insert {m : Sparse α} {a i : Nat} {v : α} (hv : v ≠ d) (h : Sparse.wfFrom d a m = true) (hi : a ≤ i) :
    Sparse.wfFrom d a (Sparse.insert m i v) = true := by
  induction m generalizing a with
  | nil => simp [Sparse.insert, Sparse.wfFrom, hv, hi]
  | cons e m ih =>
    obtain ⟨k, w⟩ := e
    simp only [Sparse.wfFrom, Bool.and_eq_true, decide_eq_true_eq] at h
    simp only [Sparse.insert]
    split
    · rename_i h1
      simp [Sparse.wfFrom, hi, hv, h.1.2, h.2]; omega
    · split
      · simp_all [Sparse.wfFrom]
      · simp only [Sparse.wfFrom, Bool.and_eq_true, decide_eq_true_eq]
        exact ⟨h.1, ih h.2 (by omega)⟩

theorem Sparse.wfFrom_set {m : Sparse α} {a i : Nat} (v : α) (h : Sparse.wfFrom d a m = true) (hi : a ≤ i) :
    Sparse.wfFrom d a (Sparse.set d m i v) = true := by
  unfold Sparse.set
  split
  · exact Sparse.wfFrom_keep _ h
  · rename_i hv; exact Sparse.wfFrom_insert hv h hi

/-- A write keeps the canonical form. -/
theorem Sparse.wf_set {m : Sparse α} (i : Nat) (v : α) (h : Sparse.wf d m = true) : Sparse.wf d (Sparse.set d m i v) = true :=
  Sparse.wfFrom_set v h (Nat.zero_le _)

/-- Dropping keys keeps the canonical form. -/
theorem Sparse.wf_keep {m : Sparse α} (p : Nat → Bool) (h : Sparse.wf d m = true) : Sparse.wf d (Sparse.keep p m) = true :=
  Sparse.wfFrom_keep p h

/-- Changing values to ones that are not the default keeps the canonical form. -/
theorem Sparse.wfFrom_map {m : Sparse α} {a : Nat} (f : Nat → α → α) (hf : ∀ k v, v ≠ d → f k v ≠ d) (h : Sparse.wfFrom d a m = true) :
    Sparse.wfFrom d a (m.map fun e => (e.1, f e.1 e.2)) = true := by
  induction m generalizing a with
  | nil => rfl
  | cons e m ih =>
    obtain ⟨k, w⟩ := e
    simp only [Sparse.wfFrom, Bool.and_eq_true, decide_eq_true_eq] at h
    simp only [List.map_cons, Sparse.wfFrom, Bool.and_eq_true, decide_eq_true_eq]
    exact ⟨⟨h.1.1, hf k w h.1.2⟩, ih h.2⟩

/-- A fold of writes keeps the canonical form. -/
theorem Sparse.wf_foldl {β : Type} (l : List β) (f : Sparse α → β → Sparse α)
    (hf : ∀ m b, Sparse.wf d m = true → Sparse.wf d (f m b) = true) {m : Sparse α} (h : Sparse.wf d m = true) :
    Sparse.wf d (l.foldl f m) = true := by
  induction l generalizing m with
  | nil => exact h
  | cons b l ih => exact ih (hf m b h)

omit [DecidableEq α] in
/-- What holds of the default and of every entry holds of every read, and is kept by a write of such a value. -/
theorem Sparse.all_get {P : α → Bool} {m : Sparse α} (h : m.all (fun e => P e.2) = true) (hd : P d = true) (i : Nat) :
    P (Sparse.get d m i) = true := by
  induction m with
  | nil => exact hd
  | cons e m ih =>
    obtain ⟨k, w⟩ := e
    simp only [List.all_cons, Bool.and_eq_true] at h
    simp only [Sparse.get]
    split
    · exact h.1
    · exact ih h.2

omit [DecidableEq α] in
theorem Sparse.all_insert {P : α → Bool} {m : Sparse α} (h : m.all (fun e => P e.2) = true) (i : Nat) {v : α} (hv : P v = true) :
    (Sparse.insert m i v).all (fun e => P e.2) = true := by
  induction m with
  | nil => simp [Sparse.insert, hv]
  | cons e m ih =>
    obtain ⟨k, w⟩ := e
    simp only [List.all_cons, Bool.and_eq_true] at h
    simp only [Sparse.insert]
    split
    · simp [hv, h]
    · split
      · simp [hv, h.2]
      · simp [h.1, ih h.2]

theorem Sparse.all_set {P : α → Bool} {m : Sparse α} (h : m.all (fun e => P e.2) = true) (i : Nat) {v : α} (hv : P v = true) :
    (Sparse.set d m i v).all (fun e => P e.2) = true := by
  unfold Sparse.set
  split
  · exact List.all_eq_true.2 fun e he => List.all_eq_true.1 h e (List.mem_filter.1 he).1
  · exact Sparse.all_insert h i hv

/-- Writing bytes keeps the canonical form. -/
theorem Mem.wf_put (bs : List Byte) {m : Mem} (a : Nat) (h : Mem.wf m = true) : Mem.wf (Mem.put m a bs) = true := by
  induction bs generalizing m a with
  | nil => exact h
  | cons b bs ih => exact ih (a + 1) (Sparse.wf_set a b h)

/-- A byte outside the bytes written reads as before. -/
theorem Mem.get_put_ne (bs : List Byte) {m : Mem} {a i : Nat} (hi : i < a ∨ a + bs.length ≤ i) :
    Sparse.get 0#8 (Mem.put m a bs) i = Sparse.get 0#8 m i := by
  induction bs generalizing m a with
  | nil => rfl
  | cons b bs ih =>
    simp only [List.length_cons] at hi
    rw [Mem.put, ih (by omega), Sparse.get_set_ne m b (by omega)]

/-- A byte written reads as written. -/
theorem Mem.get_put (bs : List Byte) {m : Mem} (a j : Nat) (hj : j < bs.length) :
    Sparse.get 0#8 (Mem.put m a bs) (a + j) = bs[j] := by
  induction bs generalizing m a j with
  | nil => simp at hj
  | cons b bs ih =>
    rw [Mem.put]
    cases j with
    | zero => rw [Mem.get_put_ne bs (by omega)]; simp
    | succ j =>
      have := ih (m := Sparse.set 0#8 m a b) (a + 1) j (by simpa using hj)
      rw [show a + 1 + j = a + (j + 1) by omega] at this
      simpa using this

end Sys2Proof.Machine
end

