-- ==== Sys2Proof/Laws/Kept.lean ====
section
/-! SUPPORT. The relation `Kept` and the updates it is built from. -/

namespace Sys2Proof.Machine

theorem State.canonical_iff {s : State} : s.canonical = true ↔
    (Mem.wf s.store = true ∧ Sparse.wf false s.storePoison = true ∧ Sparse.wf PlanSt.reset s.plans = true ∧
    Sparse.wf Tile.reset s.tiles = true ∧ Sparse.wf Core.reset s.cores = true ∧ Sparse.wf Site.reset s.sites = true ∧
    Sparse.wf Port.reset s.ports = true ∧ Sparse.wf Lane.reset s.lanes = true) ∧
    s.tiles.all (fun e => e.2.canonical) = true ∧ s.cores.all (fun e => e.2.canonical) = true ∧
    s.sites.all (fun e => e.2.canonical) = true ∧ s.flt.canonical = true := by
  simp only [State.canonical, Bool.and_eq_true, and_assoc]

variable {s : State} (c : s.canonical = true)
include c

/-- The parts of a canonical state are canonical. -/
theorem State.canonical_tile (t : Nat) : (s.tile t).canonical = true := Sparse.all_get (State.canonical_iff.1 c).2.1 rfl t
theorem State.canonical_core (k : Nat) : (s.core k).canonical = true := Sparse.all_get (State.canonical_iff.1 c).2.2.1 rfl k
theorem State.canonical_site (i : Nat) : (s.site i).canonical = true := Sparse.all_get (State.canonical_iff.1 c).2.2.2.1 rfl i
theorem State.canonical_flt : s.flt.canonical = true := (State.canonical_iff.1 c).2.2.2.2

omit c

/-- A function that keeps a tile, a core or a site canonical. -/
structure TileStep (f : Tile → Tile) : Prop where
  all : ∀ x, x.canonical = true → (f x).canonical = true
structure CoreStep (f : Core → Core) : Prop where
  all : ∀ x, x.canonical = true → (f x).canonical = true
structure SiteStep (f : Site → Site) : Prop where
  all : ∀ x, x.canonical = true → (f x).canonical = true
/-- A value that is canonical where the state, and the one it came from, are. -/
structure CanonTile (r s : State) (x : Tile) : Prop where
  all : r.canonical = true → s.canonical = true → x.canonical = true
structure CanonCore (r s : State) (x : Core) : Prop where
  all : r.canonical = true → s.canonical = true → x.canonical = true
structure CanonSite (r s : State) (x : Site) : Prop where
  all : r.canonical = true → s.canonical = true → x.canonical = true
/-- A fault unit that is canonical where the state's is. -/
structure CanonFlt (s : State) (f : FaultUnit) : Prop where
  all : s.flt.canonical = true → f.canonical = true

theorem Kept.refl (s : State) : Kept s s :=
  ⟨rfl, rfl, rfl, rfl, ⟨rfl, rfl⟩, rfl, fun _ h => h, List.prefix_rfl, Nat.le_refl _, id⟩

theorem Kept.trans {r s t : State} (h : Kept r s) (k : Kept s t) : Kept r t :=
  ⟨k.queue.trans h.queue, k.time.trans h.time, k.keys.trans h.keys, k.serial.trans h.serial,
   ⟨k.macs.1.trans h.macs.1, k.macs.2.trans h.macs.2⟩, k.fuses.trans h.fuses, fun i x => k.revoked i (h.revoked i x),
   h.sent.trans k.sent, Nat.le_trans h.fresh k.fresh, k.canon ∘ h.canon⟩

/-- An update of fields that `Kept` says nothing of. -/
theorem Kept.update {r t : State} (h : Kept r t) {clk : Clk} (hc : clk.now = t.clk.now) {pwr dev flt frm dom host dir jrn img win0 win1 itg emmc boot}
    (hf : CanonFlt t flt := by exact ⟨fun h => h⟩) :
    Kept r (State.mk t.pending clk pwr dev flt frm t.plans t.tiles t.store t.storePoison t.cores t.sites t.ports dom t.lanes host dir jrn
      img win0 win1 itg emmc t.otp boot t.tx t.draws) :=
  ⟨h.queue, hc.trans h.time, h.keys, h.serial, h.macs, h.fuses, h.revoked, h.sent, h.fresh, fun x =>
    have c := State.canonical_iff.1 (h.canon x)
    State.canonical_iff.2 ⟨c.1, c.2.1, c.2.2.1, c.2.2.2.1, hf.all c.2.2.2.2⟩⟩

/-- An update of the maps too, each into canonical form. -/
theorem Kept.mapsR {r t : State} (h : Kept r t) {clk : Clk} (hc : clk.now = t.clk.now)
    {pwr dev flt frm dom host dir jrn img win0 win1 itg emmc boot plans tiles store storePoison cores sites ports lanes}
    (hm : r.canonical = true → t.canonical = true →
      (Mem.wf store = true ∧ Sparse.wf false storePoison = true ∧ Sparse.wf PlanSt.reset plans = true ∧
      Sparse.wf Tile.reset tiles = true ∧ Sparse.wf Core.reset cores = true ∧ Sparse.wf Site.reset sites = true ∧
      Sparse.wf Port.reset ports = true ∧ Sparse.wf Lane.reset lanes = true) ∧
      tiles.all (fun e => e.2.canonical) = true ∧ cores.all (fun e => e.2.canonical) = true ∧
      sites.all (fun e => e.2.canonical) = true ∧ flt.canonical = true) :
    Kept r (State.mk t.pending clk pwr dev flt frm plans tiles store storePoison cores sites ports dom lanes host dir jrn
      img win0 win1 itg emmc t.otp boot t.tx t.draws) :=
  ⟨h.queue, hc.trans h.time, h.keys, h.serial, h.macs, h.fuses, h.revoked, h.sent, h.fresh,
   fun x => State.canonical_iff.2 (hm x (h.canon x))⟩

theorem Kept.maps {r t : State} (h : Kept r t) {clk : Clk} (hc : clk.now = t.clk.now)
    {pwr dev flt frm dom host dir jrn img win0 win1 itg emmc boot plans tiles store storePoison cores sites ports lanes}
    (hm : t.canonical = true →
      (Mem.wf store = true ∧ Sparse.wf false storePoison = true ∧ Sparse.wf PlanSt.reset plans = true ∧
      Sparse.wf Tile.reset tiles = true ∧ Sparse.wf Core.reset cores = true ∧ Sparse.wf Site.reset sites = true ∧
      Sparse.wf Port.reset ports = true ∧ Sparse.wf Lane.reset lanes = true) ∧
      tiles.all (fun e => e.2.canonical) = true ∧ cores.all (fun e => e.2.canonical) = true ∧
      sites.all (fun e => e.2.canonical) = true ∧ flt.canonical = true) :
    Kept r (State.mk t.pending clk pwr dev flt frm plans tiles store storePoison cores sites ports dom lanes host dir jrn
      img win0 win1 itg emmc t.otp boot t.tx t.draws) :=
  h.mapsR hc fun _ => hm

theorem Kept.foldl {α : Type} {r : State} {f : State → α → State} (hf : ∀ s a, Kept r s → Kept r (f s a)) (l : List α) {s : State}
    (h : Kept r s) : Kept r (l.foldl f s) := by
  induction l generalizing s with
  | nil => exact h
  | cons a l ih => exact ih (hf s a h)

theorem Kept.pair {β : Type} {r t : State} {p : State × β} {y : β} (e : p = (t, y)) (h : Kept r p.1) : Kept r t := by
  cases e; exact h

/-- The state that an operation may give. -/
structure KeptO (r : State) (o : Option State) : Prop where
  all : ∀ t, o = some t → Kept r t

theorem KeptO.some {r t : State} (h : Kept r t) : KeptO r (some t) := ⟨fun _ e => by cases e; exact h⟩
theorem KeptO.none {r : State} : KeptO r none := ⟨fun _ e => by cases e⟩
theorem KeptO.get {r t : State} {o : Option State} (h : KeptO r o) (e : o = .some t) : Kept r t := h.all t e
theorem KeptO.getD {r s : State} {o : Option State} (h : KeptO r o) (k : Kept r s) : Kept r (o.getD s) := by
  cases o with
  | none => exact k
  | some t => exact h.all t rfl

variable {r s : State} (h : Kept r s)
include h

theorem State.setPlan_kept (p : Nat) (x : PlanSt) : Kept r (s.setPlan p x) :=
  h.maps rfl fun c => by rw [State.canonical_iff] at c; simp only [c, Sparse.wf_set, and_self]
theorem State.setTile_kept (p : Nat) (x : Tile) (hx : CanonTile r s x := by exact ⟨fun _ c => State.canonical_tile c _⟩) : Kept r (s.setTile p x) :=
  h.mapsR rfl fun a c => by
    have hx := hx.all a c
    rw [State.canonical_iff] at c
    simp only [c, Sparse.wf_set, and_self, and_true, true_and]
    exact Sparse.all_set (P := Tile.canonical) (by simp only [c]) p hx
theorem State.setCore_kept (p : Nat) (x : Core) (hx : CanonCore r s x := by exact ⟨fun _ c => State.canonical_core c _⟩) : Kept r (s.setCore p x) :=
  h.mapsR rfl fun a c => by
    have hx := hx.all a c
    rw [State.canonical_iff] at c
    simp only [c, Sparse.wf_set, and_self, and_true, true_and]
    exact Sparse.all_set (P := Core.canonical) (by simp only [c]) p hx
theorem State.setSite_kept (p : Nat) (x : Site) (hx : CanonSite r s x := by exact ⟨fun _ c => State.canonical_site c _⟩) : Kept r (s.setSite p x) :=
  h.mapsR rfl fun a c => by
    have hx := hx.all a c
    rw [State.canonical_iff] at c
    simp only [c, Sparse.wf_set, and_self, and_true, true_and]
    exact Sparse.all_set (P := Site.canonical) (by simp only [c]) p hx
theorem State.setPort_kept (p : Nat) (x : Port) : Kept r (s.setPort p x) :=
  h.maps rfl fun c => by rw [State.canonical_iff] at c; simp only [c, Sparse.wf_set, and_self]
theorem State.setLane_kept (p : Nat) (x : Lane) : Kept r (s.setLane p x) :=
  h.maps rfl fun c => by rw [State.canonical_iff] at c; simp only [c, Sparse.wf_set, and_self]
theorem State.modPlan_kept (p : Nat) (f : PlanSt → PlanSt) : Kept r (s.modPlan p f) := State.setPlan_kept h p _
theorem State.modTile_kept (p : Nat) (f : Tile → Tile) (hf : TileStep f := by exact ⟨fun _ h => h⟩) : Kept r (s.modTile p f) :=
  State.setTile_kept h p _ ⟨fun _ c => hf.all _ (State.canonical_tile c p)⟩
theorem State.modCore_kept (p : Nat) (f : Core → Core) (hf : CoreStep f := by exact ⟨fun _ h => h⟩) : Kept r (s.modCore p f) :=
  State.setCore_kept h p _ ⟨fun _ c => hf.all _ (State.canonical_core c p)⟩
theorem State.modSite_kept (p : Nat) (f : Site → Site) (hf : SiteStep f := by exact ⟨fun _ h => h⟩) : Kept r (s.modSite p f) :=
  State.setSite_kept h p _ ⟨fun _ c => hf.all _ (State.canonical_site c p)⟩
theorem State.modPort_kept (p : Nat) (f : Port → Port) : Kept r (s.modPort p f) := State.setPort_kept h p _
theorem State.modLane_kept (p : Nat) (f : Lane → Lane) : Kept r (s.modLane p f) := State.setLane_kept h p _
theorem State.modFrm_kept (f : Frm → Frm) : Kept r (s.modFrm f) := h.update rfl
theorem State.setWin_kept (p : Nat) (w : Window) : Kept r (s.setWin p w) := by
  unfold State.setWin; split <;> exact h.update rfl
theorem State.send_kept (o : Out) : Kept r (s.send o) :=
  ⟨h.queue, h.time, h.keys, h.serial, h.macs, h.fuses, h.revoked, h.sent.trans (List.prefix_append _ _), h.fresh, h.canon⟩

end Sys2Proof.Machine
end

