-- ==== Sys2Proof/Laws/Canon.lean ====
section
/-! SUPPORT. What changes a tile, a core, a site or the fault unit keeps its maps in canonical form. -/

namespace Sys2Proof.Machine

/-! ### Marks -/

theorem putMarks_wf {m : Sparse Bool} (a : Nat) (ps : List Bool) (h : Sparse.wf false m = true) : Sparse.wf false (putMarks m a ps) = true := by
  unfold putMarks
  refine Sparse.wf_foldl _ _ (fun m w hm => ?_) h
  dsimp only
  (repeat' split) <;> first | exact Sparse.wf_set _ _ hm | exact hm

theorem putMark_wf {m : Sparse Bool} (a n : Nat) (p : Bool) (h : Sparse.wf false m = true) : Sparse.wf false (putMark m a n p) = true := by
  unfold putMark
  refine Sparse.wf_foldl _ _ (fun m w hm => ?_) h
  (repeat' split) <;> first | exact Sparse.wf_set _ _ hm | exact hm

/-! ### The fault unit -/

theorem FaultUnit.canonical_iff {f : FaultUnit} : f.canonical = true ↔
    Sparse.wf 0 f.perFrame = true ∧ Sparse.wf 0 f.unsummed = true ∧ Sparse.wf 0#16 f.last = true := by
  simp only [FaultUnit.canonical, Bool.and_eq_true, and_assoc]

theorem FaultUnit.count_canonical {f : FaultUnit} (h : f.canonical = true) (k : Nat) : (f.count k).canonical = true := by
  unfold FaultUnit.count; split <;> exact h

theorem FaultUnit.mark_canonical {f : FaultUnit} (h : f.canonical = true) (a : FaultArg) : (f.mark a).canonical = true := by
  have c := FaultUnit.canonical_iff.1 h
  have m : Sparse.wf 0#16 ((lastKeys a).foldl (fun m k => Sparse.set 0#16 m k (BitVec.ofNat 16 a.code)) f.last) = true :=
    Sparse.wf_foldl _ _ (fun _ _ hm => Sparse.wf_set _ _ hm) c.2.2
  unfold FaultUnit.mark
  dsimp only
  split <;> exact FaultUnit.canonical_iff.2 ⟨c.1, c.2.1, m⟩

theorem FaultUnit.occur_canonical {f : FaultUnit} (h : f.canonical = true) (a : FaultArg) (r : FaultRec) : (f.occur a r).canonical = true := by
  have c := FaultUnit.canonical_iff.1 (FaultUnit.count_canonical h a.class)
  have p : Sparse.wf 0 (Sparse.set 0 f.perFrame a.code (Sparse.get 0 f.perFrame a.code + 1)) = true :=
    Sparse.wf_set _ _ (FaultUnit.canonical_iff.1 h).1
  unfold FaultUnit.occur
  dsimp only
  split
  · refine FaultUnit.mark_canonical ?_ _
    unfold FaultUnit.push
    exact FaultUnit.canonical_iff.2 ⟨p, c.2⟩
  · refine FaultUnit.canonical_iff.2 ⟨p, ?_, c.2.2⟩
    dsimp only
    exact Sparse.wf_set _ _ c.2.1

theorem State.raise_canonFlt (s : State) (a : FaultArg) : CanonFlt s (s.raise a).flt := by
  constructor
  intro h
  unfold State.raise
  dsimp only
  split
  · exact FaultUnit.occur_canonical (f := { s.flt.occur a (s.mkRec a false) with overflowed := true }) (FaultUnit.occur_canonical h _ _) _ _
  · exact FaultUnit.occur_canonical h _ _

/-! ### Tiles -/

theorem Tile.canonical_iff {x : Tile} : x.canonical = true ↔ Sparse.wf 0#24 x.tok = true ∧ Sparse.wf 0#32 x.cw = true := by
  simp only [Tile.canonical, Bool.and_eq_true]

/-- A write of a token counter, and counters dropped. -/
theorem Tile.tok_set {x : Tile} (h : x.canonical = true) (i : Nat) (v : BitVec 24) :
    ({ x with tok := Sparse.set 0#24 x.tok i v } : Tile).canonical = true :=
  Tile.canonical_iff.2 ⟨Sparse.wf_set i v (Tile.canonical_iff.1 h).1, (Tile.canonical_iff.1 h).2⟩
theorem Tile.tok_keep {x : Tile} (h : x.canonical = true) (p : Nat → Bool) :
    ({ x with tok := Sparse.keep p x.tok } : Tile).canonical = true :=
  Tile.canonical_iff.2 ⟨Sparse.wf_keep p (Tile.canonical_iff.1 h).1, (Tile.canonical_iff.1 h).2⟩
theorem Tile.cw_set {x : Tile} (h : x.canonical = true) (i : Nat) (v : W32) :
    ({ x with cw := Sparse.set 0#32 x.cw i v } : Tile).canonical = true :=
  Tile.canonical_iff.2 ⟨(Tile.canonical_iff.1 h).1, Sparse.wf_set i v (Tile.canonical_iff.1 h).2⟩

theorem Tile.takePll_canonical {x : Tile} (h : x.canonical = true) (k : Nat) : (x.takePll k).canonical = true := by
  unfold Tile.takePll; (repeat' split) <;> exact h
theorem Tile.take_canonical {x : Tile} (h : x.canonical = true) (d : Delta) : (x.take d).canonical = true := by
  unfold Tile.take; (repeat' split) <;> first | exact h | exact Tile.takePll_canonical h _

/-! ### Sites -/

theorem Site.putLine_canonical {z : Site} (h : z.canonical = true) (i : Nat) (l : Line) : (z.putLine i l).canonical = true :=
  Sparse.wf_set (m := z.lines) i l h

/-- A site that lists no line. -/
theorem Site.empty_canonical {z : Site} (h : z.lines = []) : z.canonical = true := by
  unfold Site.canonical; rw [h]; rfl

/-! ### Cores -/

theorem Core.canonical_iff {c : Core} : c.canonical = true ↔
    Mem.wf c.pocket = true ∧ Sparse.wf false c.pocketPoison = true ∧ Sparse.wf none c.acc = true ∧ Sparse.wf 0#32 c.vr = true ∧
    Sparse.wf false c.vpoison = true ∧ Sparse.wf 0#16 c.kr = true ∧ Sparse.wf 0#32 c.ar = true := by
  simp only [Core.canonical, Bool.and_eq_true, and_assoc]

variable {c : Core} (h : c.canonical = true)
include h

theorem Core.setAreg_canonical (i : Nat) (v : W32) : (c.setAreg i v).canonical = true := by
  have k := Core.canonical_iff.1 h
  unfold Core.setAreg
  split
  · exact h
  · exact Core.canonical_iff.2 ⟨k.1, k.2.1, k.2.2.1, k.2.2.2.1, k.2.2.2.2.1, k.2.2.2.2.2.1, Sparse.wf_set _ _ k.2.2.2.2.2.2⟩
theorem Core.incAreg_canonical (i f l u : Nat) : (c.incAreg i f l u).canonical = true := Core.setAreg_canonical h _ _
theorem Core.setKreg_canonical (i : Nat) (v : BitVec 16) : (c.setKreg i v).canonical = true := by
  have k := Core.canonical_iff.1 h
  unfold Core.setKreg
  split
  · exact h
  · exact Core.canonical_iff.2 ⟨k.1, k.2.1, k.2.2.1, k.2.2.2.1, k.2.2.2.2.1, Sparse.wf_set _ _ k.2.2.2.2.2.1, k.2.2.2.2.2.2⟩
theorem Core.setVreg_canonical (v : Nat) (l : List W32) : (c.setVreg v l).canonical = true := by
  have k := Core.canonical_iff.1 h
  exact Core.canonical_iff.2 ⟨k.1, k.2.1, k.2.2.1, Sparse.wf_foldl _ _ (fun _ _ hm => Sparse.wf_set _ _ hm) k.2.2.2.1, k.2.2.2.2⟩
theorem Core.markV_canonical (v : Nat) (b : Bool) : (c.markV v b).canonical = true := by
  have k := Core.canonical_iff.1 h
  exact Core.canonical_iff.2 ⟨k.1, k.2.1, k.2.2.1, k.2.2.2.1, Sparse.wf_set _ _ k.2.2.2.2.1, k.2.2.2.2.2⟩
theorem Core.setHandle_canonical (i : Nat) (a : Option AccTile) : (c.setHandle i a).canonical = true := by
  have k := Core.canonical_iff.1 h
  exact Core.canonical_iff.2 ⟨k.1, k.2.1, Sparse.wf_set _ _ k.2.2.1, k.2.2.2⟩
theorem Core.putPocket_canonical (a : Nat) (bs : List (Byte × Bool)) : (c.putPocket a bs).canonical = true := by
  have k := Core.canonical_iff.1 h
  exact Core.canonical_iff.2 ⟨Mem.wf_put _ _ k.1, putMarks_wf _ _ k.2.1, k.2.2⟩
/-- Pocket and marks replaced. -/
theorem Core.pocket_canonical {m : Mem} {p : Sparse Bool} (hm : Mem.wf m = true) (hp : Sparse.wf false p = true) :
    ({ c with pocket := m, pocketPoison := p } : Core).canonical = true :=
  Core.canonical_iff.2 ⟨hm, hp, (Core.canonical_iff.1 h).2.2⟩
theorem Core.retire_canonical (lat : Nat) : (c.retire lat).canonical = true := h
theorem Core.unbind_canonical : ({ c with acc := [] } : Core).canonical = true := by
  have k := Core.canonical_iff.1 h
  exact Core.canonical_iff.2 ⟨k.1, k.2.1, rfl, k.2.2.2⟩
theorem Core.begin_canonical (i : Nat) (e : SlotEntry) (t l : Nat) : (c.begin i e t l).canonical = true := by
  have k := Core.canonical_iff.1 h
  exact Core.canonical_iff.2 ⟨k.1, k.2.1, rfl, rfl, rfl, rfl, rfl⟩

end Sys2Proof.Machine
end

