-- ==== Sys2Proof/Laws/WordsKept.lean ====
section
/-! SUPPORT. Each operation of Machine/Words.lean leaves what `Kept` says as it is. -/

namespace Sys2Proof.Machine

theorem State.readClear_kept {s₀ s : State} (h₀ : Kept s₀ s) (a : Nat) : Kept s₀ (State.readClear s a) := by
  unfold State.readClear
  repeat' (first | with_reducible assumption | ((with_reducible refine Kept.update ?_ ?_ (hf := ?_)) <;> first | with_reducible assumption | exact rfl | exact ⟨fun h => h⟩) | exact ⟨fun _ hy => hy⟩ | exact ⟨fun a _ => State.canonical_tile (Kept.canon ‹_› a) _⟩ | exact ⟨fun _ c => State.canonical_tile c _⟩ | refine TileStep.mk fun _ hy => ?_ | refine CanonTile.mk fun ha hy => ?_ | exact ⟨fun _ hy => hy⟩ | exact ⟨fun a _ => State.canonical_site (Kept.canon ‹_› a) _⟩ | exact ⟨fun _ c => State.canonical_site c _⟩ | refine SiteStep.mk fun _ hy => ?_ | refine CanonSite.mk fun ha hy => ?_ | with_reducible exact hy | with_reducible apply Tile.tok_set | with_reducible apply Tile.tok_keep | with_reducible apply Tile.cw_set | exact hy | exact State.canonical_tile hy _ | exact State.canonical_tile (Kept.canon ‹_› ha) _ | with_reducible exact hy | exact hy | exact State.canonical_site hy _ | exact State.canonical_site (Kept.canon ‹_› ha) _ | with_reducible apply idle_kept | with_reducible apply State.modPlan_kept | with_reducible apply State.modTile_kept | with_reducible apply State.modSite_kept | with_reducible apply State.modPort_kept | ((try lift_lets); intro z; try (refine (have hz : Kept s₀ z := ?_; ?_))) | split | subst z)

end Sys2Proof.Machine
end

