-- ==== Sys2Proof/Laws/OpsKept.lean ====
section
/-! SUPPORT. Each operation of Machine/Ops.lean leaves what `Kept` says as it is. -/

namespace Sys2Proof.Machine

theorem State.raise_with (s : State) (a : FaultArg) : { s with flt := (s.raise a).flt } = s.raise a := by
  unfold State.raise
  dsimp only
  split <;> rfl

theorem State.raise_kept {r s : State} (h : Kept r s) (a : FaultArg) : Kept r (State.raise s a) := by
  have k : Kept r { s with flt := (s.raise a).flt } := h.update rfl (State.raise_canonFlt s a)
  rwa [State.raise_with] at k

theorem State.reportDone_kept {s₀ s : State} (h₀ : Kept s₀ s) : Kept s₀ (State.reportDone s) := by
  unfold State.reportDone
  repeat' (first | with_reducible assumption | ((with_reducible refine Kept.update ?_ ?_ (hf := ?_)) <;> first | with_reducible assumption | exact rfl | exact ⟨fun h => h⟩) | with_reducible apply State.modFrm_kept | with_reducible apply State.send_kept | ((try lift_lets); intro z; try (refine (have hz : Kept s₀ z := ?_; ?_))) | split | subst z)

theorem State.stopCores_kept {r s : State} (h : Kept r s) (p : Nat) : Kept r (State.stopCores s p) :=
  h.maps rfl fun c => by
    simp only [State.canonical_iff] at c
    refine ⟨⟨c.1.1, c.1.2.1, c.1.2.2.1, c.1.2.2.2.1, ?_, c.1.2.2.2.2.2⟩, c.2.1, ?_, c.2.2.2⟩
    · refine Sparse.wfFrom_map (fun _ (v : Core) => if v.active && v.plan == p then v.stopped else v) (fun k v hv => ?_) c.1.2.2.2.2.1
      split
      · exact fun e => Bool.noConfusion (congrArg Core.ended e)
      · exact hv
    · refine List.all_eq_true.2 fun e he => ?_
      obtain ⟨x, hx, rfl⟩ := List.mem_map.1 he
      have k := List.all_eq_true.1 c.2.2.1 x hx
      dsimp only
      split <;> exact k

theorem State.stopPlan_kept {s₀ s : State} (h₀ : Kept s₀ s) (p : Nat) : Kept s₀ (State.stopPlan s p) := by
  unfold State.stopPlan
  repeat' (first | with_reducible assumption | ((with_reducible refine Kept.update ?_ ?_ (hf := ?_)) <;> first | with_reducible assumption | exact rfl | exact ⟨fun h => h⟩) | with_reducible apply State.modPlan_kept | with_reducible apply State.stopCores_kept | with_reducible apply State.modFrm_kept | with_reducible apply State.reportDone_kept | ((try lift_lets); intro z; try (refine (have hz : Kept s₀ z := ?_; ?_))) | split | subst z)

theorem State.contain_kept {s₀ s : State} (h₀ : Kept s₀ s) (p : Nat) (code : Nat) : Kept s₀ (State.contain s p code) := by
  unfold State.contain
  repeat' (first | with_reducible assumption | ((with_reducible refine Kept.update ?_ ?_ (hf := ?_)) <;> first | with_reducible assumption | exact rfl | exact ⟨fun h => h⟩) | with_reducible apply State.stopPlan_kept | with_reducible apply State.modPlan_kept | ((try lift_lets); intro z; try (refine (have hz : Kept s₀ z := ?_; ?_))) | subst z)

theorem State.halting_kept {s₀ s : State} (h₀ : Kept s₀ s) (cause : Nat) : Kept s₀ (State.halting s cause) := by
  unfold State.halting
  repeat' (first | with_reducible assumption | ((with_reducible refine Kept.update ?_ ?_ (hf := ?_)) <;> first | with_reducible assumption | exact rfl | exact ⟨fun h => h⟩) | ((try lift_lets); intro z; try (refine (have hz : Kept s₀ z := ?_; ?_))) | subst z)

theorem State.fatal_kept {s₀ s : State} (h₀ : Kept s₀ s) : Kept s₀ (State.fatal s) := by
  unfold State.fatal
  repeat' (first | with_reducible assumption | ((with_reducible refine Kept.update ?_ ?_ (hf := ?_)) <;> first | with_reducible assumption | exact rfl | exact ⟨fun h => h⟩) | with_reducible apply State.stopPlan_kept | with_reducible refine Kept.foldl (fun _ _ _ => ?_) _ ?_ | ((try lift_lets); intro z; try (refine (have hz : Kept s₀ z := ?_; ?_))) | subst z)

theorem State.fault_kept {s₀ s : State} (h₀ : Kept s₀ s) (a : FaultArg) : Kept s₀ (State.fault s a) := by
  unfold State.fault
  repeat' (first | with_reducible assumption | ((with_reducible refine Kept.update ?_ ?_ (hf := ?_)) <;> first | with_reducible assumption | exact rfl | exact ⟨fun h => h⟩) | with_reducible apply State.raise_kept | with_reducible apply State.contain_kept | with_reducible apply State.halting_kept | with_reducible apply State.fatal_kept | ((try lift_lets); intro z; try (refine (have hz : Kept s₀ z := ?_; ?_))) | split | subst z)

theorem State.putStore_kept {r s : State} (h : Kept r s) (a : Nat) (bs : List Byte) (poison : Bool) : Kept r (State.putStore s a bs poison) :=
  h.maps rfl fun c => by
    simp only [State.canonical_iff] at c
    exact ⟨⟨Mem.wf_put bs a c.1.1, putMark_wf a _ poison c.1.2.1, c.1.2.2⟩, c.2⟩

theorem State.poisonLine_kept {r s : State} (h : Kept r s) (a : Nat) : Kept r (State.poisonLine s a) :=
  h.maps rfl fun c => by
    simp only [State.canonical_iff] at c
    exact ⟨⟨c.1.1, putMark_wf a _ _ c.1.2.1, c.1.2.2⟩, c.2⟩

theorem State.tilFaultAt_kept {s₀ s : State} (h₀ : Kept s₀ s) (k : Nat) (code : Nat) (pc : Nat) : Kept s₀ (State.tilFaultAt s k code pc) := by
  unfold State.tilFaultAt
  repeat' (first | with_reducible assumption | ((with_reducible refine Kept.update ?_ ?_ (hf := ?_)) <;> first | with_reducible assumption | exact rfl | exact ⟨fun h => h⟩) | exact ⟨fun _ hy => hy⟩ | exact ⟨fun a _ => State.canonical_tile (Kept.canon ‹_› a) _⟩ | exact ⟨fun _ c => State.canonical_tile c _⟩ | refine TileStep.mk fun _ hy => ?_ | refine CanonTile.mk fun ha hy => ?_ | with_reducible exact hy | with_reducible apply Tile.tok_set | with_reducible apply Tile.tok_keep | with_reducible apply Tile.cw_set | exact hy | exact State.canonical_tile hy _ | exact State.canonical_tile (Kept.canon ‹_› ha) _ | with_reducible apply State.modTile_kept | with_reducible apply State.fault_kept | ((try lift_lets); intro z; try (refine (have hz : Kept s₀ z := ?_; ?_))) | split | subst z)

theorem State.tilFault_kept {s₀ s : State} (h₀ : Kept s₀ s) (k : Nat) (code : Nat) : Kept s₀ (State.tilFault s k code) := by
  unfold State.tilFault
  repeat' (first | with_reducible assumption | with_reducible apply State.tilFaultAt_kept)

theorem State.coreFaultAt_kept {s₀ s : State} (h₀ : Kept s₀ s) (k : Nat) (code : Nat) (pc : Nat) : Kept s₀ (State.coreFaultAt s k code pc) := by
  unfold State.coreFaultAt
  repeat' (first | with_reducible assumption | with_reducible apply State.tilFaultAt_kept | with_reducible apply State.fault_kept | ((try lift_lets); intro z; try (refine (have hz : Kept s₀ z := ?_; ?_))) | subst z)

theorem State.coreFault_kept {s₀ s : State} (h₀ : Kept s₀ s) (k : Nat) (code : Nat) : Kept s₀ (State.coreFault s k code) := by
  unfold State.coreFault
  repeat' (first | with_reducible assumption | with_reducible apply State.coreFaultAt_kept)

theorem State.siteRange_kept {s₀ s : State} (h₀ : Kept s₀ s) (p : Nat) (a : Nat) : Kept s₀ (State.siteRange s p a) := by
  unfold State.siteRange
  repeat' (first | with_reducible assumption | with_reducible apply State.fault_kept | ((try lift_lets); intro z; try (refine (have hz : Kept s₀ z := ?_; ?_))) | split | subst z)

theorem State.accessRaise_kept {s₀ s : State} (h₀ : Kept s₀ s) (p : Nat) (code : Nat) (a : Nat) (unitk : Nat) (unit : Nat) : Kept s₀ (State.accessRaise s p code a unitk unit) := by
  unfold State.accessRaise
  repeat' (first | with_reducible assumption | with_reducible apply State.siteRange_kept | with_reducible apply State.fault_kept | split)

theorem State.coreAccess_kept {s₀ s : State} (h₀ : Kept s₀ s) (k : Nat) (code : Nat) (a : Nat) : Kept s₀ (State.coreAccess s k code a) := by
  unfold State.coreAccess
  repeat' (first | with_reducible assumption | with_reducible apply State.tilFault_kept | with_reducible apply State.siteRange_kept | with_reducible apply State.coreFault_kept | split)

theorem State.addToken_kept {r s : State} (h : Kept r s) (p t tok inc : Nat) : KeptO r (State.addToken s p t tok inc) := by
  unfold State.addToken
  dsimp only
  split
  · exact KeptO.some (State.modPlan_kept (State.modTile_kept h t _ ⟨fun _ hy => Tile.tok_set hy _ _⟩) p _)
  · exact KeptO.none

theorem State.issueToken_kept {s₀ s : State} (h₀ : Kept s₀ s) (p : Nat) (inc : Nat) : Kept s₀ (State.issueToken s p inc) := by
  unfold State.issueToken
  repeat' (first | with_reducible assumption | ((with_reducible refine Kept.update ?_ ?_ (hf := ?_)) <;> first | with_reducible assumption | exact rfl | exact ⟨fun h => h⟩) | with_reducible apply State.modPlan_kept | ((try lift_lets); intro z; try (refine (have hz : Kept s₀ z := ?_; ?_))) | subst z)

theorem State.appendDelta_kept {s₀ s : State} (h₀ : Kept s₀ s) (d : Delta) : Kept s₀ (State.appendDelta s d) := by
  unfold State.appendDelta
  repeat' (first | with_reducible assumption | ((with_reducible refine Kept.update ?_ ?_ (hf := ?_)) <;> first | with_reducible assumption | exact rfl | exact ⟨fun h => h⟩) | with_reducible apply State.fault_kept | ((try lift_lets); intro z; try (refine (have hz : Kept s₀ z := ?_; ?_))) | split | subst z)

theorem State.queueDelta_kept {s₀ s : State} (h₀ : Kept s₀ s) (d : Delta) : Kept s₀ (State.queueDelta s d) := by
  unfold State.queueDelta
  repeat' (first | with_reducible assumption | ((with_reducible refine Kept.update ?_ ?_ (hf := ?_)) <;> first | with_reducible assumption | exact rfl | exact ⟨fun h => h⟩) | ((try lift_lets); intro z; try (refine (have hz : Kept s₀ z := ?_; ?_))) | subst z)

end Sys2Proof.Machine
end

