-- ==== Sys2Proof/Laws/LineKept.lean ====
section
/-! SUPPORT. Each operation of Machine/Line.lean leaves what `Kept` says as it is. -/

namespace Sys2Proof.Machine

theorem State.siteFault_kept {s₀ s : State} (h₀ : Kept s₀ s) (code : Nat) (i : Nat) (line : Nat) (plan : Option Nat) (cls : Option Nat) : Kept s₀ (State.siteFault s code i line plan cls) := by
  unfold State.siteFault
  repeat' (first | with_reducible assumption | with_reducible apply State.fault_kept)

theorem State.holdSite_kept {s₀ s : State} (h₀ : Kept s₀ s) (i : Nat) : Kept s₀ (State.holdSite s i) := by
  unfold State.holdSite
  repeat' (first | with_reducible assumption | ((with_reducible refine Kept.update ?_ ?_ (hf := ?_)) <;> first | with_reducible assumption | exact rfl | exact ⟨fun h => h⟩) | exact ⟨fun _ hy => hy⟩ | exact ⟨fun a _ => State.canonical_site (Kept.canon ‹_› a) _⟩ | exact ⟨fun _ c => State.canonical_site c _⟩ | refine SiteStep.mk fun _ hy => ?_ | refine CanonSite.mk fun ha hy => ?_ | with_reducible exact hy | exact hy | exact State.canonical_site hy _ | exact State.canonical_site (Kept.canon ‹_› ha) _ | with_reducible apply State.modSite_kept | with_reducible apply State.siteFault_kept | ((try lift_lets); intro z; try (refine (have hz : Kept s₀ z := ?_; ?_))) | split | subst z)

theorem State.edcRetries_kept {s₀ s : State} (h₀ : Kept s₀ s) (i : Nat) (line : Nat) (n : Nat) : Kept s₀ (State.edcRetries s i line n) := by
  unfold State.edcRetries
  repeat' (first | with_reducible assumption | ((with_reducible refine Kept.update ?_ ?_ (hf := ?_)) <;> first | with_reducible assumption | exact rfl | exact ⟨fun h => h⟩) | exact ⟨fun _ hy => hy⟩ | exact ⟨fun a _ => State.canonical_site (Kept.canon ‹_› a) _⟩ | exact ⟨fun _ c => State.canonical_site c _⟩ | refine SiteStep.mk fun _ hy => ?_ | refine CanonSite.mk fun ha hy => ?_ | with_reducible exact hy | exact hy | exact State.canonical_site hy _ | exact State.canonical_site (Kept.canon ‹_› ha) _ | with_reducible apply State.modSite_kept | with_reducible apply State.siteFault_kept | with_reducible apply State.holdSite_kept | with_reducible refine Kept.foldl (fun _ _ _ => ?_) _ ?_ | ((try lift_lets); intro z; try (refine (have hz : Kept s₀ z := ?_; ?_))) | split | subst z)

theorem State.edc_kept {s₀ s : State} (h₀ : Kept s₀ s) (i : Nat) (line : Nat) (x : Xfer) (req : SiteReq) : Kept s₀ (State.edc s i line x req).1 := by
  unfold State.edc
  repeat' (first | with_reducible assumption | ((with_reducible refine Kept.update ?_ ?_ (hf := ?_)) <;> first | with_reducible assumption | exact rfl | exact ⟨fun h => h⟩) | exact ⟨fun _ hy => hy⟩ | exact ⟨fun a _ => State.canonical_site (Kept.canon ‹_› a) _⟩ | exact ⟨fun _ c => State.canonical_site c _⟩ | refine SiteStep.mk fun _ hy => ?_ | refine CanonSite.mk fun ha hy => ?_ | with_reducible exact hy | exact hy | exact State.canonical_site hy _ | exact State.canonical_site (Kept.canon ‹_› ha) _ | with_reducible apply State.edcRetries_kept | with_reducible apply State.holdSite_kept | with_reducible apply State.modSite_kept | ((try lift_lets); intro z; try (refine (have hz : Kept s₀ z := ?_; ?_))) | split | dsimp -zeta only | subst z)

theorem State.meets_kept {s₀ s : State} (h₀ : Kept s₀ s) (i : Nat) (line : Nat) (x : Xfer) : Kept s₀ (State.meets s i line x).1 := by
  unfold State.meets
  repeat' (first | with_reducible assumption | ((with_reducible refine Kept.update ?_ ?_ (hf := ?_)) <;> first | with_reducible assumption | exact rfl | exact ⟨fun h => h⟩) | exact ⟨fun _ hy => hy⟩ | exact ⟨fun a _ => State.canonical_site (Kept.canon ‹_› a) _⟩ | exact ⟨fun _ c => State.canonical_site c _⟩ | refine SiteStep.mk fun _ hy => ?_ | refine CanonSite.mk fun ha hy => ?_ | with_reducible exact hy | exact hy | exact State.canonical_site hy _ | exact State.canonical_site (Kept.canon ‹_› ha) _ | with_reducible apply State.modSite_kept | ((try lift_lets); intro z; try (refine (have hz : Kept s₀ z := ?_; ?_))) | dsimp -zeta only | subst z)

theorem State.gate_kept {s₀ s : State} (h₀ : Kept s₀ s) (i : Nat) (line : Nat) (x : Xfer) (req : SiteReq) : Kept s₀ (State.gate s i line x req).1 := by
  unfold State.gate
  repeat' (first | with_reducible assumption | with_reducible apply State.meets_kept | with_reducible apply State.edc_kept | ((try lift_lets); intro z; try (refine (have hz : Kept s₀ z := ?_; ?_))) | split | dsimp -zeta only | refine Kept.pair (by with_reducible assumption) ?_ | subst z)

theorem State.gates_kept {r s : State} (h : Kept r s) (i : Nat) (req : SiteReq) (ls : List Nat) : Kept r (State.gates s i req ls).1 := by
  induction ls generalizing s with
  | nil => exact h
  | cons l ls ih =>
    unfold State.gates
    dsimp only
    split
    · exact State.gate_kept h _ _ _ _
    · exact ih (State.gate_kept h _ _ _ _)

theorem State.candidate_kept {s₀ s : State} (h₀ : Kept s₀ s) (i : Nat) (grp : Nat) : Kept s₀ (State.candidate s i grp) := by
  unfold State.candidate
  repeat' (first | with_reducible assumption | ((with_reducible refine Kept.update ?_ ?_ (hf := ?_)) <;> first | with_reducible assumption | exact rfl | exact ⟨fun h => h⟩) | exact ⟨fun _ hy => hy⟩ | exact ⟨fun a _ => State.canonical_site (Kept.canon ‹_› a) _⟩ | exact ⟨fun _ c => State.canonical_site c _⟩ | refine SiteStep.mk fun _ hy => ?_ | refine CanonSite.mk fun ha hy => ?_ | with_reducible exact hy | exact hy | exact State.canonical_site hy _ | exact State.canonical_site (Kept.canon ‹_› ha) _ | with_reducible apply State.modSite_kept | ((try lift_lets); intro z; try (refine (have hz : Kept s₀ z := ?_; ?_))) | split | subst z)

theorem State.corrected_kept {s₀ s : State} (h₀ : Kept s₀ s) (i : Nat) (line : Nat) : Kept s₀ (State.corrected s i line) := by
  unfold State.corrected
  repeat' (first | with_reducible assumption | ((with_reducible refine Kept.update ?_ ?_ (hf := ?_)) <;> first | with_reducible assumption | exact rfl | exact ⟨fun h => h⟩) | exact ⟨fun _ hy => hy⟩ | exact ⟨fun a _ => State.canonical_site (Kept.canon ‹_› a) _⟩ | exact ⟨fun _ c => State.canonical_site c _⟩ | refine SiteStep.mk fun _ hy => ?_ | refine CanonSite.mk fun ha hy => ?_ | with_reducible exact hy | exact hy | exact State.canonical_site hy _ | exact State.canonical_site (Kept.canon ‹_› ha) _ | with_reducible apply State.modSite_kept | with_reducible apply State.candidate_kept | ((try lift_lets); intro z; try (refine (have hz : Kept s₀ z := ?_; ?_))) | split | dsimp -zeta only | subst z)

theorem State.storeLine_kept {s₀ s : State} (h₀ : Kept s₀ s) (i : Nat) (line : Nat) (l : Line) : Kept s₀ (State.storeLine s i line l) := by
  unfold State.storeLine
  repeat' (first | with_reducible assumption | ((with_reducible refine Kept.update ?_ ?_ (hf := ?_)) <;> first | with_reducible assumption | exact rfl | exact ⟨fun h => h⟩) | exact ⟨fun a _ => State.canonical_site (Kept.canon ‹_› a) _⟩ | exact ⟨fun _ c => State.canonical_site c _⟩ | refine SiteStep.mk fun _ hy => ?_ | refine CanonSite.mk fun ha hy => ?_ | with_reducible exact hy | with_reducible apply Site.putLine_canonical | exact Site.putLine_canonical hy _ _ | exact hy | exact State.canonical_site hy _ | exact State.canonical_site (Kept.canon ‹_› ha) _ | with_reducible apply State.modSite_kept | ((try lift_lets); intro z; try (refine (have hz : Kept s₀ z := ?_; ?_))) | split | subst z)

theorem State.fetchLine_kept {r s : State} (h : Kept r s) (i line : Nat) (x : Xfer) : Kept r (State.fetchLine s i line x).1 := by
  unfold State.fetchLine
  generalize readLine ((s.site i).line line) x = q
  dsimp only
  have c : ∀ z, Kept r z → Kept r (if q.corrected then
      (((z.modSite i fun z => z.putLine line q.line)).siteFault 0x0302 i line none none).corrected i line else z) := fun z hz => by
    split
    · exact State.corrected_kept (State.siteFault_kept (State.modSite_kept hz i _ ⟨fun _ hy => Site.putLine_canonical hy _ _⟩) _ _ _ _ _) _ _
    · exact hz
  split
  · refine State.candidate_kept ?_ _ _
    have k := State.siteFault_kept (State.storeLine_kept (c s h) i line q.line) 0x0303 i line none none
    split
    · exact State.siteFault_kept k _ _ _ _ _
    · exact k
  · exact c s h

end Sys2Proof.Machine
end

