-- ==== Sys2Proof/Laws/SealKept.lean ====
section
/-! SUPPORT. Each operation of Machine/Seal.lean leaves what `Kept` says as it is. -/

namespace Sys2Proof.Machine

theorem State.pokeSite_kept {s₀ s : State} (h₀ : Kept s₀ s) (a : Nat) (v : W64) : Kept s₀ (State.pokeSite s a v) := by
  unfold State.pokeSite
  repeat' (first | with_reducible assumption | ((with_reducible refine Kept.update ?_ ?_ (hf := ?_)) <;> first | with_reducible assumption | exact rfl | exact ⟨fun h => h⟩) | with_reducible apply State.storeLine_kept | ((try lift_lets); intro z; try (refine (have hz : Kept s₀ z := ?_; ?_))) | split | subst z)

theorem State.modLayer_kept {s₀ s : State} (h₀ : Kept s₀ s) (p : Nat) (l : Nat) (f : RedLayer → RedLayer) : Kept s₀ (State.modLayer s p l f) := by
  unfold State.modLayer
  repeat' (first | with_reducible assumption | ((with_reducible refine Kept.update ?_ ?_ (hf := ?_)) <;> first | with_reducible assumption | exact rfl | exact ⟨fun h => h⟩) | with_reducible apply State.modPlan_kept | ((try lift_lets); intro z; try (refine (have hz : Kept s₀ z := ?_; ?_))) | subst z)

theorem State.modRed_kept {s₀ s : State} (h₀ : Kept s₀ s) (p : Nat) (f : RedWords → RedWords) : Kept s₀ (State.modRed s p f) := by
  unfold State.modRed
  repeat' (first | with_reducible assumption | ((with_reducible refine Kept.update ?_ ?_ (hf := ?_)) <;> first | with_reducible assumption | exact rfl | exact ⟨fun h => h⟩) | with_reducible apply State.modPlan_kept | ((try lift_lets); intro z; try (refine (have hz : Kept s₀ z := ?_; ?_))) | subst z)

theorem State.redFault_kept {s₀ s : State} (h₀ : Kept s₀ s) (code : Nat) (p : Nat) (layer : Nat) (round : Nat) (d1 : W64) : Kept s₀ (State.redFault s code p layer round d1) := by
  unfold State.redFault
  repeat' (first | with_reducible assumption | with_reducible apply State.fault_kept)

theorem State.sealStands_kept {s₀ s : State} (h₀ : Kept s₀ s) (p : Nat) (r : Rec) (k : Nat) (d : BitVec 2048) : Kept s₀ (State.sealStands s p r k d) := by
  unfold State.sealStands
  repeat' (first | with_reducible assumption | ((with_reducible refine Kept.update ?_ ?_ (hf := ?_)) <;> first | with_reducible assumption | exact rfl | exact ⟨fun h => h⟩) | with_reducible apply State.modFrm_kept | with_reducible apply State.modLayer_kept | with_reducible apply State.modRed_kept | with_reducible apply State.redFault_kept | ((try lift_lets); intro z; try (refine (have hz : Kept s₀ z := ?_; ?_))) | split | subst z)

theorem State.sealCheck_kept {s₀ s : State} (h₀ : Kept s₀ s) (a : Nat) (d : BitVec 2048) : Kept s₀ (State.sealCheck s a d) := by
  unfold State.sealCheck
  repeat' (first | with_reducible assumption | ((with_reducible refine Kept.update ?_ ?_ (hf := ?_)) <;> first | with_reducible assumption | exact rfl | exact ⟨fun h => h⟩) | with_reducible apply State.modRed_kept | with_reducible apply State.sealStands_kept | with_reducible apply State.redFault_kept | ((try lift_lets); intro z; try (refine (have hz : Kept s₀ z := ?_; ?_))) | split | subst z)

end Sys2Proof.Machine
end

