-- ==== Sys2Proof/Laws/SitesKept.lean ====
section
/-! SUPPORT. Each operation of Machine/Sites.lean leaves what `Kept` says as it is. -/

namespace Sys2Proof.Machine

theorem State.sinkCheck_kept {s₀ s : State} (h₀ : Kept s₀ s) (i : Nat) (line : Nat) (marks : BitVec 8) : Kept s₀ (State.sinkCheck s i line marks).1 := by
  unfold State.sinkCheck
  repeat' (first | with_reducible assumption | ((with_reducible refine Kept.update ?_ ?_ (hf := ?_)) <;> first | with_reducible assumption | exact rfl | exact ⟨fun h => h⟩) | with_reducible apply State.siteFault_kept | ((try lift_lets); intro z; try (refine (have hz : Kept s₀ z := ?_; ?_))) | split | dsimp -zeta only | subst z)

theorem State.putData_kept {s₀ s : State} (h₀ : Kept s₀ s) (i : Nat) (line : Nat) (d : BitVec 2048) (poison : Bool) : Kept s₀ (State.putData s i line d poison) := by
  unfold State.putData
  repeat' (first | with_reducible assumption | with_reducible apply State.storeLine_kept | with_reducible apply State.sealCheck_kept | split)

theorem State.dropEntry_kept {s₀ s : State} (h₀ : Kept s₀ s) (i : Nat) (line : Nat) : Kept s₀ (State.dropEntry s i line) := by
  unfold State.dropEntry
  repeat' (first | with_reducible assumption | ((with_reducible refine Kept.update ?_ ?_ (hf := ?_)) <;> first | with_reducible assumption | exact rfl | exact ⟨fun h => h⟩) | exact ⟨fun _ hy => hy⟩ | exact ⟨fun a _ => State.canonical_site (Kept.canon ‹_› a) _⟩ | exact ⟨fun _ c => State.canonical_site c _⟩ | refine SiteStep.mk fun _ hy => ?_ | refine CanonSite.mk fun ha hy => ?_ | with_reducible exact hy | exact hy | exact State.canonical_site hy _ | exact State.canonical_site (Kept.canon ‹_› ha) _ | with_reducible apply State.modSite_kept | ((try lift_lets); intro z; try (refine (have hz : Kept s₀ z := ?_; ?_))) | subst z)

theorem State.mergeEntry_kept {s₀ s : State} (h₀ : Kept s₀ s) (i : Nat) (e : WcbEntry) (x : Xfer) (req : SiteReq) : Kept s₀ (State.mergeEntry s i e x req).1 := by
  unfold State.mergeEntry
  repeat' (first | with_reducible assumption | with_reducible apply State.dropEntry_kept | with_reducible apply State.putData_kept | with_reducible apply State.fetchLine_kept | with_reducible apply State.gates_kept | ((try lift_lets); intro z; try (refine (have hz : Kept s₀ z := ?_; ?_))) | split | dsimp -zeta only | refine Kept.pair (by with_reducible assumption) ?_ | subst z)

theorem State.open_kept {s₀ s : State} (h₀ : Kept s₀ s) (i : Nat) (line : Nat) (x : Xfer) (req : SiteReq) : Kept s₀ (State.open s i line x req).1 := by
  unfold State.open
  repeat' (first | with_reducible assumption | ((with_reducible refine Kept.update ?_ ?_ (hf := ?_)) <;> first | with_reducible assumption | exact rfl | exact ⟨fun h => h⟩) | with_reducible apply State.gate_kept | with_reducible apply State.mergeEntry_kept | ((try lift_lets); intro z; try (refine (have hz : Kept s₀ z := ?_; ?_))) | split | dsimp -zeta only | refine Kept.pair (by with_reducible assumption) ?_ | subst z)

theorem State.merge_kept {s₀ s : State} (h₀ : Kept s₀ s) (i : Nat) (line : Nat) (x : Xfer) : Kept s₀ (State.merge s i line x) := by
  unfold State.merge
  repeat' (first | with_reducible assumption | ((with_reducible refine Kept.update ?_ ?_ (hf := ?_)) <;> first | with_reducible assumption | exact rfl | exact ⟨fun h => h⟩) | with_reducible apply State.gate_kept | with_reducible apply State.mergeEntry_kept | ((try lift_lets); intro z; try (refine (have hz : Kept s₀ z := ?_; ?_))) | split | dsimp -zeta only | refine Kept.pair (by with_reducible assumption) ?_ | subst z)

theorem State.serveRead_kept {s₀ s : State} (h₀ : Kept s₀ s) (i : Nat) (line : Nat) (x : Xfer) : Kept s₀ (State.serveRead s i line x).1 := by
  unfold State.serveRead
  repeat' (first | with_reducible assumption | ((with_reducible refine Kept.update ?_ ?_ (hf := ?_)) <;> first | with_reducible assumption | exact rfl | exact ⟨fun h => h⟩) | exact ⟨fun _ hy => hy⟩ | exact ⟨fun a _ => State.canonical_site (Kept.canon ‹_› a) _⟩ | exact ⟨fun _ c => State.canonical_site c _⟩ | refine SiteStep.mk fun _ hy => ?_ | refine CanonSite.mk fun ha hy => ?_ | with_reducible exact hy | exact hy | exact State.canonical_site hy _ | exact State.canonical_site (Kept.canon ‹_› ha) _ | with_reducible apply State.open_kept | with_reducible apply State.fetchLine_kept | with_reducible apply State.modSite_kept | with_reducible apply State.send_kept | ((try lift_lets); intro z; try (refine (have hz : Kept s₀ z := ?_; ?_))) | split | dsimp -zeta only | refine Kept.pair (by with_reducible assumption) ?_ | subst z)

theorem State.serveFull_kept {s₀ s : State} (h₀ : Kept s₀ s) (i : Nat) (line : Nat) (d : BitVec 2048) (marks : BitVec 8) (plan : Option Nat) (x : Xfer) : Kept s₀ (State.serveFull s i line d marks plan x) := by
  unfold State.serveFull
  repeat' (first | with_reducible assumption | with_reducible apply State.gate_kept | with_reducible apply State.sinkCheck_kept | with_reducible apply State.dropEntry_kept | with_reducible apply State.putData_kept | ((try lift_lets); intro z; try (refine (have hz : Kept s₀ z := ?_; ?_))) | split | dsimp -zeta only | refine Kept.pair (by with_reducible assumption) ?_ | subst z)

theorem State.servePart_kept {s₀ s : State} (h₀ : Kept s₀ s) (i : Nat) (line : Nat) (d : BitVec 2048) (valid : BitVec 256) (marks : BitVec 8) (plan : Option Nat) : Kept s₀ (State.servePart s i line d valid marks plan) := by
  unfold State.servePart
  repeat' (first | with_reducible assumption | ((with_reducible refine Kept.update ?_ ?_ (hf := ?_)) <;> first | with_reducible assumption | exact rfl | exact ⟨fun h => h⟩) | exact ⟨fun _ hy => hy⟩ | exact ⟨fun a _ => State.canonical_site (Kept.canon ‹_› a) _⟩ | exact ⟨fun _ c => State.canonical_site c _⟩ | refine SiteStep.mk fun _ hy => ?_ | refine CanonSite.mk fun ha hy => ?_ | with_reducible exact hy | exact hy | exact State.canonical_site hy _ | exact State.canonical_site (Kept.canon ‹_› ha) _ | with_reducible apply State.sinkCheck_kept | with_reducible apply State.modSite_kept | with_reducible apply State.merge_kept | with_reducible apply State.serveFull_kept | ((try lift_lets); intro z; try (refine (have hz : Kept s₀ z := ?_; ?_))) | split | dsimp -zeta only | refine Kept.pair (by with_reducible assumption) ?_ | subst z)

end Sys2Proof.Machine
end

