-- ==== Sys2Proof/Laws/EddyKept.lean ====
section
/-! SUPPORT. Each operation of Machine/Eddy.lean leaves what `Kept` says as it is. -/

namespace Sys2Proof.Machine

theorem State.checkAdd_kept {s₀ s : State} (h₀ : Kept s₀ s) (area : RedArea) (sum : Int) : Kept s₀ (State.checkAdd s area sum) := by
  unfold State.checkAdd
  repeat' (first | with_reducible assumption | ((with_reducible refine Kept.update ?_ ?_ (hf := ?_)) <;> first | with_reducible assumption | exact rfl | exact ⟨fun h => h⟩) | with_reducible apply State.pokeSite_kept | ((try lift_lets); intro z; try (refine (have hz : Kept s₀ z := ?_; ?_))) | split | subst z)

theorem State.addGood_kept {s₀ s : State} (h₀ : Kept s₀ s) (p : Nat) (i : Nat) (line : Nat) (area : RedArea) (a : AddOut) (d : BitVec 2048) : Kept s₀ (State.addGood s p i line area a d) := by
  unfold State.addGood
  repeat' (first | with_reducible assumption | with_reducible apply State.storeLine_kept | with_reducible apply State.checkAdd_kept | with_reducible apply State.redFault_kept | ((try lift_lets); intro z; try (refine (have hz : Kept s₀ z := ?_; ?_))) | split | dsimp -zeta only | subst z)

theorem State.addInto_kept {s₀ s : State} (h₀ : Kept s₀ s) (p : Nat) (i : Nat) (line : Nat) (area : RedArea) (xs : List Int) (marker : Int) (poison : Bool) (e1 : BitVec 2048) (e2 : BitVec 2048) (x : Xfer) : Kept s₀ (State.addInto s p i line area xs marker poison e1 e2 x) := by
  unfold State.addInto
  repeat' (first | with_reducible assumption | ((with_reducible refine Kept.update ?_ ?_ (hf := ?_)) <;> first | with_reducible assumption | exact rfl | exact ⟨fun h => h⟩) | with_reducible apply State.fetchLine_kept | with_reducible apply State.storeLine_kept | with_reducible apply State.siteFault_kept | with_reducible apply State.modRed_kept | with_reducible apply State.addGood_kept | with_reducible apply State.redFault_kept | ((try lift_lets); intro z; try (refine (have hz : Kept s₀ z := ?_; ?_))) | split | dsimp -zeta only | refine Kept.pair (by with_reducible assumption) ?_ | subst z)

theorem State.serveAcc16_kept {s₀ s : State} (h₀ : Kept s₀ s) (p : Nat) (i : Nat) (line : Nat) (d : BitVec 2048) (poison : Bool) (a : AddIn) : Kept s₀ (State.serveAcc16 s p i line d poison a) := by
  unfold State.serveAcc16
  repeat' (first | with_reducible assumption | ((with_reducible refine Kept.update ?_ ?_ (hf := ?_)) <;> first | with_reducible assumption | exact rfl | exact ⟨fun h => h⟩) | with_reducible apply State.redFault_kept | with_reducible apply State.open_kept | with_reducible apply State.gates_kept | with_reducible apply State.addInto_kept | ((try lift_lets); intro z; try (refine (have hz : Kept s₀ z := ?_; ?_))) | split | dsimp -zeta only | refine Kept.pair (by with_reducible assumption) ?_ | subst z)

theorem State.serveAcc32_kept {s₀ s : State} (h₀ : Kept s₀ s) (p : Nat) (i : Nat) (line : Nat) (d : BitVec 2048) (poison : Bool) (a : AddIn) : Kept s₀ (State.serveAcc32 s p i line d poison a) := by
  unfold State.serveAcc32
  repeat' (first | with_reducible assumption | ((with_reducible refine Kept.update ?_ ?_ (hf := ?_)) <;> first | with_reducible assumption | exact rfl | exact ⟨fun h => h⟩) | with_reducible apply State.redFault_kept | with_reducible apply State.open_kept | with_reducible apply State.gates_kept | with_reducible apply State.addInto_kept | ((try lift_lets); intro z; try (refine (have hz : Kept s₀ z := ?_; ?_))) | split | dsimp -zeta only | refine Kept.pair (by with_reducible assumption) ?_ | subst z)

end Sys2Proof.Machine
end

