-- ==== Sys2Proof/Laws/SiteCmdsKept.lean ====
section
/-! SUPPORT. Each operation of Machine/SiteCmds.lean leaves what `Kept` says as it is. -/

namespace Sys2Proof.Machine

theorem State.serveReq_kept {s₀ s : State} (h₀ : Kept s₀ s) (i : Nat) (q : SiteReq) (a : AddIn) : Kept s₀ (State.serveReq s i q a) := by
  unfold State.serveReq
  repeat' (first | with_reducible assumption | ((with_reducible refine Kept.update ?_ ?_ (hf := ?_)) <;> first | with_reducible assumption | exact rfl | exact ⟨fun h => h⟩) | with_reducible apply State.serveRead_kept | with_reducible apply State.serveFull_kept | with_reducible apply State.servePart_kept | with_reducible apply State.serveAcc16_kept | with_reducible apply State.serveAcc32_kept | with_reducible apply State.merge_kept | ((try lift_lets); intro z; try (refine (have hz : Kept s₀ z := ?_; ?_))) | split | dsimp -zeta only | refine Kept.pair (by with_reducible assumption) ?_ | subst z)

theorem State.drain_kept {r s : State} (h : Kept r s) (i n : Nat) : Kept r (State.drain s i n) := by
  induction n generalizing s with
  | zero => exact h
  | succ n ih =>
    unfold State.drain
    split
    · exact h
    · split
      · exact h
      · exact ih (State.serveReq_kept (State.modSite_kept h _ _) _ _ _)

theorem State.stallEnd_kept {s₀ s : State} (h₀ : Kept s₀ s) (i : Nat) : Kept s₀ (State.stallEnd s i) := by
  unfold State.stallEnd
  repeat' (first | with_reducible assumption | ((with_reducible refine Kept.update ?_ ?_ (hf := ?_)) <;> first | with_reducible assumption | exact rfl | exact ⟨fun h => h⟩) | exact ⟨fun _ hy => hy⟩ | exact ⟨fun a _ => State.canonical_site (Kept.canon ‹_› a) _⟩ | exact ⟨fun _ c => State.canonical_site c _⟩ | refine SiteStep.mk fun _ hy => ?_ | refine CanonSite.mk fun ha hy => ?_ | with_reducible exact hy | exact hy | exact State.canonical_site hy _ | exact State.canonical_site (Kept.canon ‹_› ha) _ | with_reducible apply State.modSite_kept | ((try lift_lets); intro z; try (refine (have hz : Kept s₀ z := ?_; ?_))) | split | subst z)

theorem State.stallNow_kept {s₀ s : State} (h₀ : Kept s₀ s) (i : Nat) : Kept s₀ (State.stallNow s i) := by
  unfold State.stallNow
  repeat' (first | with_reducible assumption | ((with_reducible refine Kept.update ?_ ?_ (hf := ?_)) <;> first | with_reducible assumption | exact rfl | exact ⟨fun h => h⟩) | exact ⟨fun _ hy => hy⟩ | exact ⟨fun a _ => State.canonical_site (Kept.canon ‹_› a) _⟩ | exact ⟨fun _ c => State.canonical_site c _⟩ | refine SiteStep.mk fun _ hy => ?_ | refine CanonSite.mk fun ha hy => ?_ | with_reducible exact hy | exact hy | exact State.canonical_site hy _ | exact State.canonical_site (Kept.canon ‹_› ha) _ | with_reducible apply State.stallEnd_kept | with_reducible apply State.modSite_kept | ((try lift_lets); intro z; try (refine (have hz : Kept s₀ z := ?_; ?_))) | split | with_reducible refine KeptO.getD ?_ ?_ | subst z)

theorem State.drainSite_kept {s₀ s : State} (h₀ : Kept s₀ s) (i : Nat) : Kept s₀ (State.drainSite s i) := by
  unfold State.drainSite
  repeat' (first | with_reducible assumption | with_reducible apply State.drain_kept | with_reducible apply State.stallNow_kept)

theorem State.drainSites_kept {s₀ s : State} (h₀ : Kept s₀ s) : Kept s₀ (State.drainSites s) := by
  unfold State.drainSites
  repeat' (first | with_reducible assumption | with_reducible apply State.drainSite_kept | with_reducible refine Kept.foldl (fun _ _ _ => ?_) _ ?_)

theorem State.enqueue_kept {s₀ s : State} (h₀ : Kept s₀ s) (i : Nat) (q : SiteReq) (u : Option Nat) : Kept s₀ (State.enqueue s i q u) := by
  unfold State.enqueue
  repeat' (first | with_reducible assumption | ((with_reducible refine Kept.update ?_ ?_ (hf := ?_)) <;> first | with_reducible assumption | exact rfl | exact ⟨fun h => h⟩) | exact ⟨fun _ hy => hy⟩ | exact ⟨fun a _ => State.canonical_site (Kept.canon ‹_› a) _⟩ | exact ⟨fun _ c => State.canonical_site c _⟩ | refine SiteStep.mk fun _ hy => ?_ | refine CanonSite.mk fun ha hy => ?_ | with_reducible exact hy | exact hy | exact State.canonical_site hy _ | exact State.canonical_site (Kept.canon ‹_› ha) _ | with_reducible apply State.modSite_kept | ((try lift_lets); intro z; try (refine (have hz : Kept s₀ z := ?_; ?_))) | subst z)

theorem State.request_kept {s₀ s : State} (h₀ : Kept s₀ s) (i : Nat) (q : SiteReq) (line : Nat) (plan : Option Nat) (a : AddIn) (u : Option Nat) : Kept s₀ (State.request s i q line plan a u) := by
  unfold State.request
  repeat' (first | with_reducible assumption | ((with_reducible refine Kept.update ?_ ?_ (hf := ?_)) <;> first | with_reducible assumption | exact rfl | exact ⟨fun h => h⟩) | exact ⟨fun _ hy => hy⟩ | exact ⟨fun a _ => State.canonical_site (Kept.canon ‹_› a) _⟩ | exact ⟨fun _ c => State.canonical_site c _⟩ | refine SiteStep.mk fun _ hy => ?_ | refine CanonSite.mk fun ha hy => ?_ | with_reducible exact hy | exact hy | exact State.canonical_site hy _ | exact State.canonical_site (Kept.canon ‹_› ha) _ | with_reducible apply State.siteFault_kept | with_reducible apply State.meets_kept | with_reducible apply State.enqueue_kept | with_reducible apply State.drainSite_kept | with_reducible apply State.modSite_kept | with_reducible apply State.send_kept | with_reducible apply State.serveReq_kept | ((try lift_lets); intro z; try (refine (have hz : Kept s₀ z := ?_; ?_))) | split | refine Kept.pair (by with_reducible assumption) ?_ | subst z)

theorem execLineRead_next (i : Fin 24) (line : Nat) (x : Xfer) (s : State) : ∃ s', execLineRead i line x s = .next s' ∧ Kept s s' := by
  have h₀ := Kept.refl s
  refine ⟨_, rfl, ?_⟩
  repeat' (first | with_reducible assumption | with_reducible apply State.request_kept | split)

theorem execFullLineWrite_next (i : Fin 24) (line : Nat) (d : BitVec 2048) (marks : BitVec 8) (plan : Option (Fin 4)) (x : Xfer) (s : State) : ∃ s', execFullLineWrite i line d marks plan x s = .next s' ∧ Kept s s' := by
  have h₀ := Kept.refl s
  refine ⟨_, rfl, ?_⟩
  repeat' (first | with_reducible assumption | with_reducible apply State.request_kept | split)

theorem execPartialWrite_next (i : Fin 24) (line : Nat) (d : BitVec 2048) (valid : BitVec 256) (marks : BitVec 8) (plan : Option (Fin 4)) (s : State) : ∃ s', execPartialWrite i line d valid marks plan s = .next s' ∧ Kept s s' := by
  have h₀ := Kept.refl s
  refine ⟨_, rfl, ?_⟩
  repeat' (first | with_reducible assumption | with_reducible apply State.request_kept | split)

theorem wcbMerge_kept {s₀ s : State} (h₀ : Kept s₀ s) (i : Nat) (line : Nat) (x : Xfer) : Kept s₀ (wcbMerge i line x s) := by
  unfold wcbMerge
  repeat' (first | with_reducible assumption | with_reducible apply State.merge_kept | with_reducible apply State.drainSite_kept | ((try lift_lets); intro z; try (refine (have hz : Kept s₀ z := ?_; ?_))) | split | subst z)

theorem execWcbMerge_next (i : Fin 24) (line : Nat) (x : Xfer) (s : State) : ∃ s', execWcbMerge i line x s = .next s' ∧ Kept s s' := by
  have h₀ := Kept.refl s
  refine ⟨_, rfl, ?_⟩
  repeat' (first | with_reducible assumption | with_reducible apply wcbMerge_kept | split)

theorem execPacedRefresh_next (u : Fin 24 × List (Nat × Xfer)) (s : State) : ∃ s', execPacedRefresh u s = .next s' ∧ Kept s s' := by
  have h₀ := Kept.refl s
  refine ⟨_, rfl, ?_⟩
  repeat' (first | with_reducible assumption | ((with_reducible refine Kept.update ?_ ?_ (hf := ?_)) <;> first | with_reducible assumption | exact rfl | exact ⟨fun h => h⟩) | exact ⟨fun _ hy => hy⟩ | exact ⟨fun a _ => State.canonical_site (Kept.canon ‹_› a) _⟩ | exact ⟨fun _ c => State.canonical_site c _⟩ | refine SiteStep.mk fun _ hy => ?_ | refine CanonSite.mk fun ha hy => ?_ | with_reducible exact hy | exact hy | exact State.canonical_site hy _ | exact State.canonical_site (Kept.canon ‹_› ha) _ | with_reducible apply State.modSite_kept | ((try lift_lets); intro z; try (refine (have hz : Kept s z := ?_; ?_))) | split | dsimp -zeta only | subst z)

theorem execScheduledRetrainOverrun_next (i : Fin 24) (s : State) : ∃ s', execScheduledRetrainOverrun i s = .next s' ∧ Kept s s' := by
  have h₀ := Kept.refl s
  refine ⟨_, rfl, ?_⟩
  repeat' (first | with_reducible assumption | with_reducible apply State.holdSite_kept | split)

end Sys2Proof.Machine
end

