-- ==== Sys2Proof/Laws/DescKept.lean ====
section
/-! SUPPORT. Each operation of Machine/Desc.lean leaves what `Kept` says as it is. -/

namespace Sys2Proof.Machine

/-- Every state that the outcome carries. -/
structure KeptA (r : State) (a : Access) : Prop where
  all : ∀ t, (a = .wait t ∨ a = .ok t) → Kept r t

theorem KeptA.ofFault {r : State} {c a : Nat} : KeptA r (.fault c a) := ⟨fun t e => by simp at e⟩
theorem KeptA.ofWait {r t : State} (h : Kept r t) : KeptA r (.wait t) := ⟨fun u e => by simp at e; exact e ▸ h⟩
theorem KeptA.ofOk {r t : State} (h : Kept r t) : KeptA r (.ok t) := ⟨fun u e => by simp at e; exact e ▸ h⟩
theorem KeptA.wait {r t : State} {a : Access} (h : KeptA r a) (e : a = .wait t) : Kept r t := h.all t (.inl e)
theorem KeptA.ok {r t : State} {a : Access} (h : KeptA r a) (e : a = .ok t) : Kept r t := h.all t (.inr e)

/-- Every state that the outcome carries. -/
structure KeptB (r : State) (a : BlockRead) : Prop where
  all : ∀ t, (a = .wait t ∨ ∃ b, a = .ok t b) → Kept r t

theorem KeptB.ofFault {r : State} {c a : Nat} : KeptB r (.fault c a) := ⟨fun t e => by simp at e⟩
theorem KeptB.ofWait {r t : State} (h : Kept r t) : KeptB r (.wait t) := ⟨fun u e => by simp at e; exact e ▸ h⟩
theorem KeptB.ofOk {r t : State} {b : BlockIn} (h : Kept r t) : KeptB r (.ok t b) := ⟨fun u e => by simp at e; exact e ▸ h⟩
theorem KeptB.wait {r t : State} {a : BlockRead} (h : KeptB r a) (e : a = .wait t) : Kept r t := h.all t (.inl e)
theorem KeptB.ok {r t : State} {b : BlockIn} {a : BlockRead} (h : KeptB r a) (e : a = .ok t b) : Kept r t := h.all t (.inr ⟨b, e⟩)

theorem State.takeLine_kept {s₀ s : State} (h₀ : Kept s₀ s) (n : Nat) : Kept s₀ (State.takeLine s n).1 := by
  unfold State.takeLine
  repeat' (first | with_reducible assumption | ((with_reducible refine Kept.update ?_ ?_ (hf := ?_)) <;> first | with_reducible assumption | exact rfl | exact ⟨fun h => h⟩) | exact ⟨fun _ hy => hy⟩ | exact ⟨fun a _ => State.canonical_site (Kept.canon ‹_› a) _⟩ | exact ⟨fun _ c => State.canonical_site c _⟩ | refine SiteStep.mk fun _ hy => ?_ | refine CanonSite.mk fun ha hy => ?_ | with_reducible exact hy | exact hy | exact State.canonical_site hy _ | exact State.canonical_site (Kept.canon ‹_› ha) _ | with_reducible apply State.open_kept | with_reducible apply State.fetchLine_kept | with_reducible apply State.modSite_kept | with_reducible refine Kept.foldl (fun _ _ _ => ?_) _ ?_ | ((try lift_lets); intro z; try (refine (have hz : Kept s₀ z := ?_; ?_))) | split | dsimp -zeta only | refine Kept.pair (by with_reducible assumption) ?_ | subst z)

theorem State.takeLines_kept {r s : State} (h : Kept r s) (ns : List Nat) : Kept r (State.takeLines s ns).1 := by
  have k : ∀ (x : State × Lines), Kept r x.1 →
      Kept r (ns.foldl (fun x n => let r := x.1.takeLine n; (r.1, x.2 ++ [r.2])) x).1 := by
    induction ns with
    | nil => exact fun x hx => hx
    | cons n ns ih => exact fun x hx => ih _ (State.takeLine_kept hx n)
  exact k (s, []) h

theorem State.takePlace_kept {s₀ s : State} (h₀ : Kept s₀ s) (u : Nat) (p : Nat) (ns : List Nat) : Kept s₀ (State.takePlace s u p ns) := by
  unfold State.takePlace
  repeat' (first | with_reducible assumption | ((with_reducible refine Kept.update ?_ ?_ (hf := ?_)) <;> first | with_reducible assumption | exact rfl | exact ⟨fun h => h⟩) | exact ⟨fun _ hy => hy⟩ | exact ⟨fun a _ => State.canonical_site (Kept.canon ‹_› a) _⟩ | exact ⟨fun _ c => State.canonical_site c _⟩ | refine SiteStep.mk fun _ hy => ?_ | refine CanonSite.mk fun ha hy => ?_ | with_reducible exact hy | exact hy | exact State.canonical_site hy _ | exact State.canonical_site (Kept.canon ‹_› ha) _ | with_reducible apply State.modSite_kept | with_reducible refine Kept.foldl (fun _ _ _ => ?_) _ ?_ | ((try lift_lets); intro z; try (refine (have hz : Kept s₀ z := ?_; ?_))) | split | subst z)

theorem State.leavePlace_kept {s₀ s : State} (h₀ : Kept s₀ s) (u : Nat) : Kept s₀ (State.leavePlace s u) := by
  unfold State.leavePlace
  repeat' (first | with_reducible assumption | ((with_reducible refine Kept.update ?_ ?_ (hf := ?_)) <;> first | with_reducible assumption | exact rfl | exact ⟨fun h => h⟩) | exact ⟨fun _ hy => hy⟩ | exact ⟨fun a _ => State.canonical_site (Kept.canon ‹_› a) _⟩ | exact ⟨fun _ c => State.canonical_site c _⟩ | refine SiteStep.mk fun _ hy => ?_ | refine CanonSite.mk fun ha hy => ?_ | with_reducible exact hy | exact hy | exact State.canonical_site hy _ | exact State.canonical_site (Kept.canon ‹_› ha) _ | with_reducible apply State.modSite_kept | with_reducible refine Kept.foldl (fun _ _ _ => ?_) _ ?_ | ((try lift_lets); intro z; try (refine (have hz : Kept s₀ z := ?_; ?_))) | split | subst z)

theorem State.edcLines_kept {s₀ s : State} (h₀ : Kept s₀ s) (ns : List Nat) (more : Nat) : Kept s₀ (State.edcLines s ns more) := by
  unfold State.edcLines
  repeat' (first | with_reducible assumption | ((with_reducible refine Kept.update ?_ ?_ (hf := ?_)) <;> first | with_reducible assumption | exact rfl | exact ⟨fun h => h⟩) | exact ⟨fun _ hy => hy⟩ | exact ⟨fun a _ => State.canonical_site (Kept.canon ‹_› a) _⟩ | exact ⟨fun _ c => State.canonical_site c _⟩ | refine SiteStep.mk fun _ hy => ?_ | refine CanonSite.mk fun ha hy => ?_ | with_reducible exact hy | exact hy | exact State.canonical_site hy _ | exact State.canonical_site (Kept.canon ‹_› ha) _ | with_reducible apply State.modSite_kept | with_reducible apply State.edcRetries_kept | with_reducible apply State.holdSite_kept | with_reducible refine Kept.foldl (fun _ _ _ => ?_) _ ?_ | ((try lift_lets); intro z; try (refine (have hz : Kept s₀ z := ?_; ?_))) | split | dsimp -zeta only | subst z)

theorem State.access_kept {s₀ s : State} (h₀ : Kept s₀ s) (u : Nat) (plan : Nat) (ns : List Nat) (es : List Nat) : KeptA s₀ (State.access s u plan ns es) := by
  unfold State.access
  repeat' (first | with_reducible assumption | ((with_reducible refine Kept.update ?_ ?_ (hf := ?_)) <;> first | with_reducible assumption | exact rfl | exact ⟨fun h => h⟩) | with_reducible apply State.fault_kept | with_reducible apply State.takePlace_kept | with_reducible apply State.edcLines_kept | ((try lift_lets); intro z; try (refine (have hz : Kept s₀ z := ?_; ?_))) | split | dsimp -zeta only | with_reducible refine KeptA.ofOk ?_ | with_reducible refine KeptA.ofWait ?_ | with_reducible exact KeptA.ofFault | subst z)

theorem State.readBlock_kept {s₀ s : State} (h₀ : Kept s₀ s) (u : Nat) (plan : Nat) (p : Plan) (d : Desc) (ps : List (Option (List Nat))) (ss : List (Option (List Nat))) : KeptB s₀ (State.readBlock s u plan p d ps ss) := by
  unfold State.readBlock
  repeat' (first | with_reducible assumption | ((with_reducible refine Kept.update ?_ ?_ (hf := ?_)) <;> first | with_reducible assumption | exact rfl | exact ⟨fun h => h⟩) | with_reducible apply State.access_kept | with_reducible apply State.fault_kept | with_reducible apply State.takeLines_kept | ((try lift_lets); intro z; try (refine (have hz : Kept s₀ z := ?_; ?_))) | split | dsimp -zeta only | refine Kept.pair (by with_reducible assumption) ?_ | with_reducible refine KeptA.ok ?_ (by with_reducible assumption) | with_reducible refine KeptA.wait ?_ (by with_reducible assumption) | with_reducible refine KeptB.ofOk ?_ | with_reducible refine KeptB.ofWait ?_ | with_reducible exact KeptB.ofFault | subst z)

theorem State.putLine_kept {r s : State} (h : Kept r s) (u : Option Nat) (plan : Nat) (l : LineOut) : Kept r (State.putLine s u plan l) := by
  unfold State.putLine
  split
  · refine Kept.foldl (fun z w hz => ?_) _ h
    dsimp only
    split
    · exact hz
    · refine hz.maps rfl fun c => ?_
      simp only [State.canonical_iff] at c
      refine ⟨⟨Sparse.wf_foldl _ _ (fun m i hm => ?_) c.1.1, ?_, c.1.2.2⟩, c.2⟩
      · split
        · exact Sparse.wf_set _ _ hm
        · exact hm
      · (repeat' split) <;> first | exact Sparse.wf_set _ _ c.1.2.1 | exact c.1.2.1
  · exact State.request_kept h _ _ _ _ _ _
  · exact h

theorem State.putBytes_kept {s₀ s : State} (h₀ : Kept s₀ s) (u : Option Nat) (plan : Nat) (bs : List ByteOut) : Kept s₀ (State.putBytes s u plan bs) := by
  unfold State.putBytes
  repeat' (first | with_reducible assumption | with_reducible apply State.putLine_kept | with_reducible refine Kept.foldl (fun _ _ _ => ?_) _ ?_)

theorem State.writable_kept {s₀ s : State} (h₀ : Kept s₀ s) (u : Nat) (plan : Nat) (bs : List ByteOut) : KeptA s₀ (State.writable s u plan bs) := by
  unfold State.writable
  repeat' (first | with_reducible assumption | with_reducible apply State.access_kept | ((try lift_lets); intro z; try (refine (have hz : Kept s₀ z := ?_; ?_))) | with_reducible refine KeptA.ok ?_ (by with_reducible assumption) | with_reducible refine KeptA.wait ?_ (by with_reducible assumption) | with_reducible refine KeptA.ofOk ?_ | with_reducible refine KeptA.ofWait ?_ | with_reducible exact KeptA.ofFault | subst z)

theorem State.finishXfer_kept {s₀ s : State} (h₀ : Kept s₀ s) (u : Nat) (plan : Nat) (bs : List ByteOut) : Kept s₀ (State.finishXfer s u plan bs) := by
  unfold State.finishXfer
  repeat' (first | with_reducible assumption | with_reducible apply State.putBytes_kept | with_reducible apply State.leavePlace_kept | with_reducible apply State.drainSites_kept)

end Sys2Proof.Machine
end

