-- ==== Sys2Proof/Laws/JournalKept.lean ====
section
/-! SUPPORT. Each operation of Machine/Journal.lean leaves what `Kept` says as it is. -/

namespace Sys2Proof.Machine

theorem State.journal_kept {s₀ s : State} (h₀ : Kept s₀ s) (r : JrnRec) : Kept s₀ (State.journal s r) := by
  unfold State.journal
  repeat' (first | with_reducible assumption | ((with_reducible refine Kept.update ?_ ?_ (hf := ?_)) <;> first | with_reducible assumption | exact rfl | exact ⟨fun h => h⟩) | ((try lift_lets); intro z; try (refine (have hz : Kept s₀ z := ?_; ?_))) | subst z)

theorem State.journalDir_kept {s₀ s : State} (h₀ : Kept s₀ s) (r : JrnRec) : Kept s₀ (State.journalDir s r) := by
  unfold State.journalDir
  repeat' (first | with_reducible assumption | ((with_reducible refine Kept.update ?_ ?_ (hf := ?_)) <;> first | with_reducible assumption | exact rfl | exact ⟨fun h => h⟩) | with_reducible apply State.journal_kept | ((try lift_lets); intro z; try (refine (have hz : Kept s₀ z := ?_; ?_))) | split | subst z)

theorem State.devEntry_kept {s₀ s : State} (h₀ : Kept s₀ s) (body : Rec) : Kept s₀ (State.devEntry s body) := by
  unfold State.devEntry
  repeat' (first | with_reducible assumption | with_reducible apply State.journal_kept)

theorem State.resumePoint_kept {s₀ s : State} (h₀ : Kept s₀ s) (p : Nat) (gen : Nat) (g : Gen) (rewind : Bool) : Kept s₀ (State.resumePoint s p gen g rewind) := by
  unfold State.resumePoint
  repeat' (first | with_reducible assumption | with_reducible apply State.devEntry_kept)

theorem State.imageEntry_kept {s₀ s : State} (h₀ : Kept s₀ s) (valid : Bool) (slot : Nat) (len : Nat) (version : W64) : Kept s₀ (State.imageEntry s valid slot len version) := by
  unfold State.imageEntry
  repeat' (first | with_reducible assumption | with_reducible apply State.devEntry_kept | split)

theorem State.storePacks_kept {s₀ s : State} (h₀ : Kept s₀ s) : Kept s₀ (State.storePacks s) := by
  unfold State.storePacks
  repeat' (first | with_reducible assumption | ((with_reducible refine Kept.update ?_ ?_ (hf := ?_)) <;> first | with_reducible assumption | exact rfl | exact ⟨fun h => h⟩) | with_reducible refine Kept.foldl (fun _ _ _ => ?_) _ ?_ | ((try lift_lets); intro z; try (refine (have hz : Kept s₀ z := ?_; ?_))) | split | subst z)

theorem State.journalNext_kept {s₀ s : State} (h₀ : Kept s₀ s) (ok : Bool) : Kept s₀ (State.journalNext s ok) := by
  unfold State.journalNext
  repeat' (first | with_reducible assumption | ((with_reducible refine Kept.update ?_ ?_ (hf := ?_)) <;> first | with_reducible assumption | exact rfl | exact ⟨fun h => h⟩) | with_reducible apply State.fault_kept | with_reducible apply State.devEntry_kept | ((try lift_lets); intro z; try (refine (have hz : Kept s₀ z := ?_; ?_))) | split | subst z)

theorem journalWrite_kept {s₀ s : State} (h₀ : Kept s₀ s) (ok : Bool) : Kept s₀ (journalWrite ok s) := by
  unfold journalWrite
  repeat' (first | with_reducible assumption | with_reducible apply State.journalNext_kept | with_reducible apply State.storePacks_kept | split)

theorem execJournalRecordWrite_next (ok : Bool) (s : State) : ∃ s', execJournalRecordWrite ok s = .next s' ∧ Kept s s' := by
  have h₀ := Kept.refl s
  refine ⟨_, rfl, ?_⟩
  repeat' (first | with_reducible assumption | with_reducible apply journalWrite_kept | split)

end Sys2Proof.Machine
end

