-- ==== Sys2Proof/Laws/ImageCheckKept.lean ====
section
/-! SUPPORT. Each operation of Machine/ImageCheck.lean leaves what `Kept` says as it is. -/

namespace Sys2Proof.Machine

theorem State.readDir_kept {s₀ s : State} (h₀ : Kept s₀ s) : Kept s₀ (State.readDir s).1 := by
  unfold State.readDir
  repeat' (first | with_reducible assumption | ((with_reducible refine Kept.update ?_ ?_ (hf := ?_)) <;> first | with_reducible assumption | exact rfl | exact ⟨fun h => h⟩) | with_reducible apply State.fault_kept | ((try lift_lets); intro z; try (refine (have hz : Kept s₀ z := ?_; ?_))) | split | dsimp -zeta only | subst z)

theorem State.saveDir_kept {s₀ s : State} (h₀ : Kept s₀ s) (d : DirCopy) : Kept s₀ (State.saveDir s d) := by
  unfold State.saveDir
  repeat' (first | with_reducible assumption | ((with_reducible refine Kept.update ?_ ?_ (hf := ?_)) <;> first | with_reducible assumption | exact rfl | exact ⟨fun h => h⟩) | ((try lift_lets); intro z; try (refine (have hz : Kept s₀ z := ?_; ?_))) | subst z)

theorem State.writeDir_kept {s₀ s : State} (h₀ : Kept s₀ s) (f : DirCopy → DirCopy) : Kept s₀ (State.writeDir s f) := by
  unfold State.writeDir
  repeat' (first | with_reducible assumption | with_reducible apply State.readDir_kept | with_reducible apply State.saveDir_kept | dsimp -zeta only | refine Kept.pair (by with_reducible assumption) ?_)

theorem State.abandonWrites_kept {s₀ s : State} (h₀ : Kept s₀ s) : Kept s₀ (State.abandonWrites s) := by
  unfold State.abandonWrites
  repeat' (first | with_reducible assumption | ((with_reducible refine Kept.update ?_ ?_ (hf := ?_)) <;> first | with_reducible assumption | exact rfl | exact ⟨fun h => h⟩) | with_reducible apply State.imageEntry_kept | with_reducible refine Kept.foldl (fun _ _ _ => ?_) _ ?_ | ((try lift_lets); intro z; try (refine (have hz : Kept s₀ z := ?_; ?_))) | subst z)

theorem State.openWrite_kept {s₀ s : State} (h₀ : Kept s₀ s) (w : ImgWrite) : Kept s₀ (State.openWrite s w) := by
  unfold State.openWrite
  repeat' (first | with_reducible assumption | ((with_reducible refine Kept.update ?_ ?_ (hf := ?_)) <;> first | with_reducible assumption | exact rfl | exact ⟨fun h => h⟩) | with_reducible apply State.writeDir_kept | ((try lift_lets); intro z; try (refine (have hz : Kept s₀ z := ?_; ?_))) | subst z)

theorem State.ackWrite_kept {s₀ s : State} (h₀ : Kept s₀ s) (w : ImgWrite) (r : Nat) : Kept s₀ (State.ackWrite s w r) := by
  unfold State.ackWrite
  repeat' (first | with_reducible assumption | with_reducible apply State.send_kept | split)

theorem State.closeWrite_kept {s₀ s : State} (h₀ : Kept s₀ s) (w : ImgWrite) : Kept s₀ (State.closeWrite s w) := by
  unfold State.closeWrite
  repeat' (first | with_reducible assumption | ((with_reducible refine Kept.update ?_ ?_ (hf := ?_)) <;> first | with_reducible assumption | exact rfl | exact ⟨fun h => h⟩) | with_reducible apply State.writeDir_kept | with_reducible apply State.imageEntry_kept | with_reducible apply State.ackWrite_kept | ((try lift_lets); intro z; try (refine (have hz : Kept s₀ z := ?_; ?_))) | split | subst z)

theorem imageWriteComplete_kept {s₀ s : State} (h₀ : Kept s₀ s) : Kept s₀ (imageWriteComplete s) := by
  unfold imageWriteComplete
  repeat' (first | with_reducible assumption | ((with_reducible refine Kept.update ?_ ?_ (hf := ?_)) <;> first | with_reducible assumption | exact rfl | exact ⟨fun h => h⟩) | with_reducible apply State.closeWrite_kept | ((try lift_lets); intro z; try (refine (have hz : Kept s₀ z := ?_; ?_))) | split | subst z)

theorem execImageWriteComplete_next (s : State) : ∃ s', execImageWriteComplete s = .next s' ∧ Kept s s' := by
  have h₀ := Kept.refl s
  refine ⟨_, rfl, ?_⟩
  repeat' (first | with_reducible assumption | with_reducible apply imageWriteComplete_kept | split)

end Sys2Proof.Machine
end

