-- ==== Sys2Proof/Laws/PortsKept.lean ====
section
/-! SUPPORT. Each operation of Machine/Ports.lean leaves what `Kept` says as it is. -/

namespace Sys2Proof.Machine

theorem State.modAcct_kept {s₀ s : State} (h₀ : Kept s₀ s) (p : Nat) (c : Nat) (f : Acct → Acct) : Kept s₀ (State.modAcct s p c f) := by
  unfold State.modAcct
  repeat' (first | with_reducible assumption | with_reducible apply State.modPort_kept)

theorem State.openAcct_kept {s₀ s : State} (h₀ : Kept s₀ s) (p : Nat) (c : Nat) : Kept s₀ (State.openAcct s p c) := by
  unfold State.openAcct
  repeat' (first | with_reducible assumption | ((with_reducible refine Kept.update ?_ ?_ (hf := ?_)) <;> first | with_reducible assumption | exact rfl | exact ⟨fun h => h⟩) | with_reducible apply State.modPort_kept | with_reducible apply State.modAcct_kept | ((try lift_lets); intro z; try (refine (have hz : Kept s₀ z := ?_; ?_))) | split | subst z)

theorem State.openAccts_kept {s₀ s : State} (h₀ : Kept s₀ s) : Kept s₀ (State.openAccts s) := by
  unfold State.openAccts
  repeat' (first | with_reducible assumption | with_reducible apply State.openAcct_kept | with_reducible refine Kept.foldl (fun _ _ _ => ?_) _ ?_)

theorem State.closeEntry_kept {s₀ s : State} (h₀ : Kept s₀ s) (p : Nat) (c : Nat) (sending : Bool) (q : Nat) (u : Nat) (n : Nat) : Kept s₀ (State.closeEntry s p c sending q u n) := by
  unfold State.closeEntry
  repeat' (first | with_reducible assumption | ((with_reducible refine Kept.update ?_ ?_ (hf := ?_)) <;> first | with_reducible assumption | exact rfl | exact ⟨fun h => h⟩) | with_reducible apply State.fault_kept | ((try lift_lets); intro z; try (refine (have hz : Kept s₀ z := ?_; ?_))) | split | subst z)

theorem State.bookClose_kept {s₀ s : State} (h₀ : Kept s₀ s) (p : Nat) (c : Nat) : Kept s₀ (State.bookClose s p c) := by
  unfold State.bookClose
  repeat' (first | with_reducible assumption | with_reducible apply State.closeEntry_kept | ((try lift_lets); intro z; try (refine (have hz : Kept s₀ z := ?_; ?_))) | split | subst z)

theorem State.closeAcct_kept {s₀ s : State} (h₀ : Kept s₀ s) (p : Nat) (c : Nat) : Kept s₀ (State.closeAcct s p c) := by
  unfold State.closeAcct
  repeat' (first | with_reducible assumption | ((with_reducible refine Kept.update ?_ ?_ (hf := ?_)) <;> first | with_reducible assumption | exact rfl | exact ⟨fun h => h⟩) | with_reducible apply State.bookClose_kept | with_reducible apply State.modPort_kept | with_reducible apply State.modAcct_kept | ((try lift_lets); intro z; try (refine (have hz : Kept s₀ z := ?_; ?_))) | split | subst z)

theorem State.sendLink_kept {s₀ s : State} (h₀ : Kept s₀ s) (p : Nat) (f : LinkFrame) : Kept s₀ (State.sendLink s p f) := by
  unfold State.sendLink
  repeat' (first | with_reducible assumption | ((with_reducible refine Kept.update ?_ ?_ (hf := ?_)) <;> first | with_reducible assumption | exact rfl | exact ⟨fun h => h⟩) | with_reducible apply State.modPort_kept | with_reducible apply State.send_kept | ((try lift_lets); intro z; try (refine (have hz : Kept s₀ z := ?_; ?_))) | subst z)

theorem State.hear_kept {s₀ s : State} (h₀ : Kept s₀ s) (p : Nat) : Kept s₀ (State.hear s p).1 := by
  unfold State.hear
  repeat' (first | with_reducible assumption | ((with_reducible refine Kept.update ?_ ?_ (hf := ?_)) <;> first | with_reducible assumption | exact rfl | exact ⟨fun h => h⟩) | with_reducible apply State.modPort_kept | ((try lift_lets); intro z; try (refine (have hz : Kept s₀ z := ?_; ?_))) | split | dsimp -zeta only | subst z)

theorem State.sendControl_kept {s₀ s : State} (h₀ : Kept s₀ s) (p : Nat) : Kept s₀ (State.sendControl s p) := by
  unfold State.sendControl
  repeat' (first | with_reducible assumption | ((with_reducible refine Kept.update ?_ ?_ (hf := ?_)) <;> first | with_reducible assumption | exact rfl | exact ⟨fun h => h⟩) | with_reducible apply State.modPort_kept | with_reducible apply State.sendLink_kept | with_reducible refine Kept.foldl (fun _ _ _ => ?_) _ ?_ | ((try lift_lets); intro z; try (refine (have hz : Kept s₀ z := ?_; ?_))) | subst z)

theorem State.sendOther_kept {s₀ s : State} (h₀ : Kept s₀ s) (p : Nat) (f : LinkFrame) : Kept s₀ (State.sendOther s p f) := by
  unfold State.sendOther
  repeat' (first | with_reducible assumption | with_reducible apply State.sendControl_kept | with_reducible apply State.sendLink_kept | split)

theorem State.flood_kept {s₀ s : State} (h₀ : Kept s₀ s) (but : Option Nat) (f : LinkFrame) : Kept s₀ (State.flood s but f) := by
  unfold State.flood
  repeat' (first | with_reducible assumption | with_reducible apply State.sendLink_kept | with_reducible apply State.sendOther_kept | with_reducible refine Kept.foldl (fun _ _ _ => ?_) _ ?_ | split)

theorem State.notify_kept {s₀ s : State} (h₀ : Kept s₀ s) (m : Notice) : Kept s₀ (State.notify s m) := by
  unfold State.notify
  repeat' (first | with_reducible assumption | ((with_reducible refine Kept.update ?_ ?_ (hf := ?_)) <;> first | with_reducible assumption | exact rfl | exact ⟨fun h => h⟩) | with_reducible apply State.flood_kept | ((try lift_lets); intro z; try (refine (have hz : Kept s₀ z := ?_; ?_))) | subst z)

theorem State.hearNotice_kept {s₀ s : State} (h₀ : Kept s₀ s) (p : Nat) (m : Notice) : Kept s₀ (State.hearNotice s p m).1 := by
  unfold State.hearNotice
  repeat' (first | with_reducible assumption | ((with_reducible refine Kept.update ?_ ?_ (hf := ?_)) <;> first | with_reducible assumption | exact rfl | exact ⟨fun h => h⟩) | with_reducible apply State.hear_kept | with_reducible apply State.flood_kept | ((try lift_lets); intro z; try (refine (have hz : Kept s₀ z := ?_; ?_))) | split | dsimp -zeta only | refine Kept.pair (by with_reducible assumption) ?_ | subst z)

theorem State.onNotice_kept {r s : State} (h : Kept r s) (p : Nat) (m : Notice) {f : State → State} (hf : ∀ z, Kept r z → Kept r (f z)) :
    Kept r (State.onNotice s p m f) := by
  unfold State.onNotice
  dsimp only
  repeat' (first | exact h | exact State.hearNotice_kept h _ _ | exact hf _ (State.hearNotice_kept h _ _) | split)

theorem State.queueControl_kept {s₀ s : State} (h₀ : Kept s₀ s) (p : Nat) (f : LinkFrame) : Kept s₀ (State.queueControl s p f) := by
  unfold State.queueControl
  repeat' (first | with_reducible assumption | ((with_reducible refine Kept.update ?_ ?_ (hf := ?_)) <;> first | with_reducible assumption | exact rfl | exact ⟨fun h => h⟩) | with_reducible apply State.modPort_kept | ((try lift_lets); intro z; try (refine (have hz : Kept s₀ z := ?_; ?_))) | subst z)

theorem State.writeStore_kept {r s : State} (h : Kept r s) (t off : Nat) (d : BitVec 2048) (marks : BitVec 8) :
    Kept r (State.writeStore s t off d marks) :=
  h.maps rfl fun c => by
    simp only [State.canonical_iff] at c
    exact ⟨⟨Mem.wf_put _ _ c.1.1, Sparse.wf_foldl _ _ (fun m w hm => Sparse.wf_set _ _ hm) c.1.2.1, c.1.2.2⟩, c.2⟩

theorem State.deliver_kept {s₀ s : State} (h₀ : Kept s₀ s) (p : Option Nat) (f : DataFrame) (a : AddIn) : KeptO s₀ (State.deliver s p f a) := by
  unfold State.deliver
  repeat' (first | with_reducible assumption | ((with_reducible refine Kept.update ?_ ?_ (hf := ?_)) <;> first | with_reducible assumption | exact rfl | exact ⟨fun h => h⟩) | with_reducible apply State.accessRaise_kept | with_reducible apply State.issueToken_kept | with_reducible apply State.addToken_kept | with_reducible apply State.fault_kept | with_reducible apply State.writeStore_kept | with_reducible apply State.redFault_kept | with_reducible apply State.request_kept | ((try lift_lets); intro z; try (refine (have hz : Kept s₀ z := ?_; ?_))) | split | dsimp -zeta only | with_reducible refine KeptO.some ?_ | with_reducible exact KeptO.none | refine KeptO.get ?_ (by with_reducible assumption) | subst z)

theorem State.relaySegment_kept {s₀ s : State} (h₀ : Kept s₀ s) (p : Nat) (f : DataFrame) : Kept s₀ (State.relaySegment s p f) := by
  unfold State.relaySegment
  repeat' (first | with_reducible assumption | ((with_reducible refine Kept.update ?_ ?_ (hf := ?_)) <;> first | with_reducible assumption | exact rfl | exact ⟨fun h => h⟩) | with_reducible apply State.modPort_kept | ((try lift_lets); intro z; try (refine (have hz : Kept s₀ z := ?_; ?_))) | split | subst z)

theorem State.acceptLine_kept {s₀ s : State} (h₀ : Kept s₀ s) (p : Nat) (f : DataFrame) (a : AddIn) : KeptO s₀ (State.acceptLine s p f a) := by
  unfold State.acceptLine
  repeat' (first | with_reducible assumption | ((with_reducible refine Kept.update ?_ ?_ (hf := ?_)) <;> first | with_reducible assumption | exact rfl | exact ⟨fun h => h⟩) | with_reducible apply State.relaySegment_kept | with_reducible apply State.deliver_kept | with_reducible apply State.modPort_kept | ((try lift_lets); intro z; try (refine (have hz : Kept s₀ z := ?_; ?_))) | split | with_reducible refine KeptO.some ?_ | with_reducible exact KeptO.none | refine KeptO.get ?_ (by with_reducible assumption) | subst z)

theorem State.freeLine_kept {s₀ s : State} (h₀ : Kept s₀ s) (p : Nat) (c : Nat) : Kept s₀ (State.freeLine s p c) := by
  unfold State.freeLine
  repeat' (first | with_reducible assumption | ((with_reducible refine Kept.update ?_ ?_ (hf := ?_)) <;> first | with_reducible assumption | exact rfl | exact ⟨fun h => h⟩) | with_reducible apply State.modAcct_kept | ((try lift_lets); intro z; try (refine (have hz : Kept s₀ z := ?_; ?_))) | split | subst z)

theorem State.serveGust_kept {r s : State} (h : Kept r s) (p : Nat) (a : AddIn) (fs kept : List DataFrame) (stuck : List Nat) :
    Kept r (State.serveGust p a fs kept stuck s) := by
  induction fs generalizing s kept stuck with
  | nil => exact State.modPort_kept h _ _
  | cons f fs ih =>
    unfold State.serveGust
    split
    · exact ih h _ _
    · split
      · exact ih (State.freeLine_kept (KeptO.get (State.acceptLine_kept h _ _ _) (by assumption)) _ _) _ _
      · exact ih h _ _

theorem State.drainGust_kept {s₀ s : State} (h₀ : Kept s₀ s) (p : Nat) (a : AddIn) : Kept s₀ (State.drainGust s p a) := by
  unfold State.drainGust
  repeat' (first | with_reducible assumption | with_reducible apply State.serveGust_kept)

theorem State.drainAllGust_kept {s₀ s : State} (h₀ : Kept s₀ s) : Kept s₀ (State.drainAllGust s) := by
  unfold State.drainAllGust
  repeat' (first | with_reducible assumption | with_reducible apply State.drainGust_kept | with_reducible refine Kept.foldl (fun _ _ _ => ?_) _ ?_ | split)

theorem State.enqueueGust_kept {s₀ s : State} (h₀ : Kept s₀ s) (p : Nat) (f : DataFrame) : Kept s₀ (State.enqueueGust s p f) := by
  unfold State.enqueueGust
  repeat' (first | with_reducible assumption | ((with_reducible refine Kept.update ?_ ?_ (hf := ?_)) <;> first | with_reducible assumption | exact rfl | exact ⟨fun h => h⟩) | with_reducible apply State.modPort_kept | with_reducible apply State.modAcct_kept | ((try lift_lets); intro z; try (refine (have hz : Kept s₀ z := ?_; ?_))) | split | subst z)

theorem State.dropFrame_kept {s₀ s : State} (h₀ : Kept s₀ s) (p : Nat) : Kept s₀ (State.dropFrame s p) := by
  unfold State.dropFrame
  repeat' (first | with_reducible assumption | ((with_reducible refine Kept.update ?_ ?_ (hf := ?_)) <;> first | with_reducible assumption | exact rfl | exact ⟨fun h => h⟩) | with_reducible apply State.modPort_kept | ((try lift_lets); intro z; try (refine (have hz : Kept s₀ z := ?_; ?_))) | subst z)

theorem State.arrive_kept {s₀ s : State} (h₀ : Kept s₀ s) (p : Nat) (f : DataFrame) (a : AddIn) : Kept s₀ (State.arrive s p f a) := by
  unfold State.arrive
  repeat' (first | with_reducible assumption | with_reducible apply State.hear_kept | with_reducible apply State.dropFrame_kept | with_reducible apply State.fault_kept | with_reducible apply State.enqueueGust_kept | with_reducible apply State.drainGust_kept | ((try lift_lets); intro z; try (refine (have hz : Kept s₀ z := ?_; ?_))) | split | dsimp -zeta only | refine Kept.pair (by with_reducible assumption) ?_ | subst z)

theorem State.originate_kept {s₀ s : State} (h₀ : Kept s₀ s) (f : DataFrame) (a : AddIn) : Kept s₀ (State.originate s f a) := by
  unfold State.originate
  repeat' (first | with_reducible assumption | ((with_reducible refine Kept.update ?_ ?_ (hf := ?_)) <;> first | with_reducible assumption | exact rfl | exact ⟨fun h => h⟩) | with_reducible apply State.modPort_kept | with_reducible apply State.drainGust_kept | ((try lift_lets); intro z; try (refine (have hz : Kept s₀ z := ?_; ?_))) | split | subst z)

theorem State.convey_kept {s₀ s : State} (h₀ : Kept s₀ s) (v : Variant) (f : DataFrame) : Kept s₀ (State.convey s v f) := by
  unfold State.convey
  repeat' (first | with_reducible assumption | ((with_reducible refine Kept.update ?_ ?_ (hf := ?_)) <;> first | with_reducible assumption | exact rfl | exact ⟨fun h => h⟩) | with_reducible apply State.modPort_kept | ((try lift_lets); intro z; try (refine (have hz : Kept s₀ z := ?_; ?_))) | split | subst z)

theorem dataFrame_kept {s₀ s : State} (h₀ : Kept s₀ s) (op : Nat) (p : Option (Fin 6)) (f : DataFrame) (a : AddIn) : Kept s₀ (dataFrame op p f a s) := by
  unfold dataFrame
  repeat' (first | with_reducible assumption | ((with_reducible refine Kept.update ?_ ?_ (hf := ?_)) <;> first | with_reducible assumption | exact rfl | exact ⟨fun h => h⟩) | with_reducible apply State.arrive_kept | with_reducible apply State.originate_kept | ((try lift_lets); intro z; try (refine (have hz : Kept s₀ z := ?_; ?_))) | split | subst z)

theorem execWrite_next (p : Option (Fin 6)) (f : DataFrame) (s : State) : ∃ s', execWrite p f s = .next s' ∧ Kept s s' := by
  have h₀ := Kept.refl s
  refine ⟨_, rfl, ?_⟩
  repeat' (first | with_reducible assumption | with_reducible apply dataFrame_kept)

theorem execAcc16_next (p : Option (Fin 6)) (f : DataFrame) (a : AddIn) (s : State) : ∃ s', execAcc16 p f a s = .next s' ∧ Kept s s' := by
  have h₀ := Kept.refl s
  refine ⟨_, rfl, ?_⟩
  repeat' (first | with_reducible assumption | with_reducible apply dataFrame_kept)

theorem execAcc32_next (p : Option (Fin 6)) (f : DataFrame) (a : AddIn) (s : State) : ∃ s', execAcc32 p f a s = .next s' ∧ Kept s s' := by
  have h₀ := Kept.refl s
  refine ⟨_, rfl, ?_⟩
  repeat' (first | with_reducible assumption | with_reducible apply dataFrame_kept)

theorem execTsigFrame_next (p : Option (Fin 6)) (f : DataFrame) (s : State) : ∃ s', execTsigFrame p f s = .next s' ∧ Kept s s' := by
  have h₀ := Kept.refl s
  refine ⟨_, rfl, ?_⟩
  repeat' (first | with_reducible assumption | with_reducible apply dataFrame_kept)

theorem crcFail_kept {s₀ s : State} (h₀ : Kept s₀ s) (p : Nat) (behind : Nat) : Kept s₀ (crcFail p behind s) := by
  unfold crcFail
  repeat' (first | with_reducible assumption | ((with_reducible refine Kept.update ?_ ?_ (hf := ?_)) <;> first | with_reducible assumption | exact rfl | exact ⟨fun h => h⟩) | with_reducible apply State.modPort_kept | with_reducible apply State.sendLink_kept | ((try lift_lets); intro z; try (refine (have hz : Kept s₀ z := ?_; ?_))) | split | subst z)

theorem execCrcFail_next (f : AtPort Nat) (s : State) : ∃ s', execCrcFail f s = .next s' ∧ Kept s s' := by
  have h₀ := Kept.refl s
  refine ⟨_, rfl, ?_⟩
  repeat' (first | with_reducible assumption | with_reducible apply crcFail_kept | split | dsimp -zeta only)

theorem State.resendLink_kept {s₀ s : State} (h₀ : Kept s₀ s) (p : Nat) (f : LinkFrame) : Kept s₀ (State.resendLink s p f) := by
  unfold State.resendLink
  repeat' (first | with_reducible assumption | ((with_reducible refine Kept.update ?_ ?_ (hf := ?_)) <;> first | with_reducible assumption | exact rfl | exact ⟨fun h => h⟩) | with_reducible apply State.modPort_kept | with_reducible apply State.send_kept | ((try lift_lets); intro z; try (refine (have hz : Kept s₀ z := ?_; ?_))) | subst z)

theorem nack_kept {s₀ s : State} (h₀ : Kept s₀ s) (p : Nat) (count : Nat) : Kept s₀ (nack p count s) := by
  unfold nack
  repeat' (first | with_reducible assumption | with_reducible apply State.hear_kept | with_reducible apply State.resendLink_kept | with_reducible refine Kept.foldl (fun _ _ _ => ?_) _ ?_ | ((try lift_lets); intro z; try (refine (have hz : Kept s₀ z := ?_; ?_))) | split | dsimp -zeta only | refine Kept.pair (by with_reducible assumption) ?_ | subst z)

theorem execNack_next (p : Fin 6) (count : Nat) (s : State) : ∃ s', execNack p count s = .next s' ∧ Kept s s' := by
  have h₀ := Kept.refl s
  refine ⟨_, rfl, ?_⟩
  repeat' (first | with_reducible assumption | with_reducible apply nack_kept | split)

theorem controlFrame_kept {s₀ s : State} (h₀ : Kept s₀ s) (p : Nat) (ack : Nat) (returns : List Nat) : Kept s₀ (controlFrame p ack returns s) := by
  unfold controlFrame
  repeat' (first | with_reducible assumption | ((with_reducible refine Kept.update ?_ ?_ (hf := ?_)) <;> first | with_reducible assumption | exact rfl | exact ⟨fun h => h⟩) | with_reducible apply State.hear_kept | with_reducible apply State.modPort_kept | with_reducible apply State.modAcct_kept | with_reducible apply State.drainAllGust_kept | with_reducible refine Kept.foldl (fun _ _ _ => ?_) _ ?_ | ((try lift_lets); intro z; try (refine (have hz : Kept s₀ z := ?_; ?_))) | split | dsimp -zeta only | refine Kept.pair (by with_reducible assumption) ?_ | subst z)

theorem State.purge_kept {s₀ s : State} (h₀ : Kept s₀ s) (p : Nat) : Kept s₀ (State.purge s p) := by
  unfold State.purge
  repeat' (first | with_reducible assumption | ((with_reducible refine Kept.update ?_ ?_ (hf := ?_)) <;> first | with_reducible assumption | exact rfl | exact ⟨fun h => h⟩) | with_reducible apply State.modPort_kept | ((try lift_lets); intro z; try (refine (have hz : Kept s₀ z := ?_; ?_))) | subst z)

theorem State.sendClass_kept {s₀ s : State} (h₀ : Kept s₀ s) (p : Nat) (c : Nat) : Kept s₀ (State.sendClass s p c) := by
  unfold State.sendClass
  repeat' (first | with_reducible assumption | ((with_reducible refine Kept.update ?_ ?_ (hf := ?_)) <;> first | with_reducible assumption | exact rfl | exact ⟨fun h => h⟩) | with_reducible apply State.modPort_kept | with_reducible apply State.modAcct_kept | with_reducible apply State.sendLink_kept | ((try lift_lets); intro z; try (refine (have hz : Kept s₀ z := ?_; ?_))) | split | subst z)

theorem dataSend_kept {s₀ s : State} (h₀ : Kept s₀ s) (p : Nat) : Kept s₀ (dataSend p s) := by
  unfold dataSend
  repeat' (first | with_reducible assumption | ((with_reducible refine Kept.update ?_ ?_ (hf := ?_)) <;> first | with_reducible assumption | exact rfl | exact ⟨fun h => h⟩) | with_reducible apply State.purge_kept | with_reducible apply State.sendControl_kept | with_reducible apply State.sendClass_kept | ((try lift_lets); intro z; try (refine (have hz : Kept s₀ z := ?_; ?_))) | split | subst z)

theorem execDataFrameSend_next (p : Fin 6) (s : State) : ∃ s', execDataFrameSend p s = .next s' ∧ Kept s s' := by
  have h₀ := Kept.refl s
  refine ⟨_, rfl, ?_⟩
  repeat' (first | with_reducible assumption | with_reducible apply dataSend_kept | split)

theorem execIdleControlFrame_next (p : Fin 6) (s : State) : ∃ s', execIdleControlFrame p s = .next s' ∧ Kept s s' := by
  have h₀ := Kept.refl s
  refine ⟨_, rfl, ?_⟩
  repeat' (first | with_reducible assumption | with_reducible apply State.sendControl_kept | split)

theorem execRelayDrop_next (p : Fin 6) (s : State) : ∃ s', execRelayDrop p s = .next s' ∧ Kept s s' := by
  have h₀ := Kept.refl s
  refine ⟨_, rfl, ?_⟩
  repeat' (first | with_reducible assumption | ((with_reducible refine Kept.update ?_ ?_ (hf := ?_)) <;> first | with_reducible assumption | exact rfl | exact ⟨fun h => h⟩) | with_reducible apply State.modPort_kept | ((try lift_lets); intro z; try (refine (have hz : Kept s z := ?_; ?_))) | split | subst z)

end Sys2Proof.Machine
end

