-- ==== Sys2Proof/Laws/RelayKept.lean ====
section
/-! SUPPORT. Each operation of Machine/Relay.lean leaves what `Kept` says as it is. -/

namespace Sys2Proof.Machine

theorem State.relayOut_kept {s₀ s : State} (h₀ : Kept s₀ s) (dest : Nat) (bs : List Byte) : Kept s₀ (State.relayOut s dest bs) := by
  unfold State.relayOut
  repeat' (first | with_reducible assumption | with_reducible apply State.originate_kept | with_reducible refine Kept.foldl (fun _ _ _ => ?_) _ ?_ | split)

theorem State.discardDg_kept {s₀ s : State} (h₀ : Kept s₀ s) : Kept s₀ (State.discardDg s) := by
  unfold State.discardDg
  repeat' (first | with_reducible assumption | ((with_reducible refine Kept.update ?_ ?_ (hf := ?_)) <;> first | with_reducible assumption | exact rfl | exact ⟨fun h => h⟩) | ((try lift_lets); intro z; try (refine (have hz : Kept s₀ z := ?_; ?_))) | subst z)

theorem State.rxdg_kept {s₀ s : State} (h₀ : Kept s₀ s) (port : Nat) : Kept s₀ (State.rxdg s port) := by
  unfold State.rxdg
  repeat' (first | with_reducible assumption | ((with_reducible refine Kept.update ?_ ?_ (hf := ?_)) <;> first | with_reducible assumption | exact rfl | exact ⟨fun h => h⟩) | ((try lift_lets); intro z; try (refine (have hz : Kept s₀ z := ?_; ?_))) | split | subst z)

theorem State.txdg_kept {s₀ s : State} (h₀ : Kept s₀ s) (port : Nat) : Kept s₀ (State.txdg s port) := by
  unfold State.txdg
  repeat' (first | with_reducible assumption | ((with_reducible refine Kept.update ?_ ?_ (hf := ?_)) <;> first | with_reducible assumption | exact rfl | exact ⟨fun h => h⟩) | ((try lift_lets); intro z; try (refine (have hz : Kept s₀ z := ?_; ?_))) | split | subst z)

theorem State.hostSend_kept {s₀ s : State} (h₀ : Kept s₀ s) (o : Out) (bs : List Byte) : Kept s₀ (State.hostSend s o bs) := by
  unfold State.hostSend
  repeat' (first | with_reducible assumption | with_reducible apply State.txdg_kept | with_reducible apply State.send_kept | with_reducible apply State.relayOut_kept | split)

theorem State.portSend_kept {s₀ s : State} (h₀ : Kept s₀ s) (port : Nat) (o : Out) (bs : List Byte) : Kept s₀ (State.portSend s port o bs) := by
  unfold State.portSend
  repeat' (first | with_reducible assumption | with_reducible apply State.hostSend_kept | with_reducible apply State.send_kept | split)

end Sys2Proof.Machine
end

