-- ==== Sys2Proof/Laws/StatusKept.lean ====
section
/-! SUPPORT. Each operation of Machine/Status.lean leaves what `Kept` says as it is. -/

namespace Sys2Proof.Machine

theorem State.respond_kept {s₀ s : State} (h₀ : Kept s₀ s) (port : Nat) (id : W48) (status : Nat) (addr : Nat) (ws : List W64) : Kept s₀ (State.respond s port id status addr ws) := by
  unfold State.respond
  repeat' (first | with_reducible assumption | with_reducible apply State.portSend_kept)

theorem State.refuse_kept {s₀ s : State} (h₀ : Kept s₀ s) (port : Nat) (id : W48) (status : Nat) (addr : Nat) : Kept s₀ (State.refuse s port id status addr) := by
  unfold State.refuse
  repeat' (first | with_reducible assumption | with_reducible apply State.fault_kept | with_reducible apply State.respond_kept)

theorem State.readWords_kept {r s : State} (h : Kept r s) (port : Nat) (as : List Nat) : Kept r (State.readWords s port as).1 := by
  induction as generalizing s with
  | nil => exact h
  | cons a as ih =>
    refine ih ?_
    split
    · exact h
    · exact State.readClear_kept h a

theorem State.answer_kept {s₀ s : State} (h₀ : Kept s₀ s) (port : Nat) (a : Nat) (n : Nat) (id : W48) : Kept s₀ (State.answer s port a n id) := by
  unfold State.answer
  repeat' (first | with_reducible assumption | with_reducible apply State.readWords_kept | with_reducible apply State.respond_kept | ((try lift_lets); intro z; try (refine (have hz : Kept s₀ z := ?_; ?_))) | dsimp -zeta only | refine Kept.pair (by with_reducible assumption) ?_ | subst z)

theorem jrnSelect_kept {s₀ s : State} (h₀ : Kept s₀ s) (port : Nat) (v : W64) : Kept s₀ (jrnSelect port v s) := by
  unfold jrnSelect
  repeat' (first | with_reducible assumption | ((with_reducible refine Kept.update ?_ ?_ (hf := ?_)) <;> first | with_reducible assumption | exact rfl | exact ⟨fun h => h⟩) | with_reducible apply State.setWin_kept | ((try lift_lets); intro z; try (refine (have hz : Kept s₀ z := ?_; ?_))) | subst z)

theorem frecSelect_kept {s₀ s : State} (h₀ : Kept s₀ s) (port : Nat) (v : W64) : Kept s₀ (frecSelect port v s) := by
  unfold frecSelect
  repeat' (first | with_reducible assumption | ((with_reducible refine Kept.update ?_ ?_ (hf := ?_)) <;> first | with_reducible assumption | exact rfl | exact ⟨fun h => h⟩) | with_reducible apply State.setWin_kept | ((try lift_lets); intro z; try (refine (have hz : Kept s₀ z := ?_; ?_))) | subst z)

theorem State.draw_kept {r s : State} (h : Kept r s) : Kept r (State.draw s).1 :=
  ⟨h.queue, h.time, h.keys, h.serial, h.macs, h.fuses, h.revoked, h.sent, Nat.le_succ_of_le h.fresh, h.canon⟩

theorem State.drawMany_kept {r s : State} (h : Kept r s) (n : Nat) : Kept r (State.drawMany s n).1 := by
  induction n generalizing s with
  | zero => exact h
  | succ n ih => exact ih (State.draw_kept h)

theorem State.imageHash_kept {r s : State} (h : Kept r s) : Kept r (State.imageHash s).1 := by
  unfold State.imageHash
  split
  · exact h
  · exact State.drawMany_kept h 6

theorem attRequest_kept {s₀ s : State} (h₀ : Kept s₀ s) (port : Nat) : Kept s₀ (attRequest port s) := by
  unfold attRequest
  repeat' (first | with_reducible assumption | ((with_reducible refine Kept.update ?_ ?_ (hf := ?_)) <;> first | with_reducible assumption | exact rfl | exact ⟨fun h => h⟩) | with_reducible apply State.imageHash_kept | with_reducible apply State.draw_kept | with_reducible apply State.setWin_kept | ((try lift_lets); intro z; try (refine (have hz : Kept s₀ z := ?_; ?_))) | dsimp -zeta only | refine Kept.pair (by with_reducible assumption) ?_ | subst z)

theorem tilFaultClear_kept {s₀ s : State} (h₀ : Kept s₀ s) (t : Nat) : Kept s₀ (tilFaultClear t s) := by
  unfold tilFaultClear
  repeat' (first | with_reducible assumption | ((with_reducible refine Kept.update ?_ ?_ (hf := ?_)) <;> first | with_reducible assumption | exact rfl | exact ⟨fun h => h⟩) | exact ⟨fun _ hy => hy⟩ | exact ⟨fun a _ => State.canonical_tile (Kept.canon ‹_› a) _⟩ | exact ⟨fun _ c => State.canonical_tile c _⟩ | refine TileStep.mk fun _ hy => ?_ | refine CanonTile.mk fun ha hy => ?_ | with_reducible exact hy | with_reducible apply Tile.tok_set | with_reducible apply Tile.tok_keep | with_reducible apply Tile.cw_set | exact hy | exact State.canonical_tile hy _ | exact State.canonical_tile (Kept.canon ‹_› ha) _ | with_reducible apply State.modTile_kept | with_reducible apply State.fault_kept | ((try lift_lets); intro z; try (refine (have hz : Kept s₀ z := ?_; ?_))) | subst z)

theorem State.writeWord_kept {s₀ s : State} (h₀ : Kept s₀ s) (port : Nat) (a : Nat) (v : W64) : Kept s₀ (State.writeWord s port a v) := by
  unfold State.writeWord
  repeat' (first | with_reducible assumption | ((with_reducible refine Kept.update ?_ ?_ (hf := ?_)) <;> first | with_reducible assumption | exact rfl | exact ⟨fun h => h⟩) | with_reducible apply State.setWin_kept | with_reducible apply jrnSelect_kept | with_reducible apply frecSelect_kept | with_reducible apply attRequest_kept | with_reducible apply tilFaultClear_kept | ((try lift_lets); intro z; try (refine (have hz : Kept s₀ z := ?_; ?_))) | split | subst z)

theorem State.serveOp_kept {s₀ s : State} (h₀ : Kept s₀ s) (q : StatOp) : Kept s₀ (State.serveOp s q) := by
  unfold State.serveOp
  repeat' (first | with_reducible assumption | ((with_reducible refine Kept.update ?_ ?_ (hf := ?_)) <;> first | with_reducible assumption | exact rfl | exact ⟨fun h => h⟩) | with_reducible apply State.refuse_kept | with_reducible apply State.answer_kept | with_reducible apply State.writeWord_kept | with_reducible apply State.respond_kept | ((try lift_lets); intro z; try (refine (have hz : Kept s₀ z := ?_; ?_))) | split | subst z)

theorem serveOps_kept {r s : State} (h : Kept r s) (qs : List StatOp) : Kept r (serveOps qs s) := by
  induction qs generalizing s with
  | nil => exact h.update rfl
  | cons q qs ih =>
    unfold serveOps
    split
    · exact h.update rfl
    · exact ih (State.serveOp_kept h q)

theorem State.putOp_kept {s₀ s : State} (h₀ : Kept s₀ s) (q : StatOp) : Kept s₀ (State.putOp s q) := by
  unfold State.putOp
  repeat' (first | with_reducible assumption | with_reducible apply serveOps_kept)

theorem State.answerWaiting_kept {s₀ s : State} (h₀ : Kept s₀ s) : Kept s₀ (State.answerWaiting s) := by
  unfold State.answerWaiting
  repeat' (first | with_reducible assumption | with_reducible apply serveOps_kept)

theorem State.statIn_kept {s₀ s : State} (h₀ : Kept s₀ s) (r : StatReq) (bytes : List Byte) (q : StatOp) : Kept s₀ (State.statIn s r bytes q) := by
  unfold State.statIn
  repeat' (first | with_reducible assumption | with_reducible apply State.putOp_kept | with_reducible apply State.rxdg_kept | with_reducible apply State.discardDg_kept | with_reducible apply State.relayOut_kept | split)

theorem statusGet_kept {s₀ s : State} (h₀ : Kept s₀ s) (r : StatReq) (count : Nat) : Kept s₀ (statusGet r count s) := by
  unfold statusGet
  repeat' (first | with_reducible assumption | with_reducible apply State.statIn_kept)

theorem statusPut_kept {s₀ s : State} (h₀ : Kept s₀ s) (r : StatReq) (v : W64) : Kept s₀ (statusPut r v s) := by
  unfold statusPut
  repeat' (first | with_reducible assumption | with_reducible apply State.statIn_kept)

theorem execSread_next (r : StatReq) (count : Nat) (s : State) : ∃ s', execSread r count s = .next s' ∧ Kept s s' := by
  have h₀ := Kept.refl s
  refine ⟨_, rfl, ?_⟩
  repeat' (first | with_reducible assumption | with_reducible apply statusGet_kept | split)

theorem execSwrite_next (r : StatReq) (v : W64) (s : State) : ∃ s', execSwrite r v s = .next s' ∧ Kept s s' := by
  have h₀ := Kept.refl s
  refine ⟨_, rfl, ?_⟩
  repeat' (first | with_reducible assumption | with_reducible apply statusPut_kept | split)

theorem execRcRead_next (r : StatReq) (s : State) : ∃ s', execRcRead r s = .next s' ∧ Kept s s' := by
  have h₀ := Kept.refl s
  refine ⟨_, rfl, ?_⟩
  repeat' (first | with_reducible assumption | with_reducible apply statusGet_kept | split)

theorem State.putWrite_kept {s₀ s : State} (h₀ : Kept s₀ s) (port : Nat) (addr : Nat) (v : W64) : Kept s₀ (State.putWrite s port addr v) := by
  unfold State.putWrite
  repeat' (first | with_reducible assumption | with_reducible apply State.putOp_kept)

theorem execJrnSel_next (p : Fin 2) (v : W64) (s : State) : ∃ s', execJrnSel p v s = .next s' ∧ Kept s s' := by
  have h₀ := Kept.refl s
  refine ⟨_, rfl, ?_⟩
  repeat' (first | with_reducible assumption | with_reducible apply State.putWrite_kept | split)

theorem execItgFsel_next (p : Fin 2) (v : W64) (s : State) : ∃ s', execItgFsel p v s = .next s' ∧ Kept s s' := by
  have h₀ := Kept.refl s
  refine ⟨_, rfl, ?_⟩
  repeat' (first | with_reducible assumption | with_reducible apply State.putWrite_kept | split)

theorem execBotAttreq_next (p : Fin 2) (v : W64) (s : State) : ∃ s', execBotAttreq p v s = .next s' ∧ Kept s s' := by
  have h₀ := Kept.refl s
  refine ⟨_, rfl, ?_⟩
  repeat' (first | with_reducible assumption | with_reducible apply State.putWrite_kept | split)

theorem execTilFaultValidClear_next (t : Fin 16) (s : State) : ∃ s', execTilFaultValidClear t s = .next s' ∧ Kept s s' := by
  have h₀ := Kept.refl s
  refine ⟨_, rfl, ?_⟩
  repeat' (first | with_reducible assumption | with_reducible apply State.putWrite_kept | split)

theorem jrnFetched_kept {s₀ s : State} (h₀ : Kept s₀ s) (port : Nat) : Kept s₀ (jrnFetched port s) := by
  unfold jrnFetched
  repeat' (first | with_reducible assumption | ((with_reducible refine Kept.update ?_ ?_ (hf := ?_)) <;> first | with_reducible assumption | exact rfl | exact ⟨fun h => h⟩) | with_reducible apply State.setWin_kept | with_reducible apply State.answerWaiting_kept | ((try lift_lets); intro z; try (refine (have hz : Kept s₀ z := ?_; ?_))) | split | subst z)

theorem execJrnFetchComplete_next (p : Fin 2) (s : State) : ∃ s', execJrnFetchComplete p s = .next s' ∧ Kept s s' := by
  have h₀ := Kept.refl s
  refine ⟨_, rfl, ?_⟩
  repeat' (first | with_reducible assumption | with_reducible apply jrnFetched_kept | split)

theorem frecFetched_kept {s₀ s : State} (h₀ : Kept s₀ s) (port : Nat) : Kept s₀ (frecFetched port s) := by
  unfold frecFetched
  repeat' (first | with_reducible assumption | ((with_reducible refine Kept.update ?_ ?_ (hf := ?_)) <;> first | with_reducible assumption | exact rfl | exact ⟨fun h => h⟩) | with_reducible apply State.setWin_kept | with_reducible apply State.answerWaiting_kept | ((try lift_lets); intro z; try (refine (have hz : Kept s₀ z := ?_; ?_))) | split | subst z)

theorem execFrecFetchComplete_next (p : Fin 2) (s : State) : ∃ s', execFrecFetchComplete p s = .next s' ∧ Kept s s' := by
  have h₀ := Kept.refl s
  refine ⟨_, rfl, ?_⟩
  repeat' (first | with_reducible assumption | with_reducible apply frecFetched_kept | split)

theorem attFormed_kept {s₀ s : State} (h₀ : Kept s₀ s) (port : Nat) : Kept s₀ (attFormed port s) := by
  unfold attFormed
  repeat' (first | with_reducible assumption | ((with_reducible refine Kept.update ?_ ?_ (hf := ?_)) <;> first | with_reducible assumption | exact rfl | exact ⟨fun h => h⟩) | with_reducible apply State.setWin_kept | with_reducible apply State.answerWaiting_kept | ((try lift_lets); intro z; try (refine (have hz : Kept s₀ z := ?_; ?_))) | split | subst z)

theorem execAttestationReportFormed_next (p : Fin 2) (s : State) : ∃ s', execAttestationReportFormed p s = .next s' ∧ Kept s s' := by
  have h₀ := Kept.refl s
  refine ⟨_, rfl, ?_⟩
  repeat' (first | with_reducible assumption | with_reducible apply attFormed_kept | split)

end Sys2Proof.Machine
end

