-- ==== Sys2Proof/Laws/HostPortKept.lean ====
section
/-! SUPPORT. Each operation of Machine/HostPort.lean leaves what `Kept` says as it is. -/

namespace Sys2Proof.Machine

theorem State.setIn_kept {s₀ s : State} (h₀ : Kept s₀ s) (x : InStream) : Kept s₀ (State.setIn s x) := by
  unfold State.setIn
  repeat' (first | with_reducible assumption | ((with_reducible refine Kept.update ?_ ?_ (hf := ?_)) <;> first | with_reducible assumption | exact rfl | exact ⟨fun h => h⟩) | ((try lift_lets); intro z; try (refine (have hz : Kept s₀ z := ?_; ?_))) | subst z)

theorem State.newEpoch_kept {s₀ s : State} (h₀ : Kept s₀ s) (n : Nat) : Kept s₀ (State.newEpoch s n) := by
  unfold State.newEpoch
  repeat' (first | with_reducible assumption | ((with_reducible refine Kept.update ?_ ?_ (hf := ?_)) <;> first | with_reducible assumption | exact rfl | exact ⟨fun h => h⟩) | with_reducible apply State.setIn_kept | ((try lift_lets); intro z; try (refine (have hz : Kept s₀ z := ?_; ?_))) | subst z)

theorem State.sendAck_kept {s₀ s : State} (h₀ : Kept s₀ s) (n : Nat) (cum : W48) (rs : List (W48 × Nat)) : Kept s₀ (State.sendAck s n cum rs) := by
  unfold State.sendAck
  repeat' (first | with_reducible assumption | with_reducible apply State.hostSend_kept | ((try lift_lets); intro z; try (refine (have hz : Kept s₀ z := ?_; ?_))) | subst z)

theorem State.ackStream_kept {s₀ s : State} (h₀ : Kept s₀ s) (n : Nat) : Kept s₀ (State.ackStream s n) := by
  unfold State.ackStream
  repeat' (first | with_reducible assumption | ((with_reducible refine Kept.update ?_ ?_ (hf := ?_)) <;> first | with_reducible assumption | exact rfl | exact ⟨fun h => h⟩) | with_reducible apply State.setIn_kept | with_reducible apply State.sendAck_kept | ((try lift_lets); intro z; try (refine (have hz : Kept s₀ z := ?_; ?_))) | dsimp -zeta only | subst z)

theorem State.takeImageBytes_kept {s₀ s : State} (h₀ : Kept s₀ s) (n : Nat) : Kept s₀ (State.takeImageBytes s n) := by
  unfold State.takeImageBytes
  repeat' (first | with_reducible assumption | ((with_reducible refine Kept.update ?_ ?_ (hf := ?_)) <;> first | with_reducible assumption | exact rfl | exact ⟨fun h => h⟩) | with_reducible apply State.setIn_kept | ((try lift_lets); intro z; try (refine (have hz : Kept s₀ z := ?_; ?_))) | split | subst z)

theorem State.takeData_kept {s₀ s : State} (h₀ : Kept s₀ s) (d : DataDg) : Kept s₀ (State.takeData s d) := by
  unfold State.takeData
  repeat' (first | with_reducible assumption | ((with_reducible refine Kept.update ?_ ?_ (hf := ?_)) <;> first | with_reducible assumption | exact rfl | exact ⟨fun h => h⟩) | with_reducible apply State.ackStream_kept | with_reducible apply State.setIn_kept | with_reducible apply State.takeImageBytes_kept | ((try lift_lets); intro z; try (refine (have hz : Kept s₀ z := ?_; ?_))) | split | dsimp -zeta only | subst z)

theorem State.dataIn_kept {s₀ s : State} (h₀ : Kept s₀ s) (d : DataDg) : Kept s₀ (State.dataIn s d) := by
  unfold State.dataIn
  repeat' (first | with_reducible assumption | with_reducible apply State.rxdg_kept | with_reducible apply State.discardDg_kept | with_reducible apply State.relayOut_kept | with_reducible apply State.sendAck_kept | with_reducible apply State.takeData_kept | ((try lift_lets); intro z; try (refine (have hz : Kept s₀ z := ?_; ?_))) | split | subst z)

theorem execAckTimer_next (n : Nat) (s : State) : ∃ s', execAckTimer n s = .next s' ∧ Kept s s' := by
  have h₀ := Kept.refl s
  refine ⟨_, rfl, ?_⟩
  repeat' (first | with_reducible assumption | with_reducible apply State.ackStream_kept | split)

theorem State.modOut_kept {s₀ s : State} (h₀ : Kept s₀ s) (n : Nat) (f : OutStream → OutStream) : Kept s₀ (State.modOut s n f) := by
  unfold State.modOut
  repeat' (first | with_reducible assumption | ((with_reducible refine Kept.update ?_ ?_ (hf := ?_)) <;> first | with_reducible assumption | exact rfl | exact ⟨fun h => h⟩) | ((try lift_lets); intro z; try (refine (have hz : Kept s₀ z := ?_; ?_))) | subst z)

theorem State.pump_kept {r s : State} (h : Kept r s) (n k : Nat) : Kept r (State.pump s n k) := by
  induction k generalizing s with
  | zero => exact h
  | succ k ih =>
    unfold State.pump
    split
    · split
      · exact h
      · split
        · exact h
        · exact ih (State.hostSend_kept (State.modOut_kept h _ _) _ _)
    · exact h

theorem State.sinkFault_kept {s₀ s : State} (h₀ : Kept s₀ s) (p : Nat) (a : Nat) : Kept s₀ (State.sinkFault s p a) := by
  unfold State.sinkFault
  repeat' (first | with_reducible assumption | with_reducible apply State.fault_kept | split)

theorem State.outflow_kept {s₀ s : State} (h₀ : Kept s₀ s) (n : Nat) (kind : Nat) (plan : Nat) (step : W48) (bs : List Byte) : Kept s₀ (State.outflow s n kind plan step bs) := by
  unfold State.outflow
  repeat' (first | with_reducible assumption | ((with_reducible refine Kept.update ?_ ?_ (hf := ?_)) <;> first | with_reducible assumption | exact rfl | exact ⟨fun h => h⟩) | with_reducible apply State.modOut_kept | with_reducible apply State.pump_kept | ((try lift_lets); intro z; try (refine (have hz : Kept s₀ z := ?_; ?_))) | subst z)

theorem State.newOutEpoch_kept {s₀ s : State} (h₀ : Kept s₀ s) (n : Nat) : Kept s₀ (State.newOutEpoch s n) := by
  unfold State.newOutEpoch
  repeat' (first | with_reducible assumption | ((with_reducible refine Kept.update ?_ ?_ (hf := ?_)) <;> first | with_reducible assumption | exact rfl | exact ⟨fun h => h⟩) | with_reducible apply State.modOut_kept | with_reducible apply State.pump_kept | ((try lift_lets); intro z; try (refine (have hz : Kept s₀ z := ?_; ?_))) | split | subst z)

theorem ackIn_kept {s₀ s : State} (h₀ : Kept s₀ s) (a : AckDg) : Kept s₀ (ackIn a s) := by
  unfold ackIn
  repeat' (first | with_reducible assumption | ((with_reducible refine Kept.update ?_ ?_ (hf := ?_)) <;> first | with_reducible assumption | exact rfl | exact ⟨fun h => h⟩) | with_reducible apply State.rxdg_kept | with_reducible apply State.discardDg_kept | with_reducible apply State.modOut_kept | with_reducible apply State.pump_kept | ((try lift_lets); intro z; try (refine (have hz : Kept s₀ z := ?_; ?_))) | split | dsimp -zeta only | subst z)

theorem ackAt_kept {s₀ s : State} (h₀ : Kept s₀ s) (a : AckDg) : Kept s₀ (ackAt a s) := by
  unfold ackAt
  repeat' (first | with_reducible assumption | with_reducible apply State.rxdg_kept | with_reducible apply State.discardDg_kept | with_reducible apply State.relayOut_kept | with_reducible apply ackIn_kept | split)

theorem execAck_next (a : AckDg) (s : State) : ∃ s', execAck a s = .next s' ∧ Kept s s' := by
  have h₀ := Kept.refl s
  refine ⟨_, rfl, ?_⟩
  repeat' (first | with_reducible assumption | with_reducible apply ackAt_kept | split)

theorem resendOut_kept {s₀ s : State} (h₀ : Kept s₀ s) (n : Nat) (seq : W48) : Kept s₀ (resendOut n seq s) := by
  unfold resendOut
  repeat' (first | with_reducible assumption | ((with_reducible refine Kept.update ?_ ?_ (hf := ?_)) <;> first | with_reducible assumption | exact rfl | exact ⟨fun h => h⟩) | with_reducible apply State.modOut_kept | with_reducible apply State.fault_kept | with_reducible apply State.hostSend_kept | with_reducible apply State.outflow_kept | ((try lift_lets); intro z; try (refine (have hz : Kept s₀ z := ?_; ?_))) | split | ((with_reducible refine Kept.update ?_ ?_ (hf := ?_)) <;> first | exact rfl | exact ⟨fun h => h⟩ | with_reducible apply State.modOut_kept | with_reducible apply State.fault_kept | with_reducible apply State.hostSend_kept | with_reducible apply State.outflow_kept) | subst z)

theorem execRetransmissionTimeout_next (n : Nat) (seq : W48) (s : State) : ∃ s', execRetransmissionTimeout n seq s = .next s' ∧ Kept s s' := by
  have h₀ := Kept.refl s
  refine ⟨_, rfl, ?_⟩
  repeat' (first | with_reducible assumption | with_reducible apply resendOut_kept | split)

theorem execKeepAlive_next (n : Nat) (s : State) : ∃ s', execKeepAlive n s = .next s' ∧ Kept s s' := by
  have h₀ := Kept.refl s
  refine ⟨_, rfl, ?_⟩
  repeat' (first | with_reducible assumption | ((with_reducible refine Kept.update ?_ ?_ (hf := ?_)) <;> first | with_reducible assumption | exact rfl | exact ⟨fun h => h⟩) | with_reducible apply State.hostSend_kept | ((try lift_lets); intro z; try (refine (have hz : Kept s z := ?_; ?_))) | split | subst z)

theorem State.setPtp_kept {s₀ s : State} (h₀ : Kept s₀ s) (v : Nat) : Kept s₀ (State.setPtp s v) := by
  unfold State.setPtp
  repeat' (first | with_reducible assumption | ((with_reducible refine Kept.update ?_ ?_ (hf := ?_)) <;> first | with_reducible assumption | exact rfl | exact ⟨fun h => h⟩) | with_reducible apply State.fault_kept | ((try lift_lets); intro z; try (refine (have hz : Kept s₀ z := ?_; ?_))) | split | subst z)

theorem ptpSync_kept {s₀ s : State} (h₀ : Kept s₀ s) (offset : Int) (calibrated : Bool) : Kept s₀ (ptpSync offset calibrated s) := by
  unfold ptpSync
  repeat' (first | with_reducible assumption | ((with_reducible refine Kept.update ?_ ?_ (hf := ?_)) <;> first | with_reducible assumption | exact rfl | exact ⟨fun h => h⟩) | with_reducible apply State.setPtp_kept | ((try lift_lets); intro z; try (refine (have hz : Kept s₀ z := ?_; ?_))) | split | subst z)

theorem execPtpSync_next (offset : Int) (m : PtpIn) (s : State) : ∃ s', execPtpSync offset m s = .next s' ∧ Kept s s' := by
  have h₀ := Kept.refl s
  refine ⟨_, rfl, ?_⟩
  repeat' (first | with_reducible assumption | with_reducible apply ptpSync_kept | split)

theorem execPtpHoldover_next (s : State) : ∃ s', execPtpHoldover s = .next s' ∧ Kept s s' := by
  have h₀ := Kept.refl s
  refine ⟨_, rfl, ?_⟩
  repeat' (first | with_reducible assumption | ((with_reducible refine Kept.update ?_ ?_ (hf := ?_)) <;> first | with_reducible assumption | exact rfl | exact ⟨fun h => h⟩) | with_reducible apply State.setPtp_kept | ((try lift_lets); intro z; try (refine (have hz : Kept s z := ?_; ?_))) | split | subst z)

theorem State.hostDown_kept {s₀ s : State} (h₀ : Kept s₀ s) : Kept s₀ (State.hostDown s) := by
  unfold State.hostDown
  repeat' (first | with_reducible assumption | ((with_reducible refine Kept.update ?_ ?_ (hf := ?_)) <;> first | with_reducible assumption | exact rfl | exact ⟨fun h => h⟩) | with_reducible apply State.fault_kept | ((try lift_lets); intro z; try (refine (have hz : Kept s₀ z := ?_; ?_))) | split | subst z)

theorem execHostLinkDown_next (s : State) : ∃ s', execHostLinkDown s = .next s' ∧ Kept s s' := by
  have h₀ := Kept.refl s
  refine ⟨_, rfl, ?_⟩
  repeat' (first | with_reducible assumption | with_reducible apply State.hostDown_kept | split)

theorem hostLinkUp_kept {s₀ s : State} (h₀ : Kept s₀ s) : Kept s₀ (hostLinkUp s) := by
  unfold hostLinkUp
  repeat' (first | with_reducible assumption | ((with_reducible refine Kept.update ?_ ?_ (hf := ?_)) <;> first | with_reducible assumption | exact rfl | exact ⟨fun h => h⟩) | with_reducible apply State.setPtp_kept | ((try lift_lets); intro z; try (refine (have hz : Kept s₀ z := ?_; ?_))) | split | subst z)

theorem execHostLinkUp_next (s : State) : ∃ s', execHostLinkUp s = .next s' ∧ Kept s s' := by
  have h₀ := Kept.refl s
  refine ⟨_, rfl, ?_⟩
  repeat' (first | with_reducible assumption | with_reducible apply hostLinkUp_kept | split)

theorem hostFrame_kept {s₀ s : State} (h₀ : Kept s₀ s) (f : HostFrame) : Kept s₀ (hostFrame f s) := by
  unfold hostFrame
  repeat' (first | with_reducible assumption | ((with_reducible refine Kept.update ?_ ?_ (hf := ?_)) <;> first | with_reducible assumption | exact rfl | exact ⟨fun h => h⟩) | with_reducible apply State.send_kept | with_reducible apply State.rxdg_kept | with_reducible apply State.discardDg_kept | ((try lift_lets); intro z; try (refine (have hz : Kept s₀ z := ?_; ?_))) | split | subst z)

theorem execNeighborDiscoveryArpEcho_next (f : HostFrame) (s : State) : ∃ s', execNeighborDiscoveryArpEcho f s = .next s' ∧ Kept s s' := by
  have h₀ := Kept.refl s
  refine ⟨_, rfl, ?_⟩
  repeat' (first | with_reducible assumption | with_reducible apply hostFrame_kept | split)

end Sys2Proof.Machine
end

