-- ==== Sys2Proof/Laws/IntakeKept.lean ====
section
/-! SUPPORT. Each operation of Machine/Intake.lean leaves what `Kept` says as it is. -/

namespace Sys2Proof.Machine

theorem State.laneUpdate_kept {s₀ s : State} (h₀ : Kept s₀ s) (l : Nat) : Kept s₀ (State.laneUpdate s l) := by
  unfold State.laneUpdate
  repeat' (first | with_reducible assumption | ((with_reducible refine Kept.update ?_ ?_ (hf := ?_)) <;> first | with_reducible assumption | exact rfl | exact ⟨fun h => h⟩) | with_reducible apply idle_kept | with_reducible apply State.setLane_kept | with_reducible refine Kept.foldl (fun _ _ _ => ?_) _ ?_ | ((try lift_lets); intro z; try (refine (have hz : Kept s₀ z := ?_; ?_))) | split | subst z)

theorem State.inkFault_kept {s₀ s : State} (h₀ : Kept s₀ s) (code : Nat) (l : Nat) (seq : W48) : Kept s₀ (State.inkFault s code l seq) := by
  unfold State.inkFault
  repeat' (first | with_reducible assumption | with_reducible apply State.fault_kept)

theorem State.emptyLane_kept {s₀ s : State} (h₀ : Kept s₀ s) (l : Nat) : Kept s₀ (State.emptyLane s l) := by
  unfold State.emptyLane
  repeat' (first | with_reducible assumption | ((with_reducible refine Kept.update ?_ ?_ (hf := ?_)) <;> first | with_reducible assumption | exact rfl | exact ⟨fun h => h⟩) | with_reducible apply State.modLane_kept | with_reducible apply State.laneUpdate_kept | ((try lift_lets); intro z; try (refine (have hz : Kept s₀ z := ?_; ?_))) | subst z)

theorem State.emptyLanes_kept {s₀ s : State} (h₀ : Kept s₀ s) (p : Nat) : Kept s₀ (State.emptyLanes s p) := by
  unfold State.emptyLanes
  repeat' (first | with_reducible assumption | with_reducible apply State.emptyLane_kept | with_reducible refine Kept.foldl (fun _ _ _ => ?_) _ ?_)

theorem State.stageWrite_kept {s₀ s : State} (h₀ : Kept s₀ s) (plan : Nat) (a : Nat) (bs : List Byte) : Kept s₀ (State.stageWrite s plan a bs) := by
  unfold State.stageWrite
  repeat' (first | with_reducible assumption | with_reducible apply State.putBytes_kept | dsimp -zeta only)

theorem State.readyToken_kept {s₀ s : State} (h₀ : Kept s₀ s) (l : Nat) : Kept s₀ (State.readyToken s l) := by
  unfold State.readyToken
  repeat' (first | with_reducible assumption | ((with_reducible refine Kept.update ?_ ?_ (hf := ?_)) <;> first | with_reducible assumption | exact rfl | exact ⟨fun h => h⟩) | exact ⟨fun _ hy => hy⟩ | exact ⟨fun a _ => State.canonical_tile (Kept.canon ‹_› a) _⟩ | exact ⟨fun _ c => State.canonical_tile c _⟩ | refine TileStep.mk fun _ hy => ?_ | refine CanonTile.mk fun ha hy => ?_ | with_reducible exact hy | with_reducible apply Tile.tok_set | with_reducible apply Tile.tok_keep | with_reducible apply Tile.cw_set | exact hy | exact State.canonical_tile hy _ | exact State.canonical_tile (Kept.canon ‹_› ha) _ | with_reducible apply State.modTile_kept | with_reducible refine Kept.foldl (fun _ _ _ => ?_) _ ?_ | ((try lift_lets); intro z; try (refine (have hz : Kept s₀ z := ?_; ?_))) | split | subst z)

theorem State.batchDone_kept {s₀ s : State} (h₀ : Kept s₀ s) (l : Nat) : Kept s₀ (State.batchDone s l) := by
  unfold State.batchDone
  repeat' (first | with_reducible assumption | ((with_reducible refine Kept.update ?_ ?_ (hf := ?_)) <;> first | with_reducible assumption | exact rfl | exact ⟨fun h => h⟩) | with_reducible apply State.modLane_kept | with_reducible apply State.send_kept | with_reducible apply State.outflow_kept | with_reducible apply State.readyToken_kept | ((try lift_lets); intro z; try (refine (have hz : Kept s₀ z := ?_; ?_))) | dsimp -zeta only | subst z)

theorem State.stagePos_kept {s₀ s : State} (h₀ : Kept s₀ s) (l : Nat) (flags : Nat) (e0 : Nat) (e1 : Nat) (data : List Byte) (m : ManEntry) : Kept s₀ (State.stagePos s l flags e0 e1 data m) := by
  unfold State.stagePos
  repeat' (first | with_reducible assumption | ((with_reducible refine Kept.update ?_ ?_ (hf := ?_)) <;> first | with_reducible assumption | exact rfl | exact ⟨fun h => h⟩) | with_reducible apply State.stageWrite_kept | with_reducible apply State.modLane_kept | with_reducible apply State.batchDone_kept | ((try lift_lets); intro z; try (refine (have hz : Kept s₀ z := ?_; ?_))) | split | dsimp -zeta only | subst z)

theorem State.reject_kept {s₀ s : State} (h₀ : Kept s₀ s) (l : Nat) (x : Pending) : Kept s₀ (State.reject s l x) := by
  unfold State.reject
  repeat' (first | with_reducible assumption | ((with_reducible refine Kept.update ?_ ?_ (hf := ?_)) <;> first | with_reducible assumption | exact rfl | exact ⟨fun h => h⟩) | with_reducible apply State.modLane_kept | with_reducible apply State.inkFault_kept | ((try lift_lets); intro z; try (refine (have hz : Kept s₀ z := ?_; ?_))) | split | subst z)

theorem State.placeRecord_kept {s₀ s : State} (h₀ : Kept s₀ s) (l : Nat) (flags : Nat) (x : Pending) (m : ManEntry) : Kept s₀ (State.placeRecord s l flags x m) := by
  unfold State.placeRecord
  repeat' (first | with_reducible assumption | ((with_reducible refine Kept.update ?_ ?_ (hf := ?_)) <;> first | with_reducible assumption | exact rfl | exact ⟨fun h => h⟩) | with_reducible apply State.modLane_kept | with_reducible apply State.stagePos_kept | ((try lift_lets); intro z; try (refine (have hz : Kept s₀ z := ?_; ?_))) | dsimp -zeta only | subst z)

theorem State.stageReserve_kept {s₀ s : State} (h₀ : Kept s₀ s) (l : Nat) (k : Nat) (x : Pending) : Kept s₀ (State.stageReserve s l k x) := by
  unfold State.stageReserve
  repeat' (first | with_reducible assumption | with_reducible apply State.stageWrite_kept | ((try lift_lets); intro z; try (refine (have hz : Kept s₀ z := ?_; ?_))) | dsimp -zeta only | subst z)

theorem State.decideReserve_kept {s₀ s : State} (h₀ : Kept s₀ s) (l : Nat) (x : Pending) : Kept s₀ (State.decideReserve s l x) := by
  unfold State.decideReserve
  repeat' (first | with_reducible assumption | ((with_reducible refine Kept.update ?_ ?_ (hf := ?_)) <;> first | with_reducible assumption | exact rfl | exact ⟨fun h => h⟩) | with_reducible apply State.modLane_kept | with_reducible apply State.inkFault_kept | with_reducible apply State.reject_kept | with_reducible apply State.stageReserve_kept | ((try lift_lets); intro z; try (refine (have hz : Kept s₀ z := ?_; ?_))) | split | subst z)

theorem State.decideRegular_kept {s₀ s : State} (h₀ : Kept s₀ s) (l : Nat) (x : Pending) : Kept s₀ (State.decideRegular s l x) := by
  unfold State.decideRegular
  repeat' (first | with_reducible assumption | ((with_reducible refine Kept.update ?_ ?_ (hf := ?_)) <;> first | with_reducible assumption | exact rfl | exact ⟨fun h => h⟩) | with_reducible apply State.reject_kept | with_reducible apply State.modLane_kept | with_reducible apply State.placeRecord_kept | with_reducible apply State.inkFault_kept | with_reducible apply State.stagePos_kept | ((try lift_lets); intro z; try (refine (have hz : Kept s₀ z := ?_; ?_))) | split | subst z)

theorem State.settle_kept {r s : State} (h : Kept r s) (l n : Nat) : Kept r (State.settle l n s) := by
  induction n generalizing s with
  | zero => exact State.laneUpdate_kept h l
  | succ n ih =>
    unfold State.settle
    split
    · exact State.laneUpdate_kept h l
    · split
      · exact State.laneUpdate_kept h l
      · split
        · exact ih (State.decideReserve_kept (State.modLane_kept h _ _) _ _)
        · split
          · exact ih (State.decideRegular_kept (State.modLane_kept h _ _) _ _)
          · exact State.laneUpdate_kept h l

theorem State.settleLane_kept {s₀ s : State} (h₀ : Kept s₀ s) (l : Nat) : Kept s₀ (State.settleLane s l) := by
  unfold State.settleLane
  repeat' (first | with_reducible assumption | with_reducible apply State.settle_kept)

theorem State.queueSensor_kept {s₀ s : State} (h₀ : Kept s₀ s) (l : Nat) (x : Pending) : Kept s₀ (State.queueSensor s l x) := by
  unfold State.queueSensor
  repeat' (first | with_reducible assumption | ((with_reducible refine Kept.update ?_ ?_ (hf := ?_)) <;> first | with_reducible assumption | exact rfl | exact ⟨fun h => h⟩) | with_reducible apply State.modLane_kept | ((try lift_lets); intro z; try (refine (have hz : Kept s₀ z := ?_; ?_))) | split | subst z)

theorem State.takeRecord_kept {s₀ s : State} (h₀ : Kept s₀ s) (l : Nat) (h : Rec) (payload : List Byte) : Kept s₀ (State.takeRecord s l h payload) := by
  unfold State.takeRecord
  repeat' (first | with_reducible assumption | ((with_reducible refine Kept.update ?_ ?_ (hf := ?_)) <;> first | with_reducible assumption | exact rfl | exact ⟨fun h => h⟩) | with_reducible apply State.modLane_kept | with_reducible apply State.queueSensor_kept | with_reducible apply State.reject_kept | with_reducible apply State.laneUpdate_kept | with_reducible apply State.settleLane_kept | ((try lift_lets); intro z; try (refine (have hz : Kept s₀ z := ?_; ?_))) | split | dsimp -zeta only | subst z)

theorem State.consumed_kept {s₀ s : State} (h₀ : Kept s₀ s) (n : Nat) (h : Rec) (payload : List Byte) : KeptO s₀ (State.consumed s n h payload) := by
  unfold State.consumed
  repeat' (first | with_reducible assumption | ((with_reducible refine Kept.update ?_ ?_ (hf := ?_)) <;> first | with_reducible assumption | exact rfl | exact ⟨fun h => h⟩) | with_reducible apply State.setIn_kept | ((try lift_lets); intro z; try (refine (have hz : Kept s₀ z := ?_; ?_))) | split | with_reducible refine KeptO.some ?_ | with_reducible exact KeptO.none | subst z)

theorem State.updateLanes_kept {s₀ s : State} (h₀ : Kept s₀ s) (n : Nat) : Kept s₀ (State.updateLanes s n) := by
  unfold State.updateLanes
  repeat' (first | with_reducible assumption | with_reducible apply State.laneUpdate_kept | with_reducible refine Kept.foldl (fun _ _ _ => ?_) _ ?_)

theorem sampleRecord_kept {s₀ s : State} (h₀ : Kept s₀ s) (n : Nat) (h : Rec) (payload : List Byte) : Kept s₀ (sampleRecord n h payload s) := by
  unfold sampleRecord
  repeat' (first | with_reducible assumption | ((with_reducible refine Kept.update ?_ ?_ (hf := ?_)) <;> first | with_reducible assumption | exact rfl | exact ⟨fun h => h⟩) | with_reducible apply State.consumed_kept | with_reducible apply State.raise_kept | with_reducible apply State.inkFault_kept | with_reducible apply State.setLane_kept | with_reducible apply State.takeRecord_kept | with_reducible apply State.updateLanes_kept | ((try lift_lets); intro z; try (refine (have hz : Kept s₀ z := ?_; ?_))) | split | refine KeptO.get ?_ (by with_reducible assumption) | subst z)

theorem execSampleRecord_next (l : Fin 16) (lead : W64) (rest : Rec) (payload : List Byte) (s : State) : ∃ s', execSampleRecord l lead rest payload s = .next s' ∧ Kept s s' := by
  have h₀ := Kept.refl s
  refine ⟨_, rfl, ?_⟩
  repeat' (first | with_reducible assumption | with_reducible apply sampleRecord_kept | split)

theorem decodeComplete_kept {r s : State} (h : Kept r s) (l : Nat) (seq : W48) : Kept r (decodeComplete l seq s) := by
  unfold decodeComplete
  dsimp only
  split
  · exact h
  · split
    · exact h
    · generalize engine _ _ _ = e
      cases e <;> exact State.settleLane_kept (State.setLane_kept h _ _) _

theorem execDecodeComplete_next (l : Fin 16) (seq : W48) (_engine : Nat) (s : State) : ∃ s', execDecodeComplete l seq _engine s = .next s' ∧ Kept s s' := by
  have h₀ := Kept.refl s
  refine ⟨_, rfl, ?_⟩
  repeat' (first | with_reducible assumption | with_reducible apply decodeComplete_kept | split)

theorem State.dropFrames_kept {s₀ s : State} (h₀ : Kept s₀ s) (l : Nat) (n : Nat) : Kept s₀ (State.dropFrames s l n) := by
  unfold State.dropFrames
  repeat' (first | with_reducible assumption | ((with_reducible refine Kept.update ?_ ?_ (hf := ?_)) <;> first | with_reducible assumption | exact rfl | exact ⟨fun h => h⟩) | with_reducible apply State.modLane_kept | ((try lift_lets); intro z; try (refine (have hz : Kept s₀ z := ?_; ?_))) | subst z)

theorem State.setSensor_kept {s₀ s : State} (h₀ : Kept s₀ s) (l : Nat) (k : Nat) (q : List Pending) : Kept s₀ (State.setSensor s l k q) := by
  unfold State.setSensor
  repeat' (first | with_reducible assumption | ((with_reducible refine Kept.update ?_ ?_ (hf := ?_)) <;> first | with_reducible assumption | exact rfl | exact ⟨fun h => h⟩) | with_reducible apply State.modLane_kept | ((try lift_lets); intro z; try (refine (have hz : Kept s₀ z := ?_; ?_))) | subst z)

theorem State.sensorAbsent_kept {s₀ s : State} (h₀ : Kept s₀ s) (l : Nat) : Kept s₀ (State.sensorAbsent s l) := by
  unfold State.sensorAbsent
  repeat' (first | with_reducible assumption | ((with_reducible refine Kept.update ?_ ?_ (hf := ?_)) <;> first | with_reducible assumption | exact rfl | exact ⟨fun h => h⟩) | with_reducible apply State.modLane_kept | with_reducible apply State.inkFault_kept | with_reducible apply State.stagePos_kept | ((try lift_lets); intro z; try (refine (have hz : Kept s₀ z := ?_; ?_))) | subst z)

theorem State.placeSensor_kept {s₀ s : State} (h₀ : Kept s₀ s) (l : Nat) (src : Nat) (reason : Nat) (flags : Nat) (y : Pending) : Kept s₀ (State.placeSensor s l src reason flags y) := by
  unfold State.placeSensor
  repeat' (first | with_reducible assumption | ((with_reducible refine Kept.update ?_ ?_ (hf := ?_)) <;> first | with_reducible assumption | exact rfl | exact ⟨fun h => h⟩) | with_reducible apply State.modLane_kept | with_reducible apply State.stagePos_kept | with_reducible apply State.placeRecord_kept | ((try lift_lets); intro z; try (refine (have hz : Kept s₀ z := ?_; ?_))) | split | subst z)

theorem State.decideSensor_kept {s₀ s : State} (h₀ : Kept s₀ s) (l : Nat) : Kept s₀ (State.decideSensor s l) := by
  unfold State.decideSensor
  dsimp only
  repeat' (first | with_reducible assumption | ((with_reducible refine Kept.update ?_ ?_ (hf := ?_)) <;> first | with_reducible assumption | exact rfl | exact ⟨fun h => h⟩) | with_reducible apply State.sensorAbsent_kept | with_reducible apply State.setSensor_kept | with_reducible apply State.placeSensor_kept | with_reducible apply State.inkFault_kept | with_reducible apply State.dropFrames_kept | ((try lift_lets); intro z; try (refine (have hz : Kept s₀ z := ?_; ?_))) | split | dsimp -zeta only | subst z)

theorem State.sensorTick_kept {s₀ s : State} (h₀ : Kept s₀ s) (l : Nat) : Kept s₀ (State.sensorTick s l) := by
  unfold State.sensorTick
  repeat' (first | with_reducible assumption | with_reducible apply State.decideSensor_kept | with_reducible apply State.laneUpdate_kept | with_reducible refine Kept.foldl (fun _ _ _ => ?_) _ ?_ | ((try lift_lets); intro z; try (refine (have hz : Kept s₀ z := ?_; ?_))) | split | subst z)

theorem State.intakeTick_kept {s₀ s : State} (h₀ : Kept s₀ s) : Kept s₀ (State.intakeTick s) := by
  unfold State.intakeTick
  repeat' (first | with_reducible assumption | with_reducible apply State.sensorTick_kept | with_reducible apply State.readyToken_kept | with_reducible refine Kept.foldl (fun _ _ _ => ?_) _ ?_ | split)

theorem State.deliverBatches_kept {s₀ s : State} (h₀ : Kept s₀ s) : Kept s₀ (State.deliverBatches s) := by
  unfold State.deliverBatches
  repeat' (first | with_reducible assumption | ((with_reducible refine Kept.update ?_ ?_ (hf := ?_)) <;> first | with_reducible assumption | exact rfl | exact ⟨fun h => h⟩) | with_reducible apply State.modLane_kept | with_reducible apply State.settleLane_kept | with_reducible refine Kept.foldl (fun _ _ _ => ?_) _ ?_ | ((try lift_lets); intro z; try (refine (have hz : Kept s₀ z := ?_; ?_))) | split | subst z)

theorem State.stepLanes_kept {s₀ s : State} (h₀ : Kept s₀ s) (p : Nat) : Kept s₀ (State.stepLanes s p) := by
  unfold State.stepLanes
  repeat' (first | with_reducible assumption | ((with_reducible refine Kept.update ?_ ?_ (hf := ?_)) <;> first | with_reducible assumption | exact rfl | exact ⟨fun h => h⟩) | with_reducible apply State.modLane_kept | with_reducible refine Kept.foldl (fun _ _ _ => ?_) _ ?_ | ((try lift_lets); intro z; try (refine (have hz : Kept s₀ z := ?_; ?_))) | subst z)

end Sys2Proof.Machine
end

