-- ==== Sys2Proof/Laws/DomainKept.lean ====
section
/-! SUPPORT. Each operation of Machine/Domain.lean leaves what `Kept` says as it is. -/

namespace Sys2Proof.Machine

theorem State.sendIdentity_kept {s₀ s : State} (h₀ : Kept s₀ s) (p : Nat) : Kept s₀ (State.sendIdentity s p) := by
  unfold State.sendIdentity
  repeat' (first | with_reducible assumption | ((with_reducible refine Kept.update ?_ ?_ (hf := ?_)) <;> first | with_reducible assumption | exact rfl | exact ⟨fun h => h⟩) | with_reducible apply State.sendOther_kept | with_reducible apply State.modPort_kept | ((try lift_lets); intro z; try (refine (have hz : Kept s₀ z := ?_; ?_))) | subst z)

theorem State.discardLines_kept {s₀ s : State} (h₀ : Kept s₀ s) (p : Nat) (c : Nat) : Kept s₀ (State.discardLines s p c) := by
  unfold State.discardLines
  repeat' (first | with_reducible assumption | ((with_reducible refine Kept.update ?_ ?_ (hf := ?_)) <;> first | with_reducible assumption | exact rfl | exact ⟨fun h => h⟩) | with_reducible apply State.modPort_kept | with_reducible apply State.modAcct_kept | ((try lift_lets); intro z; try (refine (have hz : Kept s₀ z := ?_; ?_))) | split | subst z)

theorem State.closePlan_kept {s₀ s : State} (h₀ : Kept s₀ s) (c : Nat) : Kept s₀ (State.closePlan s c) := by
  unfold State.closePlan
  repeat' (first | with_reducible assumption | with_reducible apply State.bookClose_kept | with_reducible apply State.discardLines_kept | with_reducible apply State.sendControl_kept | with_reducible apply State.modAcct_kept | with_reducible refine Kept.foldl (fun _ _ _ => ?_) _ ?_ | ((try lift_lets); intro z; try (refine (have hz : Kept s₀ z := ?_; ?_))) | split | subst z)

theorem State.undoGrants_kept {s₀ s : State} (h₀ : Kept s₀ s) (p : Nat) : Kept s₀ (State.undoGrants s p) := by
  unfold State.undoGrants
  repeat' (first | with_reducible assumption | ((with_reducible refine Kept.update ?_ ?_ (hf := ?_)) <;> first | with_reducible assumption | exact rfl | exact ⟨fun h => h⟩) | with_reducible apply State.modFrm_kept | with_reducible refine Kept.foldl (fun _ _ _ => ?_) _ ?_ | ((try lift_lets); intro z; try (refine (have hz : Kept s₀ z := ?_; ?_))) | split | dsimp -zeta only | subst z)

theorem State.withdraw_kept {s₀ s : State} (h₀ : Kept s₀ s) (p : Nat) : Kept s₀ (State.withdraw s p) := by
  unfold State.withdraw
  repeat' (first | with_reducible assumption | ((with_reducible refine Kept.update ?_ ?_ (hf := ?_)) <;> first | with_reducible assumption | exact rfl | exact ⟨fun h => h⟩) | with_reducible apply State.stopPlan_kept | with_reducible apply State.modPlan_kept | with_reducible apply State.closePlan_kept | with_reducible apply State.emptyLanes_kept | with_reducible apply State.undoGrants_kept | with_reducible apply State.modFrm_kept | ((try lift_lets); intro z; try (refine (have hz : Kept s₀ z := ?_; ?_))) | split | subst z)

theorem State.announceWithdraw_kept {s₀ s : State} (h₀ : Kept s₀ s) (p : Nat) : Kept s₀ (State.announceWithdraw s p) := by
  unfold State.announceWithdraw
  repeat' (first | with_reducible assumption | ((with_reducible refine Kept.update ?_ ?_ (hf := ?_)) <;> first | with_reducible assumption | exact rfl | exact ⟨fun h => h⟩) | with_reducible apply State.withdraw_kept | with_reducible apply State.notify_kept)

theorem State.leaderCheck_kept {s₀ s : State} (h₀ : Kept s₀ s) (r : LinkReport) : Kept s₀ (State.leaderCheck s r) := by
  unfold State.leaderCheck
  repeat' (first | with_reducible assumption | with_reducible apply State.announceWithdraw_kept | with_reducible refine Kept.foldl (fun _ _ _ => ?_) _ ?_ | split)

theorem State.floodReport_kept {s₀ s : State} (h₀ : Kept s₀ s) : Kept s₀ (State.floodReport s) := by
  unfold State.floodReport
  dsimp only
  repeat' (first | with_reducible assumption | ((with_reducible refine Kept.update ?_ ?_ (hf := ?_)) <;> first | with_reducible assumption | exact rfl | exact ⟨fun h => h⟩) | with_reducible apply State.flood_kept | with_reducible apply State.leaderCheck_kept | ((try lift_lets); intro z; try (refine (have hz : Kept s₀ z := ?_; ?_))) | subst z)

theorem State.takeReport_kept {s₀ s : State} (h₀ : Kept s₀ s) (q : Nat) (r : LinkReport) : Kept s₀ (State.takeReport s q r) := by
  unfold State.takeReport
  repeat' (first | with_reducible assumption | ((with_reducible refine Kept.update ?_ ?_ (hf := ?_)) <;> first | with_reducible assumption | exact rfl | exact ⟨fun h => h⟩) | with_reducible apply State.flood_kept | with_reducible apply State.leaderCheck_kept | ((try lift_lets); intro z; try (refine (have hz : Kept s₀ z := ?_; ?_))) | split | subst z)

theorem linkReport_kept {s₀ s : State} (h₀ : Kept s₀ s) (p : Option Nat) (r : LinkReport) : Kept s₀ (linkReport p r s) := by
  unfold linkReport
  repeat' (first | with_reducible assumption | ((with_reducible refine Kept.update ?_ ?_ (hf := ?_)) <;> first | with_reducible assumption | exact rfl | exact ⟨fun h => h⟩) | with_reducible apply State.floodReport_kept | with_reducible apply State.hear_kept | with_reducible apply State.takeReport_kept | ((try lift_lets); intro z; try (refine (have hz : Kept s₀ z := ?_; ?_))) | split | dsimp -zeta only | refine Kept.pair (by with_reducible assumption) ?_ | subst z)

theorem execLinkReport_next (p : Option (Fin 6)) (r : LinkReport) (s : State) : ∃ s', execLinkReport p r s = .next s' ∧ Kept s s' := by
  have h₀ := Kept.refl s
  refine ⟨_, rfl, ?_⟩
  repeat' (first | with_reducible assumption | with_reducible apply linkReport_kept | split)

theorem State.adopt_kept {s₀ s : State} (h₀ : Kept s₀ s) (ranks : List Presence) (links : List Nat) (variants : List Nat) : Kept s₀ (State.adopt s ranks links variants) := by
  unfold State.adopt
  repeat' (first | with_reducible assumption | ((with_reducible refine Kept.update ?_ ?_ (hf := ?_)) <;> first | with_reducible assumption | exact rfl | exact ⟨fun h => h⟩) | with_reducible apply State.modPlan_kept | with_reducible apply State.modFrm_kept | with_reducible refine Kept.foldl (fun _ _ _ => ?_) _ ?_ | ((try lift_lets); intro z; try (refine (have hz : Kept s₀ z := ?_; ?_))) | split | subst z)

theorem rosterAssembly_kept {s₀ s : State} (h₀ : Kept s₀ s) : Kept s₀ (rosterAssembly s) := by
  unfold rosterAssembly
  repeat' (first | with_reducible assumption | with_reducible apply State.adopt_kept | with_reducible apply State.flood_kept | ((try lift_lets); intro z; try (refine (have hz : Kept s₀ z := ?_; ?_))) | split | dsimp -zeta only | subst z)

theorem execRosterAssembly_next (s : State) : ∃ s', execRosterAssembly s = .next s' ∧ Kept s s' := by
  have h₀ := Kept.refl s
  refine ⟨_, rfl, ?_⟩
  repeat' (first | with_reducible assumption | with_reducible apply rosterAssembly_kept | split)

theorem State.split_kept {s₀ s : State} (h₀ : Kept s₀ s) : Kept s₀ (State.split s) := by
  unfold State.split
  repeat' (first | with_reducible assumption | with_reducible apply State.fault_kept)

theorem roster_kept {s₀ s : State} (h₀ : Kept s₀ s) (p : Nat) (r : RosterIn) : Kept s₀ (roster p r s) := by
  unfold roster
  repeat' (first | with_reducible assumption | with_reducible apply State.hear_kept | with_reducible apply State.adopt_kept | with_reducible apply State.flood_kept | with_reducible apply State.split_kept | ((try lift_lets); intro z; try (refine (have hz : Kept s₀ z := ?_; ?_))) | split | dsimp -zeta only | refine Kept.pair (by with_reducible assumption) ?_ | subst z)

theorem execRoster_next (f : AtPort RosterIn) (s : State) : ∃ s', execRoster f s = .next s' ∧ Kept s s' := by
  have h₀ := Kept.refl s
  refine ⟨_, rfl, ?_⟩
  repeat' (first | with_reducible assumption | with_reducible apply roster_kept | split | dsimp -zeta only)

theorem State.beginSet_kept {s₀ s : State} (h₀ : Kept s₀ s) (p : Nat) (n : Nat) : Kept s₀ (State.beginSet s p n) := by
  unfold State.beginSet
  repeat' (first | with_reducible assumption | ((with_reducible refine Kept.update ?_ ?_ (hf := ?_)) <;> first | with_reducible assumption | exact rfl | exact ⟨fun h => h⟩) | with_reducible apply State.modPort_kept | with_reducible apply State.sendOther_kept | ((try lift_lets); intro z; try (refine (have hz : Kept s₀ z := ?_; ?_))) | subst z)

theorem portTrained_kept {s₀ s : State} (h₀ : Kept s₀ s) (p : Nat) : Kept s₀ (portTrained p s) := by
  unfold portTrained
  repeat' (first | with_reducible assumption | ((with_reducible refine Kept.update ?_ ?_ (hf := ?_)) <;> first | with_reducible assumption | exact rfl | exact ⟨fun h => h⟩) | with_reducible apply State.modPort_kept | with_reducible apply State.sendIdentity_kept | with_reducible apply State.beginSet_kept | ((try lift_lets); intro z; try (refine (have hz : Kept s₀ z := ?_; ?_))) | split | subst z)

theorem execPortTrained_next (p : Fin 6) (s : State) : ∃ s', execPortTrained p s = .next s' ∧ Kept s s' := by
  have h₀ := Kept.refl s
  refine ⟨_, rfl, ?_⟩
  repeat' (first | with_reducible assumption | with_reducible apply portTrained_kept | split)

theorem execPortTrainTimeout_next (p : Fin 6) (s : State) : ∃ s', execPortTrainTimeout p s = .next s' ∧ Kept s s' := by
  have h₀ := Kept.refl s
  refine ⟨_, rfl, ?_⟩
  repeat' (first | with_reducible assumption | ((with_reducible refine Kept.update ?_ ?_ (hf := ?_)) <;> first | with_reducible assumption | exact rfl | exact ⟨fun h => h⟩) | with_reducible apply State.modPort_kept | ((try lift_lets); intro z; try (refine (have hz : Kept s z := ?_; ?_))) | split | subst z)

theorem execIdentityRepeat_next (p : Fin 6) (s : State) : ∃ s', execIdentityRepeat p s = .next s' ∧ Kept s s' := by
  have h₀ := Kept.refl s
  refine ⟨_, rfl, ?_⟩
  repeat' (first | with_reducible assumption | with_reducible apply State.sendIdentity_kept | split)

theorem State.exclude_kept {s₀ s : State} (h₀ : Kept s₀ s) (p : Nat) (why : Nat) : Kept s₀ (State.exclude s p why) := by
  unfold State.exclude
  repeat' (first | with_reducible assumption | ((with_reducible refine Kept.update ?_ ?_ (hf := ?_)) <;> first | with_reducible assumption | exact rfl | exact ⟨fun h => h⟩) | with_reducible apply State.modPort_kept | with_reducible apply State.fault_kept | with_reducible apply State.closeAcct_kept | with_reducible apply State.floodReport_kept | with_reducible refine Kept.foldl (fun _ _ _ => ?_) _ ?_ | ((try lift_lets); intro z; try (refine (have hz : Kept s₀ z := ?_; ?_))) | split | subst z)

theorem State.comeUp_kept {s₀ s : State} (h₀ : Kept s₀ s) (p : Nat) : Kept s₀ (State.comeUp s p) := by
  unfold State.comeUp
  repeat' (first | with_reducible assumption | ((with_reducible refine Kept.update ?_ ?_ (hf := ?_)) <;> first | with_reducible assumption | exact rfl | exact ⟨fun h => h⟩) | with_reducible apply State.exclude_kept | with_reducible apply State.modPort_kept | with_reducible apply State.openAccts_kept | with_reducible apply State.floodReport_kept | ((try lift_lets); intro z; try (refine (have hz : Kept s₀ z := ?_; ?_))) | split | subst z)

theorem identityFrame_kept {s₀ s : State} (h₀ : Kept s₀ s) (p : Nat) (b : IdBody) (acked : Bool) : Kept s₀ (identityFrame p b acked s) := by
  unfold identityFrame
  repeat' (first | with_reducible assumption | ((with_reducible refine Kept.update ?_ ?_ (hf := ?_)) <;> first | with_reducible assumption | exact rfl | exact ⟨fun h => h⟩) | with_reducible apply State.hear_kept | with_reducible apply State.modPort_kept | with_reducible apply State.exclude_kept | with_reducible apply State.comeUp_kept | ((try lift_lets); intro z; try (refine (have hz : Kept s₀ z := ?_; ?_))) | split | dsimp -zeta only | refine Kept.pair (by with_reducible assumption) ?_ | subst z)

theorem execIdentityFrame_next (p : Fin 6) (b : IdBody) (acked : Bool) (s : State) : ∃ s', execIdentityFrame p b acked s = .next s' ∧ Kept s s' := by
  have h₀ := Kept.refl s
  refine ⟨_, rfl, ?_⟩
  repeat' (first | with_reducible assumption | with_reducible apply identityFrame_kept | split)

theorem State.latencyCheck_kept {s₀ s : State} (h₀ : Kept s₀ s) (p : Nat) : Kept s₀ (State.latencyCheck s p) := by
  unfold State.latencyCheck
  repeat' (first | with_reducible assumption | with_reducible apply State.exclude_kept | split)

theorem probeFrame_kept {s₀ s : State} (h₀ : Kept s₀ s) (p : Nat) (rtt : Nat) : Kept s₀ (probeFrame p rtt s) := by
  unfold probeFrame
  repeat' (first | with_reducible assumption | ((with_reducible refine Kept.update ?_ ?_ (hf := ?_)) <;> first | with_reducible assumption | exact rfl | exact ⟨fun h => h⟩) | with_reducible apply State.hear_kept | with_reducible apply State.modPort_kept | with_reducible apply State.sendOther_kept | with_reducible apply State.latencyCheck_kept | with_reducible apply State.fault_kept | ((try lift_lets); intro z; try (refine (have hz : Kept s₀ z := ?_; ?_))) | split | dsimp -zeta only | refine Kept.pair (by with_reducible assumption) ?_ | subst z)

theorem State.lullProbes_kept {s₀ s : State} (h₀ : Kept s₀ s) : Kept s₀ (State.lullProbes s) := by
  unfold State.lullProbes
  repeat' (first | with_reducible assumption | with_reducible apply State.beginSet_kept | with_reducible refine Kept.foldl (fun _ _ _ => ?_) _ ?_ | split)

theorem execProbeFrame_next (p : Fin 6) (rtt : Nat) (s : State) : ∃ s', execProbeFrame p rtt s = .next s' ∧ Kept s s' := by
  have h₀ := Kept.refl s
  refine ⟨_, rfl, ?_⟩
  repeat' (first | with_reducible assumption | with_reducible apply probeFrame_kept | split)

theorem State.portDown_kept {s₀ s : State} (h₀ : Kept s₀ s) (p : Nat) : Kept s₀ (State.portDown s p) := by
  unfold State.portDown
  repeat' (first | with_reducible assumption | ((with_reducible refine Kept.update ?_ ?_ (hf := ?_)) <;> first | with_reducible assumption | exact rfl | exact ⟨fun h => h⟩) | with_reducible apply State.fault_kept | with_reducible apply State.closeAcct_kept | with_reducible apply State.modPort_kept | with_reducible apply State.floodReport_kept | with_reducible refine Kept.foldl (fun _ _ _ => ?_) _ ?_ | ((try lift_lets); intro z; try (refine (have hz : Kept s₀ z := ?_; ?_))) | subst z)

theorem execLinkDown_next (p : Fin 6) (s : State) : ∃ s', execLinkDown p s = .next s' ∧ Kept s s' := by
  have h₀ := Kept.refl s
  refine ⟨_, rfl, ?_⟩
  repeat' (first | with_reducible assumption | with_reducible apply State.portDown_kept | split)

theorem State.markLane_kept {s₀ s : State} (h₀ : Kept s₀ s) (p : Nat) (lane : Nat) (cause : Nat) (dead : Bool) : Kept s₀ (State.markLane s p lane cause dead) := by
  unfold State.markLane
  repeat' (first | with_reducible assumption | ((with_reducible refine Kept.update ?_ ?_ (hf := ?_)) <;> first | with_reducible assumption | exact rfl | exact ⟨fun h => h⟩) | with_reducible apply State.modPort_kept | with_reducible apply State.queueDelta_kept | ((try lift_lets); intro z; try (refine (have hz : Kept s₀ z := ?_; ?_))) | split | subst z)

theorem laneFailing_kept {s₀ s : State} (h₀ : Kept s₀ s) (p : Nat) (lane : Nat) (symbols : Nat) (corrected : Nat) (uncorrectable : Nat) : Kept s₀ (laneFailing p lane symbols corrected uncorrectable s) := by
  unfold laneFailing
  repeat' (first | with_reducible assumption | ((with_reducible refine Kept.update ?_ ?_ (hf := ?_)) <;> first | with_reducible assumption | exact rfl | exact ⟨fun h => h⟩) | with_reducible apply State.modPort_kept | with_reducible apply State.corrected_kept | with_reducible apply State.fault_kept | with_reducible apply State.markLane_kept | ((try lift_lets); intro z; try (refine (have hz : Kept s₀ z := ?_; ?_))) | split | subst z)

theorem execLaneFailing_next (p : Fin 6) (lane : Fin 9) (symbols : Nat) (corrected : Nat) (uncorrectable : Nat) (s : State) : ∃ s', execLaneFailing p lane symbols corrected uncorrectable s = .next s' ∧ Kept s s' := by
  have h₀ := Kept.refl s
  refine ⟨_, rfl, ?_⟩
  repeat' (first | with_reducible assumption | with_reducible apply laneFailing_kept | with_reducible apply State.corrected_kept | split)

theorem laneDead_kept {s₀ s : State} (h₀ : Kept s₀ s) (p : Nat) (lane : Nat) : Kept s₀ (laneDead p lane s) := by
  unfold laneDead
  repeat' (first | with_reducible assumption | ((with_reducible refine Kept.update ?_ ?_ (hf := ?_)) <;> first | with_reducible assumption | exact rfl | exact ⟨fun h => h⟩) | with_reducible apply State.modPort_kept | with_reducible apply State.markLane_kept | with_reducible apply State.portDown_kept | with_reducible apply State.fault_kept | ((try lift_lets); intro z; try (refine (have hz : Kept s₀ z := ?_; ?_))) | split | subst z)

theorem execLaneDead_next (p : Fin 6) (lane : Fin 9) (s : State) : ∃ s', execLaneDead p lane s = .next s' ∧ Kept s s' := by
  have h₀ := Kept.refl s
  refine ⟨_, rfl, ?_⟩
  repeat' (first | with_reducible assumption | with_reducible apply laneDead_kept | split)

theorem laneSpared_kept {s₀ s : State} (h₀ : Kept s₀ s) (p : Nat) : Kept s₀ (laneSpared p s) := by
  unfold laneSpared
  repeat' (first | with_reducible assumption | ((with_reducible refine Kept.update ?_ ?_ (hf := ?_)) <;> first | with_reducible assumption | exact rfl | exact ⟨fun h => h⟩) | with_reducible apply State.modPort_kept | with_reducible apply State.fault_kept | ((try lift_lets); intro z; try (refine (have hz : Kept s₀ z := ?_; ?_))) | split | subst z)

theorem execLaneSpared_next (p : Fin 6) (s : State) : ∃ s', execLaneSpared p s = .next s' ∧ Kept s s' := by
  have h₀ := Kept.refl s
  refine ⟨_, rfl, ?_⟩
  repeat' (first | with_reducible assumption | with_reducible apply laneSpared_kept | split)

theorem execPlanWithdrawal_next (f : AtPort (Fin 4)) (s : State) : ∃ s', execPlanWithdrawal f s = .next s' ∧ Kept s s' := by
  have h₀ := Kept.refl s
  refine ⟨_, rfl, ?_⟩
  repeat' (first | with_reducible assumption | ((with_reducible refine Kept.update ?_ ?_ (hf := ?_)) <;> first | with_reducible assumption | exact rfl | exact ⟨fun h => h⟩) | with_reducible refine State.onNotice_kept ?_ _ _ (fun _ _ => ?_) | with_reducible apply State.withdraw_kept | dsimp -zeta only)

theorem execTwinMismatchReport_next (f : AtPort (Fin 64)) (plan : Fin 4) (s : State) : ∃ s', execTwinMismatchReport f plan s = .next s' ∧ Kept s s' := by
  have h₀ := Kept.refl s
  refine ⟨_, rfl, ?_⟩
  repeat' (first | with_reducible assumption | with_reducible refine State.onNotice_kept ?_ _ _ (fun _ _ => ?_) | with_reducible apply State.announceWithdraw_kept | split | dsimp -zeta only)

end Sys2Proof.Machine
end

