-- ==== Sys2Proof/Laws/ElecKept.lean ====
section
/-! SUPPORT. Each operation of Machine/Elec.lean leaves what `Kept` says as it is. -/

namespace Sys2Proof.Machine

theorem pllLock_kept {s₀ s : State} (h₀ : Kept s₀ s) (t : Nat) : Kept s₀ (pllLock t s) := by
  unfold pllLock
  repeat' (first | with_reducible assumption | with_reducible apply State.appendDelta_kept | with_reducible apply State.fault_kept | ((try lift_lets); intro z; try (refine (have hz : Kept s₀ z := ?_; ?_))) | split | subst z)

theorem execPllLock_next (t : Fin 16) (s : State) : ∃ s', execPllLock t s = .next s' ∧ Kept s s' := by
  have h₀ := Kept.refl s
  refine ⟨_, rfl, ?_⟩
  repeat' (first | with_reducible assumption | with_reducible apply pllLock_kept | split)

theorem execRefclkFailover_next (s : State) : ∃ s', execRefclkFailover s = .next s' ∧ Kept s s' := by
  have h₀ := Kept.refl s
  refine ⟨_, rfl, ?_⟩
  repeat' (first | with_reducible assumption | ((with_reducible refine Kept.update ?_ ?_ (hf := ?_)) <;> first | with_reducible assumption | exact rfl | exact ⟨fun h => h⟩) | with_reducible apply State.fault_kept | ((try lift_lets); intro z; try (refine (have hz : Kept s z := ?_; ?_))) | split | subst z)

theorem execRefclkLost_next (s : State) : ∃ s', execRefclkLost s = .next s' ∧ Kept s s' := by
  have h₀ := Kept.refl s
  refine ⟨_, rfl, ?_⟩
  repeat' (first | with_reducible assumption | ((with_reducible refine Kept.update ?_ ?_ (hf := ?_)) <;> first | with_reducible assumption | exact rfl | exact ⟨fun h => h⟩) | with_reducible apply State.fault_kept | ((try lift_lets); intro z; try (refine (have hz : Kept s z := ?_; ?_))) | split | subst z)

theorem execRefclkHoldoverEnd_next (s : State) : ∃ s', execRefclkHoldoverEnd s = .next s' ∧ Kept s s' := by
  have h₀ := Kept.refl s
  refine ⟨_, rfl, ?_⟩
  repeat' (first | with_reducible assumption | ((with_reducible refine Kept.update ?_ ?_ (hf := ?_)) <;> first | with_reducible assumption | exact rfl | exact ⟨fun h => h⟩) | ((try lift_lets); intro z; try (refine (have hz : Kept s z := ?_; ?_))) | split | subst z)

theorem execRefclkStandbyRestored_next (s : State) : ∃ s', execRefclkStandbyRestored s = .next s' ∧ Kept s s' := by
  have h₀ := Kept.refl s
  refine ⟨_, rfl, ?_⟩
  repeat' (first | with_reducible assumption | ((with_reducible refine Kept.update ?_ ?_ (hf := ?_)) <;> first | with_reducible assumption | exact rfl | exact ⟨fun h => h⟩) | ((try lift_lets); intro z; try (refine (have hz : Kept s z := ?_; ?_))) | split | subst z)

theorem refLoss_kept {s₀ s : State} (h₀ : Kept s₀ s) (input : Nat) : Kept s₀ (refLoss input s) := by
  unfold refLoss
  repeat' (first | with_reducible assumption | ((with_reducible refine Kept.update ?_ ?_ (hf := ?_)) <;> first | with_reducible assumption | exact rfl | exact ⟨fun h => h⟩) | with_reducible apply State.portDown_kept | with_reducible apply State.hostDown_kept | with_reducible refine Kept.foldl (fun _ _ _ => ?_) _ ?_ | ((try lift_lets); intro z; try (refine (have hz : Kept s₀ z := ?_; ?_))) | split | subst z)

theorem execRefclk156Loss_next (input : Fin 3) (s : State) : ∃ s', execRefclk156Loss input s = .next s' ∧ Kept s s' := by
  have h₀ := Kept.refl s
  refine ⟨_, rfl, ?_⟩
  repeat' (first | with_reducible assumption | with_reducible apply refLoss_kept | split)

theorem refReturn_kept {s₀ s : State} (h₀ : Kept s₀ s) (input : Nat) : Kept s₀ (refReturn input s) := by
  unfold refReturn
  repeat' (first | with_reducible assumption | ((with_reducible refine Kept.update ?_ ?_ (hf := ?_)) <;> first | with_reducible assumption | exact rfl | exact ⟨fun h => h⟩) | with_reducible apply State.modPort_kept | with_reducible refine Kept.foldl (fun _ _ _ => ?_) _ ?_ | ((try lift_lets); intro z; try (refine (have hz : Kept s₀ z := ?_; ?_))) | split | subst z)

theorem execRefclk156Return_next (input : Fin 3) (s : State) : ∃ s', execRefclk156Return input s = .next s' ∧ Kept s s' := by
  have h₀ := Kept.refl s
  refine ⟨_, rfl, ?_⟩
  repeat' (first | with_reducible assumption | with_reducible apply refReturn_kept | split)

theorem State.thermalHold_kept {s₀ s : State} (h₀ : Kept s₀ s) : Kept s₀ (State.thermalHold s) := by
  unfold State.thermalHold
  repeat' (first | with_reducible assumption | ((with_reducible refine Kept.update ?_ ?_ (hf := ?_)) <;> first | with_reducible assumption | exact rfl | exact ⟨fun h => h⟩) | with_reducible apply State.modFrm_kept | ((try lift_lets); intro z; try (refine (have hz : Kept s₀ z := ?_; ?_))) | split | subst z)

theorem State.announceHold_kept {s₀ s : State} (h₀ : Kept s₀ s) : Kept s₀ (State.announceHold s) := by
  unfold State.announceHold
  repeat' (first | with_reducible assumption | with_reducible apply State.thermalHold_kept | with_reducible apply State.notify_kept)

theorem State.thermTrip_kept {s₀ s : State} (h₀ : Kept s₀ s) : Kept s₀ (State.thermTrip s) := by
  unfold State.thermTrip
  repeat' (first | with_reducible assumption | ((with_reducible refine Kept.update ?_ ?_ (hf := ?_)) <;> first | with_reducible assumption | exact rfl | exact ⟨fun h => h⟩) | with_reducible apply State.stopPlan_kept | with_reducible refine Kept.foldl (fun _ _ _ => ?_) _ ?_ | ((try lift_lets); intro z; try (refine (have hz : Kept s₀ z := ?_; ?_))) | subst z)

theorem State.thermalEvents_kept {s₀ s : State} (h₀ : Kept s₀ s) (t : Int) : Kept s₀ (State.thermalEvents s t) := by
  unfold State.thermalEvents
  repeat' (first | with_reducible assumption | ((with_reducible refine Kept.update ?_ ?_ (hf := ?_)) <;> first | with_reducible assumption | exact rfl | exact ⟨fun h => h⟩) | with_reducible apply State.fault_kept | with_reducible apply State.raise_kept | with_reducible apply State.announceHold_kept | with_reducible apply State.notify_kept | ((try lift_lets); intro z; try (refine (have hz : Kept s₀ z := ?_; ?_))) | split | subst z)

theorem temperatureSample_kept {s₀ s : State} (h₀ : Kept s₀ s) (die : Nat) (sensors : List Int) : Kept s₀ (temperatureSample die sensors s) := by
  unfold temperatureSample
  repeat' (first | with_reducible assumption | ((with_reducible refine Kept.update ?_ ?_ (hf := ?_)) <;> first | with_reducible assumption | exact rfl | exact ⟨fun h => h⟩) | with_reducible apply State.thermTrip_kept | with_reducible apply State.thermalEvents_kept | with_reducible refine Kept.foldl (fun _ _ _ => ?_) _ ?_ | ((try lift_lets); intro z; try (refine (have hz : Kept s₀ z := ?_; ?_))) | split | with_reducible refine KeptO.getD ?_ ?_ | subst z)

theorem execTemperatureSample_next (die : Fin 21) (sensors : List Int) (s : State) : ∃ s', execTemperatureSample die sensors s = .next s' ∧ Kept s s' := by
  have h₀ := Kept.refl s
  refine ⟨_, rfl, ?_⟩
  repeat' (first | with_reducible assumption | with_reducible apply temperatureSample_kept | split)

theorem execThermalHoldReport_next (f : AtPort (Fin 64)) (s : State) : ∃ s', execThermalHoldReport f s = .next s' ∧ Kept s s' := by
  have h₀ := Kept.refl s
  refine ⟨_, rfl, ?_⟩
  repeat' (first | with_reducible assumption | with_reducible refine State.onNotice_kept ?_ _ _ (fun _ _ => ?_) | with_reducible apply State.announceHold_kept | split | dsimp -zeta only)

theorem execThermalHoldAnnouncement_next (s : State) : ∃ s', execThermalHoldAnnouncement s = .next s' ∧ Kept s s' := by
  have h₀ := Kept.refl s
  refine ⟨_, rfl, ?_⟩
  repeat' (first | with_reducible assumption | with_reducible apply State.thermalHold_kept | split)

theorem thermalClear_kept {s₀ s : State} (h₀ : Kept s₀ s) : Kept s₀ (thermalClear s) := by
  unfold thermalClear
  repeat' (first | with_reducible assumption | ((with_reducible refine Kept.update ?_ ?_ (hf := ?_)) <;> first | with_reducible assumption | exact rfl | exact ⟨fun h => h⟩) | with_reducible apply State.fault_kept | ((try lift_lets); intro z; try (refine (have hz : Kept s₀ z := ?_; ?_))) | subst z)

theorem execThermalClear_next (s : State) : ∃ s', execThermalClear s = .next s' ∧ Kept s s' := by
  have h₀ := Kept.refl s
  refine ⟨_, rfl, ?_⟩
  repeat' (first | with_reducible assumption | with_reducible apply thermalClear_kept | split)

end Sys2Proof.Machine
end

