-- ==== Sys2Proof/Laws/GoushKept.lean ====
section
/-! SUPPORT. Each operation of Machine/Goush.lean leaves what `Kept` says as it is. -/

namespace Sys2Proof.Machine

theorem reportResend_kept {s₀ s : State} (h₀ : Kept s₀ s) (c : Nat) (n : Nat) : Kept s₀ (reportResend c n s) := by
  unfold reportResend
  repeat' (first | with_reducible assumption | ((with_reducible refine Kept.update ?_ ?_ (hf := ?_)) <;> first | with_reducible assumption | exact rfl | exact ⟨fun h => h⟩) | ((try lift_lets); intro z; try (refine (have hz : Kept s₀ z := ?_; ?_))) | split | subst z)

theorem execReportResend_next (c : Fin 4) (n : Nat) (s : State) : ∃ s', execReportResend c n s = .next s' ∧ Kept s s' := by
  have h₀ := Kept.refl s
  refine ⟨_, rfl, ?_⟩
  repeat' (first | with_reducible assumption | with_reducible apply reportResend_kept | split)

theorem rack_kept {s₀ s : State} (h₀ : Kept s₀ s) (c : Nat) (cum : W48) : Kept s₀ (rack c cum s) := by
  unfold rack
  repeat' (first | with_reducible assumption | ((with_reducible refine Kept.update ?_ ?_ (hf := ?_)) <;> first | with_reducible assumption | exact rfl | exact ⟨fun h => h⟩) | ((try lift_lets); intro z; try (refine (have hz : Kept s₀ z := ?_; ?_))) | subst z)

theorem execRack_next (m : GoushHdr × Fin 4) (cum : W48) (s : State) : ∃ s', execRack m cum s = .next s' ∧ Kept s s' := by
  have h₀ := Kept.refl s
  refine ⟨_, rfl, ?_⟩
  repeat' (first | with_reducible assumption | with_reducible apply rack_kept | split | dsimp -zeta only)

theorem heartbeat_kept {s₀ s : State} (h₀ : Kept s₀ s) : Kept s₀ (heartbeat s) := by
  unfold heartbeat
  repeat' (first | with_reducible assumption | with_reducible apply State.send_kept | with_reducible refine Kept.foldl (fun _ _ _ => ?_) _ ?_)

theorem execHeartbeat_next (s : State) : ∃ s', execHeartbeat s = .next s' ∧ Kept s s' := by
  have h₀ := Kept.refl s
  refine ⟨_, rfl, ?_⟩
  repeat' (first | with_reducible assumption | with_reducible apply heartbeat_kept | split)

theorem State.takePack_kept {s₀ s : State} (h₀ : Kept s₀ s) (p : Pack) : Kept s₀ (State.takePack s p) := by
  unfold State.takePack
  repeat' (first | with_reducible assumption | ((with_reducible refine Kept.update ?_ ?_ (hf := ?_)) <;> first | with_reducible assumption | exact rfl | exact ⟨fun h => h⟩) | with_reducible apply State.storePacks_kept | ((try lift_lets); intro z; try (refine (have hz : Kept s₀ z := ?_; ?_))) | split | subst z)

theorem State.badPack_kept {s₀ s : State} (h₀ : Kept s₀ s) (r : Nat) : Kept s₀ (State.badPack s r).1 := by
  unfold State.badPack
  repeat' (first | with_reducible assumption | with_reducible apply State.fault_kept | dsimp -zeta only)

theorem State.checkPack_kept {s₀ s : State} (h₀ : Kept s₀ s) (id : Nat) (bs : List Byte) : Kept s₀ (State.checkPack s id bs).1 := by
  unfold State.checkPack
  repeat' (first | with_reducible assumption | ((with_reducible refine Kept.update ?_ ?_ (hf := ?_)) <;> first | with_reducible assumption | exact rfl | exact ⟨fun h => h⟩) | with_reducible apply State.badPack_kept | with_reducible apply State.takePack_kept | ((try lift_lets); intro z; try (refine (have hz : Kept s₀ z := ?_; ?_))) | split | dsimp -zeta only | refine Kept.pair (by with_reducible assumption) ?_ | subst z)

theorem State.holdPack_kept {s₀ s : State} (h₀ : Kept s₀ s) (i : Nat) (b : List Byte) : Kept s₀ (State.holdPack s i b) := by
  unfold State.holdPack
  repeat' (first | with_reducible assumption | ((with_reducible refine Kept.update ?_ ?_ (hf := ?_)) <;> first | with_reducible assumption | exact rfl | exact ⟨fun h => h⟩) | ((try lift_lets); intro z; try (refine (have hz : Kept s₀ z := ?_; ?_))) | subst z)

theorem packSeg_kept {s₀ s : State} (h₀ : Kept s₀ s) (q : W48) (id : Nat) (offset : Nat) (body : List Byte) : Kept s₀ (packSeg q id offset body s) := by
  unfold packSeg
  repeat' (first | with_reducible assumption | ((with_reducible refine Kept.update ?_ ?_ (hf := ?_)) <;> first | with_reducible assumption | exact rfl | exact ⟨fun h => h⟩) | with_reducible apply State.send_kept | with_reducible apply State.holdPack_kept | with_reducible apply State.fault_kept | with_reducible apply State.checkPack_kept | ((try lift_lets); intro z; try (refine (have hz : Kept s₀ z := ?_; ?_))) | split | dsimp -zeta only | refine Kept.pair (by with_reducible assumption) ?_ | subst z)

theorem execPackSeg_next (m : GoushHdr × BitVec 16) (offset : W48) (body : List Byte) (s : State) : ∃ s', execPackSeg m offset body s = .next s' ∧ Kept s s' := by
  have h₀ := Kept.refl s
  refine ⟨_, rfl, ?_⟩
  repeat' (first | with_reducible assumption | with_reducible apply packSeg_kept | split | dsimp -zeta only)

theorem imgSeg_kept {s₀ s : State} (h₀ : Kept s₀ s) (q : W48) (offset : Nat) (body : List Byte) : Kept s₀ (imgSeg q offset body s) := by
  unfold imgSeg
  repeat' (first | with_reducible assumption | ((with_reducible refine Kept.update ?_ ?_ (hf := ?_)) <;> first | with_reducible assumption | exact rfl | exact ⟨fun h => h⟩) | with_reducible apply State.send_kept | ((try lift_lets); intro z; try (refine (have hz : Kept s₀ z := ?_; ?_))) | split | subst z)

theorem execImgSeg_next (m : GoushHdr × W48) (body : List Byte) (s : State) : ∃ s', execImgSeg m body s = .next s' ∧ Kept s s' := by
  have h₀ := Kept.refl s
  refine ⟨_, rfl, ?_⟩
  repeat' (first | with_reducible assumption | with_reducible apply imgSeg_kept | split | dsimp -zeta only)

theorem execMgmtLinkDown_next (s : State) : ∃ s', execMgmtLinkDown s = .next s' ∧ Kept s s' := by
  have h₀ := Kept.refl s
  refine ⟨_, rfl, ?_⟩
  repeat' (first | with_reducible assumption | ((with_reducible refine Kept.update ?_ ?_ (hf := ?_)) <;> first | with_reducible assumption | exact rfl | exact ⟨fun h => h⟩) | with_reducible apply State.fault_kept | ((try lift_lets); intro z; try (refine (have hz : Kept s z := ?_; ?_))) | split | subst z)

theorem execMgmtLinkUp_next (s : State) : ∃ s', execMgmtLinkUp s = .next s' ∧ Kept s s' := by
  have h₀ := Kept.refl s
  refine ⟨_, rfl, ?_⟩
  repeat' (first | with_reducible assumption | ((with_reducible refine Kept.update ?_ ?_ (hf := ?_)) <;> first | with_reducible assumption | exact rfl | exact ⟨fun h => h⟩) | ((try lift_lets); intro z; try (refine (have hz : Kept s z := ?_; ?_))) | split | subst z)

end Sys2Proof.Machine
end

