-- ==== Sys2Proof/Laws/ReduceKept.lean ====
section
/-! SUPPORT. Each operation of Machine/Reduce.lean leaves what `Kept` says as it is. -/

namespace Sys2Proof.Machine

theorem State.layerSkipped_kept {s₀ s : State} (h₀ : Kept s₀ s) (p : Nat) (q : Plan) (layer : Nat) (round : Nat) : Kept s₀ (State.layerSkipped s p q layer round) := by
  unfold State.layerSkipped
  repeat' (first | with_reducible assumption | ((with_reducible refine Kept.update ?_ ?_ (hf := ?_)) <;> first | with_reducible assumption | exact rfl | exact ⟨fun h => h⟩) | with_reducible apply State.redFault_kept | with_reducible apply State.modLayer_kept | with_reducible apply State.raise_kept | with_reducible apply State.modPlan_kept | ((try lift_lets); intro z; try (refine (have hz : Kept s₀ z := ?_; ?_))) | split | subst z)

theorem State.voteLayer_kept {s₀ s : State} (h₀ : Kept s₀ s) (p : Nat) (q : Plan) (v : Variant) (reps : List RootReport) (r : Rec) : Kept s₀ (State.voteLayer s p q v reps r) := by
  unfold State.voteLayer
  repeat' (first | with_reducible assumption | with_reducible apply State.modLayer_kept | with_reducible apply State.layerSkipped_kept | with_reducible refine Kept.foldl (fun _ _ _ => ?_) _ ?_ | ((try lift_lets); intro z; try (refine (have hz : Kept s₀ z := ?_; ?_))) | split | subst z)

theorem State.voteReports_kept {s₀ s : State} (h₀ : Kept s₀ s) (reps : List RootReport) : Kept s₀ (State.voteReports s reps) := by
  unfold State.voteReports
  repeat' (first | with_reducible assumption | ((with_reducible refine Kept.update ?_ ?_ (hf := ?_)) <;> first | with_reducible assumption | exact rfl | exact ⟨fun h => h⟩) | with_reducible apply State.voteLayer_kept | with_reducible refine Kept.foldl (fun _ _ _ => ?_) _ ?_ | ((try lift_lets); intro z; try (refine (have hz : Kept s₀ z := ?_; ?_))) | split | subst z)

theorem State.setCw_kept {s₀ s : State} (h₀ : Kept s₀ s) (q : Plan) (i : Nat) (v : W32) : Kept s₀ (State.setCw s q i v) := by
  unfold State.setCw
  repeat' (first | with_reducible assumption | ((with_reducible refine Kept.update ?_ ?_ (hf := ?_)) <;> first | with_reducible assumption | exact rfl | exact ⟨fun h => h⟩) | exact ⟨fun _ hy => hy⟩ | exact ⟨fun a _ => State.canonical_tile (Kept.canon ‹_› a) _⟩ | exact ⟨fun _ c => State.canonical_tile c _⟩ | refine TileStep.mk fun _ hy => ?_ | refine CanonTile.mk fun ha hy => ?_ | with_reducible exact hy | with_reducible apply Tile.tok_set | with_reducible apply Tile.tok_keep | with_reducible apply Tile.cw_set | exact hy | exact State.canonical_tile hy _ | exact State.canonical_tile (Kept.canon ‹_› ha) _ | with_reducible apply State.modTile_kept | with_reducible refine Kept.foldl (fun _ _ _ => ?_) _ ?_ | ((try lift_lets); intro z; try (refine (have hz : Kept s₀ z := ?_; ?_))) | split | subst z)

theorem State.commitLayer_kept {s₀ s : State} (h₀ : Kept s₀ s) (p : Nat) (q : Plan) (v : Variant) (r : Rec) : Kept s₀ (State.commitLayer s p q v r) := by
  unfold State.commitLayer
  repeat' (first | with_reducible assumption | ((with_reducible refine Kept.update ?_ ?_ (hf := ?_)) <;> first | with_reducible assumption | exact rfl | exact ⟨fun h => h⟩) | with_reducible apply State.setCw_kept | with_reducible apply State.modLayer_kept | with_reducible apply State.modRed_kept | ((try lift_lets); intro z; try (refine (have hz : Kept s₀ z := ?_; ?_))) | split | subst z)

theorem State.startRound_kept {s₀ s : State} (h₀ : Kept s₀ s) (p : Nat) (q : Plan) (r : Rec) : Kept s₀ (State.startRound s p q r) := by
  unfold State.startRound
  repeat' (first | with_reducible assumption | ((with_reducible refine Kept.update ?_ ?_ (hf := ?_)) <;> first | with_reducible assumption | exact rfl | exact ⟨fun h => h⟩) | with_reducible apply State.setCw_kept | with_reducible apply State.modLayer_kept | with_reducible apply State.modRed_kept | with_reducible apply State.redFault_kept | ((try lift_lets); intro z; try (refine (have hz : Kept s₀ z := ?_; ?_))) | split | subst z)

theorem State.tickReductions_kept {s₀ s : State} (h₀ : Kept s₀ s) : Kept s₀ (State.tickReductions s) := by
  unfold State.tickReductions
  repeat' (first | with_reducible assumption | ((with_reducible refine Kept.update ?_ ?_ (hf := ?_)) <;> first | with_reducible assumption | exact rfl | exact ⟨fun h => h⟩) | with_reducible apply State.commitLayer_kept | with_reducible apply State.startRound_kept | with_reducible refine Kept.foldl (fun _ _ _ => ?_) _ ?_ | ((try lift_lets); intro z; try (refine (have hz : Kept s₀ z := ?_; ?_))) | split | subst z)

theorem State.clearStep_kept {s₀ s : State} (h₀ : Kept s₀ s) (p : Nat) (q : Plan) : Kept s₀ (State.clearStep s p q) := by
  unfold State.clearStep
  repeat' (first | with_reducible assumption | ((with_reducible refine Kept.update ?_ ?_ (hf := ?_)) <;> first | with_reducible assumption | exact rfl | exact ⟨fun h => h⟩) | with_reducible apply State.setCw_kept | with_reducible apply State.modPlan_kept | with_reducible refine Kept.foldl (fun _ _ _ => ?_) _ ?_ | ((try lift_lets); intro z; try (refine (have hz : Kept s₀ z := ?_; ?_))) | subst z)

end Sys2Proof.Machine
end

