-- ==== Sys2Proof/Laws/OperandsKept.lean ====
section
/-! SUPPORT. Each operation of Machine/Operands.lean leaves what `Kept` says as it is. -/

namespace Sys2Proof.Machine

theorem State.retire_kept {s₀ s : State} (h₀ : Kept s₀ s) (k : Nat) (lat : Nat) : Kept s₀ (State.retire s k lat) := by
  unfold State.retire
  repeat' (first | with_reducible assumption | exact ⟨fun a _ => State.canonical_core (Kept.canon ‹_› a) _⟩ | exact ⟨fun _ c => State.canonical_core c _⟩ | refine CoreStep.mk fun _ hy => ?_ | refine CanonCore.mk fun ha hy => ?_ | with_reducible exact hy | with_reducible apply Core.retire_canonical | exact hy | exact State.canonical_core hy _ | exact State.canonical_core (Kept.canon ‹_› ha) _ | with_reducible apply State.modCore_kept)

theorem coreIssue_kept {r s : State} (h : Kept r s) (k : Nat) (is : W128 → Bool) {body : W128 → Core → State → State}
    (hb : ∀ w c s, Kept r s → Kept r (body w c s)) : Kept r (coreIssue k is body s) := by
  unfold coreIssue
  dsimp only
  repeat' (first | exact h | exact hb _ _ _ h | with_reducible apply State.coreFault_kept | with_reducible apply State.retire_kept | split)

end Sys2Proof.Machine
end

