-- ==== Sys2Proof/Laws/TwinKept.lean ====
section
/-! SUPPORT. Each operation of Machine/Twin.lean leaves what `Kept` says as it is. -/

namespace Sys2Proof.Machine

theorem State.coreWrite_kept {r s : State} (h : Kept r s) (k a : Nat) (bs : List (Byte × Bool)) : Kept r (State.coreWrite s k a bs) := by
  unfold State.coreWrite
  split
  · exact State.modCore_kept h k _
  · exact h
  · refine h.maps rfl fun c => ?_
    simp only [State.canonical_iff] at c
    exact ⟨⟨Mem.wf_put _ _ c.1.1, putMarks_wf _ _ c.1.2.1, c.1.2.2⟩, c.2⟩

theorem State.spillWrite_kept {s₀ s : State} (h₀ : Kept s₀ s) (k : Nat) (a : Nat) (bs : List (Byte × Bool)) : Kept s₀ (State.spillWrite s k a bs) := by
  unfold State.spillWrite
  repeat' (first | with_reducible assumption | ((with_reducible refine Kept.update ?_ ?_ (hf := ?_)) <;> first | with_reducible assumption | exact rfl | exact ⟨fun h => h⟩) | exact ⟨fun _ hy => hy⟩ | exact ⟨fun a _ => State.canonical_core (Kept.canon ‹_› a) _⟩ | exact ⟨fun _ c => State.canonical_core c _⟩ | refine CoreStep.mk fun _ hy => ?_ | refine CanonCore.mk fun ha hy => ?_ | with_reducible exact hy | exact hy | exact State.canonical_core hy _ | exact State.canonical_core (Kept.canon ‹_› ha) _ | with_reducible apply State.modCore_kept | with_reducible apply State.coreWrite_kept | with_reducible apply State.poisonLine_kept | ((try lift_lets); intro z; try (refine (have hz : Kept s₀ z := ?_; ?_))) | split | subst z)

end Sys2Proof.Machine
end

