-- ==== Sys2Proof/Laws/IntegrityKept.lean ====
section
/-! SUPPORT. Each operation of Machine/Integrity.lean leaves what `Kept` says as it is. -/

namespace Sys2Proof.Machine

theorem State.retireTile_kept {s₀ s : State} (h₀ : Kept s₀ s) (t : Nat) (cause : Nat) : Kept s₀ (State.retireTile s t cause) := by
  unfold State.retireTile
  repeat' (first | with_reducible assumption | with_reducible apply State.queueDelta_kept | split)

theorem State.tileRetires_kept {s₀ s : State} (h₀ : Kept s₀ s) (t : Nat) : Kept s₀ (State.tileRetires s t) := by
  unfold State.tileRetires
  repeat' (first | with_reducible assumption | ((with_reducible refine Kept.update ?_ ?_ (hf := ?_)) <;> first | with_reducible assumption | exact rfl | exact ⟨fun h => h⟩) | exact ⟨fun _ hy => hy⟩ | exact ⟨fun a _ => State.canonical_tile (Kept.canon ‹_› a) _⟩ | exact ⟨fun _ c => State.canonical_tile c _⟩ | refine TileStep.mk fun _ hy => ?_ | refine CanonTile.mk fun ha hy => ?_ | with_reducible exact hy | with_reducible apply Tile.tok_set | with_reducible apply Tile.tok_keep | with_reducible apply Tile.cw_set | exact hy | exact State.canonical_tile hy _ | exact State.canonical_tile (Kept.canon ‹_› ha) _ | with_reducible apply State.modTile_kept | with_reducible apply State.fault_kept | ((try lift_lets); intro z; try (refine (have hz : Kept s₀ z := ?_; ?_))) | subst z)

theorem State.retireCore_kept {s₀ s : State} (h₀ : Kept s₀ s) (t : Nat) (row : Nat) (col : Nat) (cause : Nat) : Kept s₀ (State.retireCore s t row col cause) := by
  unfold State.retireCore
  repeat' (first | with_reducible assumption | ((with_reducible refine Kept.update ?_ ?_ (hf := ?_)) <;> first | with_reducible assumption | exact rfl | exact ⟨fun h => h⟩) | exact ⟨fun _ hy => hy⟩ | exact ⟨fun a _ => State.canonical_tile (Kept.canon ‹_› a) _⟩ | exact ⟨fun _ c => State.canonical_tile c _⟩ | refine TileStep.mk fun _ hy => ?_ | refine CanonTile.mk fun ha hy => ?_ | with_reducible exact hy | with_reducible apply Tile.tok_set | with_reducible apply Tile.tok_keep | with_reducible apply Tile.cw_set | exact hy | exact State.canonical_tile hy _ | exact State.canonical_tile (Kept.canon ‹_› ha) _ | with_reducible apply State.modTile_kept | with_reducible apply State.queueDelta_kept | with_reducible apply State.retireTile_kept | ((try lift_lets); intro z; try (refine (have hz : Kept s₀ z := ?_; ?_))) | split | subst z)

theorem reKey_wf {α : Type} [DecidableEq α] {d : α} (f : Nat → Option Nat) (m : Sparse α) : Sparse.wf d (reKey d f m) = true := by
  unfold reKey
  exact Sparse.wf_foldl _ _ (fun a e ha => by split <;> first | exact Sparse.wf_set _ _ ha | exact ha) rfl

theorem reKey_all {α : Type} [DecidableEq α] {d : α} {P : α → Bool} (f : Nat → Option Nat) {m : Sparse α}
    (h : m.all (fun e => P e.2) = true) : (reKey d f m).all (fun e => P e.2) = true := by
  unfold reKey
  suffices ∀ a : Sparse α, a.all (fun e => P e.2) = true →
      (m.foldl (fun a e => match f e.1 with | some k => Sparse.set d a k e.2 | none => a) a).all (fun e => P e.2) = true from this [] rfl
  intro a ha
  induction m generalizing a with
  | nil => exact ha
  | cons e m ih =>
    simp only [List.all_cons, Bool.and_eq_true] at h
    refine ih h.2 _ ?_
    dsimp only
    split
    · exact Sparse.all_set ha _ h.1
    · exact ha

theorem State.moveCores_kept {r s : State} (h : Kept r s) (f : Nat → Option Nat) : Kept r (State.moveCores s f) :=
  h.maps rfl fun c => by
    simp only [State.canonical_iff] at c
    exact ⟨⟨c.1.1, c.1.2.1, c.1.2.2.1, c.1.2.2.2.1, reKey_wf f _, c.1.2.2.2.2.2⟩, c.2.1,
      reKey_all (P := Core.canonical) f c.2.2.1, c.2.2.2⟩

theorem State.applySteer_kept {r s : State} (h : Kept r s) (t : Nat) : Kept r (State.applySteer s t) := by
  unfold State.applySteer
  have y : CanonTile r s (s.steered t) := ⟨fun _ c => State.canonical_tile c t⟩
  dsimp only
  split
  · exact State.setTile_kept h t _ y
  · exact State.setTile_kept (State.moveCores_kept h _) t _ ⟨fun a _ => y.all a (h.canon a)⟩

theorem State.applySteerOf_kept {s₀ s : State} (h₀ : Kept s₀ s) (q : Plan) : Kept s₀ (State.applySteerOf s q) := by
  unfold State.applySteerOf
  repeat' (first | with_reducible assumption | with_reducible apply State.applySteer_kept | with_reducible refine Kept.foldl (fun _ _ _ => ?_) _ ?_ | split)

theorem State.writeHeld_kept {s₀ s : State} (h₀ : Kept s₀ s) (w : HeldWord) (poison : Bool) : Kept s₀ (State.writeHeld s w poison) := by
  unfold State.writeHeld
  repeat' (first | with_reducible assumption | with_reducible apply State.putStore_kept | with_reducible apply State.poisonLine_kept | ((try lift_lets); intro z; try (refine (have hz : Kept s₀ z := ?_; ?_))) | split | subst z)

theorem State.twinMismatch_kept {s₀ s : State} (h₀ : Kept s₀ s) (p : Nat) (k : Nat) (k2 : Nat) (w : HeldWord) : Kept s₀ (State.twinMismatch s p k k2 w) := by
  unfold State.twinMismatch
  repeat' (first | with_reducible assumption | ((with_reducible refine Kept.update ?_ ?_ (hf := ?_)) <;> first | with_reducible assumption | exact rfl | exact ⟨fun h => h⟩) | with_reducible apply State.writeHeld_kept | with_reducible apply State.raise_kept | with_reducible apply State.stopPlan_kept | with_reducible apply State.announceWithdraw_kept | with_reducible apply State.notify_kept | ((try lift_lets); intro z; try (refine (have hz : Kept s₀ z := ?_; ?_))) | split | subst z)

theorem State.compareWords_kept {r s : State} (h : Kept r s) (p k k2 : Nat) (ws cs : List HeldWord) :
    Kept r (State.compareWords s p k k2 ws cs) := by
  induction ws generalizing s cs with
  | nil => cases cs <;> exact h
  | cons w ws ih =>
    cases cs with
    | nil => exact h
    | cons c cs =>
      unfold State.compareWords
      split
      · exact ih (State.modCore_kept (State.writeHeld_kept h _ _) _ _) _
      · exact State.twinMismatch_kept h _ _ _ _

theorem twinCompare_kept {s₀ s : State} (h₀ : Kept s₀ s) (k : Nat) (copy : List HeldWord) : Kept s₀ (twinCompare k copy s) := by
  unfold twinCompare
  repeat' (first | with_reducible assumption | ((with_reducible refine Kept.update ?_ ?_ (hf := ?_)) <;> first | with_reducible assumption | exact rfl | exact ⟨fun h => h⟩) | with_reducible apply State.compareWords_kept | ((try lift_lets); intro z; try (refine (have hz : Kept s₀ z := ?_; ?_))) | split | subst z)

theorem execTwinCompare_next (k : CoreId) (copy : List HeldWord) (s : State) : ∃ s', execTwinCompare k copy s = .next s' ∧ Kept s s' := by
  have h₀ := Kept.refl s
  refine ⟨_, rfl, ?_⟩
  repeat' (first | with_reducible assumption | with_reducible apply twinCompare_kept)

theorem State.flagSlices_kept {s₀ s : State} (h₀ : Kept s₀ s) (period : Nat) (lull : Nat) (l : List Slice) : Kept s₀ (State.flagSlices s period lull l) := by
  unfold State.flagSlices
  repeat' (first | with_reducible assumption | with_reducible apply State.fault_kept | with_reducible refine Kept.foldl (fun _ _ _ => ?_) _ ?_)

theorem State.loadPatrol_kept {s₀ s : State} (h₀ : Kept s₀ s) : Kept s₀ (State.loadPatrol s) := by
  unfold State.loadPatrol
  repeat' (first | with_reducible assumption | ((with_reducible refine Kept.update ?_ ?_ (hf := ?_)) <;> first | with_reducible assumption | exact rfl | exact ⟨fun h => h⟩) | exact ⟨fun _ hy => hy⟩ | exact ⟨fun a _ => State.canonical_tile (Kept.canon ‹_› a) _⟩ | exact ⟨fun _ c => State.canonical_tile c _⟩ | refine TileStep.mk fun _ hy => ?_ | refine CanonTile.mk fun ha hy => ?_ | with_reducible exact hy | with_reducible apply Tile.tok_set | with_reducible apply Tile.tok_keep | with_reducible apply Tile.cw_set | exact hy | exact State.canonical_tile hy _ | exact State.canonical_tile (Kept.canon ‹_› ha) _ | with_reducible apply State.modTile_kept | with_reducible refine Kept.foldl (fun _ _ _ => ?_) _ ?_ | ((try lift_lets); intro z; try (refine (have hz : Kept s₀ z := ?_; ?_))) | split | subst z)

theorem State.runSlice_kept {s₀ s : State} (h₀ : Kept s₀ s) (outs : List PatrolOut) (k : Nat) (x : Slice) : Kept s₀ (State.runSlice s outs k x) := by
  unfold State.runSlice
  repeat' (first | with_reducible assumption | ((with_reducible refine Kept.update ?_ ?_ (hf := ?_)) <;> first | with_reducible assumption | exact rfl | exact ⟨fun h => h⟩) | ((try lift_lets); intro z; try (refine (have hz : Kept s₀ z := ?_; ?_))) | subst z)

theorem State.patrolFail_kept {s₀ s : State} (h₀ : Kept s₀ s) (k : Nat) : Kept s₀ (State.patrolFail s k) := by
  unfold State.patrolFail
  repeat' (first | with_reducible assumption | ((with_reducible refine Kept.update ?_ ?_ (hf := ?_)) <;> first | with_reducible assumption | exact rfl | exact ⟨fun h => h⟩) | with_reducible apply State.fault_kept | with_reducible apply State.retireCore_kept | with_reducible apply State.modPlan_kept | ((try lift_lets); intro z; try (refine (have hz : Kept s₀ z := ?_; ?_))) | split | dsimp -zeta only | subst z)

theorem State.patrolTransient_kept {s₀ s : State} (h₀ : Kept s₀ s) (k : Nat) : Kept s₀ (State.patrolTransient s k) := by
  unfold State.patrolTransient
  repeat' (first | with_reducible assumption | ((with_reducible refine Kept.update ?_ ?_ (hf := ?_)) <;> first | with_reducible assumption | exact rfl | exact ⟨fun h => h⟩) | with_reducible apply State.fault_kept | with_reducible apply State.patrolFail_kept | ((try lift_lets); intro z; try (refine (have hz : Kept s₀ z := ?_; ?_))) | split | dsimp -zeta only | subst z)

theorem State.patrolTwins_kept {s₀ s : State} (h₀ : Kept s₀ s) (slices : List Slice) (outs : List PatrolOut) : Kept s₀ (State.patrolTwins s slices outs) := by
  unfold State.patrolTwins
  repeat' (first | with_reducible assumption | ((with_reducible refine Kept.update ?_ ?_ (hf := ?_)) <;> first | with_reducible assumption | exact rfl | exact ⟨fun h => h⟩) | with_reducible apply State.runSlice_kept | with_reducible apply State.retireCore_kept | with_reducible refine Kept.foldl (fun _ _ _ => ?_) _ ?_ | ((try lift_lets); intro z; try (refine (have hz : Kept s₀ z := ?_; ?_))) | split | dsimp -zeta only | subst z)

theorem State.patrolRetests_kept {s₀ s : State} (h₀ : Kept s₀ s) (outs : List PatrolOut) : Kept s₀ (State.patrolRetests s outs) := by
  unfold State.patrolRetests
  repeat' (first | with_reducible assumption | ((with_reducible refine Kept.update ?_ ?_ (hf := ?_)) <;> first | with_reducible assumption | exact rfl | exact ⟨fun h => h⟩) | with_reducible apply State.runSlice_kept | with_reducible apply State.patrolFail_kept | with_reducible apply State.patrolTransient_kept | with_reducible refine Kept.foldl (fun _ _ _ => ?_) _ ?_ | ((try lift_lets); intro z; try (refine (have hz : Kept s₀ z := ?_; ?_))) | split | subst z)

theorem State.patrolRotation_kept {s₀ s : State} (h₀ : Kept s₀ s) (slices : List Slice) (outs : List PatrolOut) : Kept s₀ (State.patrolRotation s slices outs) := by
  unfold State.patrolRotation
  repeat' (first | with_reducible assumption | ((with_reducible refine Kept.update ?_ ?_ (hf := ?_)) <;> first | with_reducible assumption | exact rfl | exact ⟨fun h => h⟩) | with_reducible apply State.runSlice_kept | with_reducible refine Kept.foldl (fun _ _ _ => ?_) _ ?_ | ((try lift_lets); intro z; try (refine (have hz : Kept s₀ z := ?_; ?_))) | split | subst z)

theorem State.setPhase_kept {s₀ s : State} (h₀ : Kept s₀ s) (ph : Phase) : Kept s₀ (State.setPhase s ph) := by
  unfold State.setPhase
  repeat' (first | with_reducible assumption | ((with_reducible refine Kept.update ?_ ?_ (hf := ?_)) <;> first | with_reducible assumption | exact rfl | exact ⟨fun h => h⟩) | with_reducible apply State.modFrm_kept | ((try lift_lets); intro z; try (refine (have hz : Kept s₀ z := ?_; ?_))) | subst z)

theorem patrolPhase_kept {s₀ s : State} (h₀ : Kept s₀ s) (outs : List PatrolOut) : Kept s₀ (patrolPhase outs s) := by
  unfold patrolPhase
  repeat' (first | with_reducible assumption | with_reducible apply State.setPhase_kept | with_reducible apply State.patrolTwins_kept | with_reducible apply State.patrolRetests_kept | with_reducible apply State.patrolRotation_kept | ((try lift_lets); intro z; try (refine (have hz : Kept s₀ z := ?_; ?_))) | subst z)

theorem execPatrolPhase_next (outs : List PatrolOut) (s : State) : ∃ s', execPatrolPhase outs s = .next s' ∧ Kept s s' := by
  have h₀ := Kept.refl s
  refine ⟨_, rfl, ?_⟩
  repeat' (first | with_reducible assumption | with_reducible apply patrolPhase_kept | split)

theorem State.captureCounts_kept {s₀ s : State} (h₀ : Kept s₀ s) : Kept s₀ (State.captureCounts s) := by
  unfold State.captureCounts
  repeat' (first | with_reducible assumption | ((with_reducible refine Kept.update ?_ ?_ (hf := ?_)) <;> first | with_reducible assumption | exact rfl | exact ⟨fun h => h⟩) | with_reducible apply State.modFrm_kept | ((try lift_lets); intro z; try (refine (have hz : Kept s₀ z := ?_; ?_))) | subst z)

theorem State.ledgerViolation_kept {s₀ s : State} (h₀ : Kept s₀ s) (e : Nat × Nat) : Kept s₀ (State.ledgerViolation s e) := by
  unfold State.ledgerViolation
  repeat' (first | with_reducible assumption | ((with_reducible refine Kept.update ?_ ?_ (hf := ?_)) <;> first | with_reducible assumption | exact rfl | exact ⟨fun h => h⟩) | with_reducible apply State.raise_kept | ((try lift_lets); intro z; try (refine (have hz : Kept s₀ z := ?_; ?_))) | split | dsimp -zeta only | subst z)

theorem auditPhase_kept {s₀ s : State} (h₀ : Kept s₀ s) : Kept s₀ (auditPhase s) := by
  unfold auditPhase
  repeat' (first | with_reducible assumption | ((with_reducible refine Kept.update ?_ ?_ (hf := ?_)) <;> first | with_reducible assumption | exact rfl | exact ⟨fun h => h⟩) | with_reducible apply State.setPhase_kept | with_reducible apply State.modLayer_kept | with_reducible apply State.ledgerViolation_kept | with_reducible apply State.halting_kept | with_reducible refine Kept.foldl (fun _ _ _ => ?_) _ ?_ | ((try lift_lets); intro z; try (refine (have hz : Kept s₀ z := ?_; ?_))) | split | subst z)

theorem execAuditPhase_next (s : State) : ∃ s', execAuditPhase s = .next s' ∧ Kept s s' := by
  have h₀ := Kept.refl s
  refine ⟨_, rfl, ?_⟩
  repeat' (first | with_reducible assumption | with_reducible apply auditPhase_kept | split)

end Sys2Proof.Machine
end

