-- ==== Sys2Proof/Laws/CheckpointKept.lean ====
section
/-! SUPPORT. Each operation of Machine/Checkpoint.lean leaves what `Kept` says as it is. -/

namespace Sys2Proof.Machine

theorem State.acceptedAll_kept {s₀ s : State} (h₀ : Kept s₀ s) (p : Nat) (ranks : List Nat) : Kept s₀ (State.acceptedAll s p ranks).1 := by
  unfold State.acceptedAll
  repeat' (first | with_reducible assumption | with_reducible apply State.draw_kept | ((try lift_lets); intro z; try (refine (have hz : Kept s₀ z := ?_; ?_))) | split | dsimp -zeta only | refine Kept.pair (by with_reducible assumption) ?_ | subst z)

theorem State.ckptOut_kept {s₀ s : State} (h₀ : Kept s₀ s) (p : Nat) (step : W48) (part : List Byte) (streams : List Nat) : Kept s₀ (State.ckptOut s p step part streams) := by
  unfold State.ckptOut
  repeat' (first | with_reducible assumption | with_reducible apply State.outflow_kept | with_reducible refine Kept.foldl (fun _ _ _ => ?_) _ ?_)

theorem State.conveyLine_kept {s₀ s : State} (h₀ : Kept s₀ s) (v : Variant) (p : Nat) (dest : Nat) (n : Nat) (bs : List ByteOut) : Kept s₀ (State.conveyLine s v p dest n bs) := by
  unfold State.conveyLine
  repeat' (first | with_reducible assumption | ((with_reducible refine Kept.update ?_ ?_ (hf := ?_)) <;> first | with_reducible assumption | exact rfl | exact ⟨fun h => h⟩) | with_reducible apply State.convey_kept | with_reducible refine Kept.foldl (fun _ _ _ => ?_) _ ?_ | ((try lift_lets); intro z; try (refine (have hz : Kept s₀ z := ?_; ?_))) | split | dsimp -zeta only | subst z)

theorem State.bring_kept {s₀ s : State} (h₀ : Kept s₀ s) (v : Variant) (p : Nat) (dest : Nat) (bs : List ByteOut) : Kept s₀ (State.bring s v p dest bs) := by
  unfold State.bring
  repeat' (first | with_reducible assumption | with_reducible apply State.putBytes_kept | with_reducible apply State.conveyLine_kept | with_reducible refine Kept.foldl (fun _ _ _ => ?_) _ ?_ | split)

theorem State.layPart_kept {r s : State} (h : Kept r s) (v : Variant) (p k : Nat) (x : Rec) (part : List Byte) :
    Kept r (State.layPart s v p k x part) := by
  unfold State.layPart
  dsimp only
  split
  · exact State.accessRaise_kept h _ _ _ _ _
  · exact State.bring_kept (State.bring_kept h _ _ _ _) _ _ _ _

theorem State.startCkpt_kept {s₀ s : State} (h₀ : Kept s₀ s) (p : Nat) : Kept s₀ (State.startCkpt s p) := by
  unfold State.startCkpt
  repeat' (first | with_reducible assumption | ((with_reducible refine Kept.update ?_ ?_ (hf := ?_)) <;> first | with_reducible assumption | exact rfl | exact ⟨fun h => h⟩) | with_reducible apply State.modPlan_kept | with_reducible apply State.sinkFault_kept | with_reducible apply State.layPart_kept | with_reducible apply State.ckptOut_kept | ((try lift_lets); intro z; try (refine (have hz : Kept s₀ z := ?_; ?_))) | split | subst z)

theorem State.sealPart_kept {s₀ s : State} (h₀ : Kept s₀ s) (p : Nat) : Kept s₀ (State.sealPart s p) := by
  unfold State.sealPart
  repeat' (first | with_reducible assumption | ((with_reducible refine Kept.update ?_ ?_ (hf := ?_)) <;> first | with_reducible assumption | exact rfl | exact ⟨fun h => h⟩) | with_reducible apply State.acceptedAll_kept | with_reducible apply State.draw_kept | with_reducible apply State.modPlan_kept | ((try lift_lets); intro z; try (refine (have hz : Kept s₀ z := ?_; ?_))) | split | dsimp -zeta only | refine Kept.pair (by with_reducible assumption) ?_ | subst z)

theorem State.partnerCkpt_kept {s₀ s : State} (h₀ : Kept s₀ s) (p : Nat) : Kept s₀ (State.partnerCkpt s p) := by
  unfold State.partnerCkpt
  repeat' (first | with_reducible assumption | ((with_reducible refine Kept.update ?_ ?_ (hf := ?_)) <;> first | with_reducible assumption | exact rfl | exact ⟨fun h => h⟩) | with_reducible apply State.modPlan_kept | with_reducible apply State.startCkpt_kept | ((try lift_lets); intro z; try (refine (have hz : Kept s₀ z := ?_; ?_))) | split | subst z)

theorem State.dropCkpt_kept {s₀ s : State} (h₀ : Kept s₀ s) (p : Nat) : Kept s₀ (State.dropCkpt s p) := by
  unfold State.dropCkpt
  repeat' (first | with_reducible assumption | ((with_reducible refine Kept.update ?_ ?_ (hf := ?_)) <;> first | with_reducible assumption | exact rfl | exact ⟨fun h => h⟩) | with_reducible apply State.modPlan_kept | ((try lift_lets); intro z; try (refine (have hz : Kept s₀ z := ?_; ?_))) | subst z)

theorem State.sealedAll_kept {s₀ s : State} (h₀ : Kept s₀ s) (p : Nat) : Kept s₀ (State.sealedAll s p) := by
  unfold State.sealedAll
  repeat' (first | with_reducible assumption | ((with_reducible refine Kept.update ?_ ?_ (hf := ?_)) <;> first | with_reducible assumption | exact rfl | exact ⟨fun h => h⟩) | with_reducible apply State.modPlan_kept | ((try lift_lets); intro z; try (refine (have hz : Kept s₀ z := ?_; ?_))) | split | subst z)

theorem State.finishCkpt_kept {r s : State} (h : Kept r s) (p : Nat) : Kept r (State.finishCkpt s p) := by
  unfold State.finishCkpt
  dsimp only
  repeat' (first | exact h | exact State.modPlan_kept h _ _ | exact State.startCkpt_kept (State.modPlan_kept h _ _) _ | split)

theorem State.clearCarried_kept {s₀ s : State} (h₀ : Kept s₀ s) (q : Plan) : Kept s₀ (State.clearCarried s q) := by
  unfold State.clearCarried
  repeat' (first | with_reducible assumption | ((with_reducible refine Kept.update ?_ ?_ (hf := ?_)) <;> first | with_reducible assumption | exact rfl | exact ⟨fun h => h⟩) | exact ⟨fun _ hy => hy⟩ | exact ⟨fun a _ => State.canonical_tile (Kept.canon ‹_› a) _⟩ | exact ⟨fun _ c => State.canonical_tile c _⟩ | refine TileStep.mk fun _ hy => ?_ | refine CanonTile.mk fun ha hy => ?_ | with_reducible exact hy | with_reducible apply Tile.tok_set | with_reducible apply Tile.tok_keep | with_reducible apply Tile.cw_set | exact hy | exact State.canonical_tile hy _ | exact State.canonical_tile (Kept.canon ‹_› ha) _ | with_reducible apply State.modTile_kept | with_reducible refine Kept.foldl (fun _ _ _ => ?_) _ ?_ | ((try lift_lets); intro z; try (refine (have hz : Kept s₀ z := ?_; ?_))) | split | subst z)

theorem State.restoreData_kept {s₀ s : State} (h₀ : Kept s₀ s) (p : Nat) (q : Plan) (r : Rec) (old : Variant) (new : Variant) (k : Nat) (hs : List PartHeld) : Kept s₀ (State.restoreData s p q r old new k hs) := by
  unfold State.restoreData
  repeat' (first | with_reducible assumption | ((with_reducible refine Kept.update ?_ ?_ (hf := ?_)) <;> first | with_reducible assumption | exact rfl | exact ⟨fun h => h⟩) | with_reducible apply State.bring_kept | with_reducible refine Kept.foldl (fun _ _ _ => ?_) _ ?_ | ((try lift_lets); intro z; try (refine (have hz : Kept s₀ z := ?_; ?_))) | split | subst z)

theorem State.restoreLanes_kept {s₀ s : State} (h₀ : Kept s₀ s) (p : Nat) (g : Gen) : Kept s₀ (State.restoreLanes s p g) := by
  unfold State.restoreLanes
  repeat' (first | with_reducible assumption | ((with_reducible refine Kept.update ?_ ?_ (hf := ?_)) <;> first | with_reducible assumption | exact rfl | exact ⟨fun h => h⟩) | with_reducible apply State.emptyLanes_kept | with_reducible apply State.modLane_kept | with_reducible refine Kept.foldl (fun _ _ _ => ?_) _ ?_ | ((try lift_lets); intro z; try (refine (have hz : Kept s₀ z := ?_; ?_))) | split | dsimp -zeta only | subst z)

theorem State.planEpochs_kept {s₀ s : State} (h₀ : Kept s₀ s) (p : Nat) (q : Plan) : Kept s₀ (State.planEpochs s p q) := by
  unfold State.planEpochs
  repeat' (first | with_reducible assumption | with_reducible apply State.newOutEpoch_kept | with_reducible apply State.newEpoch_kept | with_reducible refine Kept.foldl (fun _ _ _ => ?_) _ ?_ | ((try lift_lets); intro z; try (refine (have hz : Kept s₀ z := ?_; ?_))) | subst z)

theorem State.rewindNone_kept {s₀ s : State} (h₀ : Kept s₀ s) (p : Nat) : Kept s₀ (State.rewindNone s p) := by
  unfold State.rewindNone
  repeat' (first | with_reducible assumption | ((with_reducible refine Kept.update ?_ ?_ (hf := ?_)) <;> first | with_reducible assumption | exact rfl | exact ⟨fun h => h⟩) | with_reducible apply State.fault_kept | ((try lift_lets); intro z; try (refine (have hz : Kept s₀ z := ?_; ?_))) | split | subst z)

theorem State.restoreState_kept {s₀ s : State} (h₀ : Kept s₀ s) (p : Nat) (q : Plan) (g : Gen) : Kept s₀ (State.restoreState s p q g) := by
  unfold State.restoreState
  repeat' (first | with_reducible assumption | ((with_reducible refine Kept.update ?_ ?_ (hf := ?_)) <;> first | with_reducible assumption | exact rfl | exact ⟨fun h => h⟩) | with_reducible apply State.clearCarried_kept | with_reducible apply State.modPlan_kept | with_reducible apply State.restoreLanes_kept | with_reducible apply State.planEpochs_kept | with_reducible apply State.openAccts_kept | ((try lift_lets); intro z; try (refine (have hz : Kept s₀ z := ?_; ?_))) | subst z)

theorem State.beginRestore_kept {s₀ s : State} (h₀ : Kept s₀ s) (p : Nat) (limit : Option W48) (note : Bool) : Kept s₀ (State.beginRestore s p limit note) := by
  unfold State.beginRestore
  repeat' (first | with_reducible assumption | ((with_reducible refine Kept.update ?_ ?_ (hf := ?_)) <;> first | with_reducible assumption | exact rfl | exact ⟨fun h => h⟩) | with_reducible apply State.dropCkpt_kept | with_reducible apply State.rewindNone_kept | with_reducible apply State.restoreState_kept | with_reducible apply State.restoreData_kept | with_reducible apply State.resumePoint_kept | ((try lift_lets); intro z; try (refine (have hz : Kept s₀ z := ?_; ?_))) | split | subst z)

theorem State.joinRestore_kept {s₀ s : State} (h₀ : Kept s₀ s) (p : Nat) : Kept s₀ (State.joinRestore s p) := by
  unfold State.joinRestore
  repeat' (first | with_reducible assumption | ((with_reducible refine Kept.update ?_ ?_ (hf := ?_)) <;> first | with_reducible assumption | exact rfl | exact ⟨fun h => h⟩) | with_reducible apply State.restoreState_kept | with_reducible apply State.modPlan_kept | ((try lift_lets); intro z; try (refine (have hz : Kept s₀ z := ?_; ?_))) | split | subst z)

theorem State.takeFront_kept {r s : State} (h : Kept r s) (p : Nat) : Kept r (State.takeFront s p) := by
  unfold State.takeFront
  dsimp only
  repeat' (first | exact h | exact State.restoreLanes_kept (State.modPlan_kept h _ _) _ _ | split)

theorem State.restoreForm_kept {s₀ s : State} (h₀ : Kept s₀ s) (p : Nat) : Kept s₀ (State.restoreForm s p) := by
  unfold State.restoreForm
  repeat' (first | with_reducible assumption | ((with_reducible refine Kept.update ?_ ?_ (hf := ?_)) <;> first | with_reducible assumption | exact rfl | exact ⟨fun h => h⟩) | with_reducible apply State.raise_kept | with_reducible apply State.emptyLanes_kept | with_reducible apply State.modPlan_kept | ((try lift_lets); intro z; try (refine (have hz : Kept s₀ z := ?_; ?_))) | subst z)

theorem State.hostRestore_kept {s₀ s : State} (h₀ : Kept s₀ s) (p : Nat) (v : Variant) (r : Rec) (f : CkptFile) (part : List Byte) : Kept s₀ (State.hostRestore s p v r f part) := by
  unfold State.hostRestore
  repeat' (first | with_reducible assumption | ((with_reducible refine Kept.update ?_ ?_ (hf := ?_)) <;> first | with_reducible assumption | exact rfl | exact ⟨fun h => h⟩) | with_reducible apply State.modPlan_kept | with_reducible apply State.openAccts_kept | with_reducible apply State.layPart_kept | with_reducible apply State.restoreLanes_kept | ((try lift_lets); intro z; try (refine (have hz : Kept s₀ z := ?_; ?_))) | subst z)

theorem State.takeRestore_kept {s₀ s : State} (h₀ : Kept s₀ s) (n : Nat) : Kept s₀ (State.takeRestore s n) := by
  unfold State.takeRestore
  repeat' (first | with_reducible assumption | ((with_reducible refine Kept.update ?_ ?_ (hf := ?_)) <;> first | with_reducible assumption | exact rfl | exact ⟨fun h => h⟩) | with_reducible apply State.setIn_kept | with_reducible apply State.restoreForm_kept | with_reducible apply State.hostRestore_kept | ((try lift_lets); intro z; try (refine (have hz : Kept s₀ z := ?_; ?_))) | split | dsimp -zeta only | subst z)

end Sys2Proof.Machine
end

