-- ==== Sys2Proof/Laws/DirectivesKept.lean ====
section
/-! SUPPORT. Each operation of Machine/Directives.lean leaves what `Kept` says as it is. -/

namespace Sys2Proof.Machine

theorem State.sendDirack_kept {s₀ s : State} (h₀ : Kept s₀ s) (port : Nat) (b : Rec) (result : Nat) (reason : Nat) (arrival : W48) : Kept s₀ (State.sendDirack s port b result reason arrival) := by
  unfold State.sendDirack
  repeat' (first | with_reducible assumption | with_reducible apply State.portSend_kept)

theorem State.refuseDir_kept {s₀ s : State} (h₀ : Kept s₀ s) (d : Directive) (result : Nat) (reason : Nat) : Kept s₀ (State.refuseDir s d result reason) := by
  unfold State.refuseDir
  repeat' (first | with_reducible assumption | ((with_reducible refine Kept.update ?_ ?_ (hf := ?_)) <;> first | with_reducible assumption | exact rfl | exact ⟨fun h => h⟩) | with_reducible apply State.journalDir_kept | with_reducible apply State.fault_kept | ((try lift_lets); intro z; try (refine (have hz : Kept s₀ z := ?_; ?_))) | split | ((with_reducible refine Kept.update ?_ ?_ (hf := ?_)) <;> first | exact rfl | exact ⟨fun h => h⟩ | with_reducible apply State.journalDir_kept | with_reducible apply State.fault_kept) | subst z)

theorem takeDir_kept {s₀ s : State} (h₀ : Kept s₀ s) (op : DirOp) (i : DirIn) : Kept s₀ (takeDir op i s) := by
  unfold takeDir
  repeat' (first | with_reducible assumption | ((with_reducible refine Kept.update ?_ ?_ (hf := ?_)) <;> first | with_reducible assumption | exact rfl | exact ⟨fun h => h⟩) | with_reducible apply State.rxdg_kept | with_reducible apply State.sendDirack_kept | with_reducible apply State.refuseDir_kept | ((try lift_lets); intro z; try (refine (have hz : Kept s₀ z := ?_; ?_))) | split | dsimp -zeta only | subst z)

theorem receiveDir_kept {s₀ s : State} (h₀ : Kept s₀ s) (op : DirOp) (i : DirIn) : Kept s₀ (receiveDir op i s) := by
  unfold receiveDir
  repeat' (first | with_reducible assumption | with_reducible apply State.rxdg_kept | with_reducible apply State.discardDg_kept | with_reducible apply State.relayOut_kept | with_reducible apply takeDir_kept | split)

theorem execStop_next (d : DirIn) (s : State) : ∃ s', execStop d s = .next s' ∧ Kept s s' := by
  have h₀ := Kept.refl s
  refine ⟨_, rfl, ?_⟩
  repeat' (first | with_reducible assumption | with_reducible apply receiveDir_kept)

theorem execRestart_next (d : DirIn) (s : State) : ∃ s', execRestart d s = .next s' ∧ Kept s s' := by
  have h₀ := Kept.refl s
  refine ⟨_, rfl, ?_⟩
  repeat' (first | with_reducible assumption | with_reducible apply receiveDir_kept)

theorem execHold_next (d : DirIn) (s : State) : ∃ s', execHold d s = .next s' ∧ Kept s s' := by
  have h₀ := Kept.refl s
  refine ⟨_, rfl, ?_⟩
  repeat' (first | with_reducible assumption | with_reducible apply receiveDir_kept)

theorem execCheckpoint_next (d : DirIn) (s : State) : ∃ s', execCheckpoint d s = .next s' ∧ Kept s s' := by
  have h₀ := Kept.refl s
  refine ⟨_, rfl, ?_⟩
  repeat' (first | with_reducible assumption | with_reducible apply receiveDir_kept)

theorem execResume_next (d : DirIn) (s : State) : ∃ s', execResume d s = .next s' ∧ Kept s s' := by
  have h₀ := Kept.refl s
  refine ⟨_, rfl, ?_⟩
  repeat' (first | with_reducible assumption | with_reducible apply receiveDir_kept)

theorem execLrEdit_next (d : DirIn) (s : State) : ∃ s', execLrEdit d s = .next s' ∧ Kept s s' := by
  have h₀ := Kept.refl s
  refine ⟨_, rfl, ?_⟩
  repeat' (first | with_reducible assumption | with_reducible apply receiveDir_kept)

theorem execPatrol_next (d : DirIn) (s : State) : ∃ s', execPatrol d s = .next s' ∧ Kept s s' := by
  have h₀ := Kept.refl s
  refine ⟨_, rfl, ?_⟩
  repeat' (first | with_reducible assumption | with_reducible apply receiveDir_kept)

theorem execRedundancy_next (d : DirIn) (s : State) : ∃ s', execRedundancy d s = .next s' ∧ Kept s s' := by
  have h₀ := Kept.refl s
  refine ⟨_, rfl, ?_⟩
  repeat' (first | with_reducible assumption | with_reducible apply receiveDir_kept)

theorem execVariant_next (d : DirIn) (s : State) : ∃ s', execVariant d s = .next s' ∧ Kept s s' := by
  have h₀ := Kept.refl s
  refine ⟨_, rfl, ?_⟩
  repeat' (first | with_reducible assumption | with_reducible apply receiveDir_kept)

theorem execImageWrite_next (d : DirIn) (s : State) : ∃ s', execImageWrite d s = .next s' ∧ Kept s s' := by
  have h₀ := Kept.refl s
  refine ⟨_, rfl, ?_⟩
  repeat' (first | with_reducible assumption | with_reducible apply receiveDir_kept)

theorem State.journalVerdict_kept {s₀ s : State} (h₀ : Kept s₀ s) (v : Verdict) : Kept s₀ (State.journalVerdict s v) := by
  unfold State.journalVerdict
  repeat' (first | with_reducible assumption | with_reducible apply State.journalDir_kept | with_reducible apply State.fault_kept | ((try lift_lets); intro z; try (refine (have hz : Kept s₀ z := ?_; ?_))) | split | subst z)

theorem State.endPlan_kept {s₀ s : State} (h₀ : Kept s₀ s) (p : Nat) (st : PState) (code : Nat) : Kept s₀ (State.endPlan s p st code) := by
  unfold State.endPlan
  repeat' (first | with_reducible assumption | ((with_reducible refine Kept.update ?_ ?_ (hf := ?_)) <;> first | with_reducible assumption | exact rfl | exact ⟨fun h => h⟩) | with_reducible apply State.stopPlan_kept | with_reducible apply State.modPlan_kept | with_reducible apply State.closePlan_kept | with_reducible apply State.emptyLanes_kept | with_reducible apply State.dropCkpt_kept | ((try lift_lets); intro z; try (refine (have hz : Kept s₀ z := ?_; ?_))) | ((with_reducible refine Kept.update ?_ ?_ (hf := ?_)) <;> first | exact rfl | exact ⟨fun h => h⟩ | with_reducible apply State.stopPlan_kept | with_reducible apply State.modPlan_kept | with_reducible apply State.closePlan_kept | with_reducible apply State.emptyLanes_kept | with_reducible apply State.dropCkpt_kept) | subst z)

theorem State.stopAll_kept {s₀ s : State} (h₀ : Kept s₀ s) : Kept s₀ (State.stopAll s) := by
  unfold State.stopAll
  repeat' (first | with_reducible assumption | ((with_reducible refine Kept.update ?_ ?_ (hf := ?_)) <;> first | with_reducible assumption | exact rfl | exact ⟨fun h => h⟩) | with_reducible apply State.endPlan_kept | with_reducible apply State.abandonWrites_kept | with_reducible apply State.modFrm_kept | with_reducible refine Kept.foldl (fun _ _ _ => ?_) _ ?_ | ((try lift_lets); intro z; try (refine (have hz : Kept s₀ z := ?_; ?_))) | split | subst z)

theorem State.resumeNow_kept {s₀ s : State} (h₀ : Kept s₀ s) : Kept s₀ (State.resumeNow s) := by
  unfold State.resumeNow
  repeat' (first | with_reducible assumption | ((with_reducible refine Kept.update ?_ ?_ (hf := ?_)) <;> first | with_reducible assumption | exact rfl | exact ⟨fun h => h⟩) | with_reducible apply State.modFrm_kept | ((try lift_lets); intro z; try (refine (have hz : Kept s₀ z := ?_; ?_))) | subst z)

theorem State.pinVariant_kept {s₀ s : State} (h₀ : Kept s₀ s) (p : Nat) (pin : Option Nat) : Kept s₀ (State.pinVariant s p pin) := by
  unfold State.pinVariant
  repeat' (first | with_reducible assumption | ((with_reducible refine Kept.update ?_ ?_ (hf := ?_)) <;> first | with_reducible assumption | exact rfl | exact ⟨fun h => h⟩) | with_reducible apply State.modPlan_kept | with_reducible apply State.beginRestore_kept | ((try lift_lets); intro z; try (refine (have hz : Kept s₀ z := ?_; ?_))) | split | subst z)

theorem State.openImageWrite_kept {s₀ s : State} (h₀ : Kept s₀ s) (d : Directive) : Kept s₀ (State.openImageWrite s d) := by
  unfold State.openImageWrite
  repeat' (first | with_reducible assumption | with_reducible apply State.openWrite_kept | with_reducible apply State.newEpoch_kept | ((try lift_lets); intro z; try (refine (have hz : Kept s₀ z := ?_; ?_))) | split | subst z)

theorem State.applyDir_kept {s₀ s : State} (h₀ : Kept s₀ s) (d : Directive) : Kept s₀ (State.applyDir s d) := by
  unfold State.applyDir
  repeat' (first | with_reducible assumption | ((with_reducible refine Kept.update ?_ ?_ (hf := ?_)) <;> first | with_reducible assumption | exact rfl | exact ⟨fun h => h⟩) | with_reducible apply State.stopAll_kept | with_reducible apply State.modFrm_kept | with_reducible apply State.modPlan_kept | with_reducible apply State.resumeNow_kept | with_reducible apply State.pinVariant_kept | with_reducible apply State.openImageWrite_kept | with_reducible refine Kept.foldl (fun _ _ _ => ?_) _ ?_ | ((try lift_lets); intro z; try (refine (have hz : Kept s₀ z := ?_; ?_))) | split | subst z)

theorem State.reached_kept {s₀ s : State} (h₀ : Kept s₀ s) : Kept s₀ (State.reached s) := by
  unfold State.reached
  repeat' (first | with_reducible assumption | ((with_reducible refine Kept.update ?_ ?_ (hf := ?_)) <;> first | with_reducible assumption | exact rfl | exact ⟨fun h => h⟩) | with_reducible apply State.modFrm_kept | ((try lift_lets); intro z; try (refine (have hz : Kept s₀ z := ?_; ?_))) | split | subst z)

theorem State.applyDirs_kept {s₀ s : State} (h₀ : Kept s₀ s) : Kept s₀ (State.applyDirs s) := by
  unfold State.applyDirs
  repeat' (first | with_reducible assumption | ((with_reducible refine Kept.update ?_ ?_ (hf := ?_)) <;> first | with_reducible assumption | exact rfl | exact ⟨fun h => h⟩) | with_reducible apply State.reached_kept | with_reducible apply State.journalVerdict_kept | with_reducible apply State.applyDir_kept | with_reducible apply State.modFrm_kept | with_reducible refine Kept.foldl (fun _ _ _ => ?_) _ ?_ | ((try lift_lets); intro z; try (refine (have hz : Kept s₀ z := ?_; ?_))) | subst z)

end Sys2Proof.Machine
end

