-- ==== Sys2Proof/Laws/MoverKept.lean ====
section
/-! SUPPORT. Each operation of Machine/Mover.lean leaves what `Kept` says as it is. -/

namespace Sys2Proof.Machine

/-- Every state that the outcome carries. -/
structure KeptM (r : State) (a : MoveOut) : Prop where
  all : ∀ t, (a = .wait t ∨ a = .ok t) → Kept r t

theorem KeptM.ofFault {r : State} {c a : Nat} : KeptM r (.fault c a) := ⟨fun t e => by simp at e⟩
theorem KeptM.ofWait {r t : State} (h : Kept r t) : KeptM r (.wait t) := ⟨fun u e => by simp at e; exact e ▸ h⟩
theorem KeptM.ofOk {r t : State} (h : Kept r t) : KeptM r (.ok t) := ⟨fun u e => by simp at e; exact e ▸ h⟩
theorem KeptM.wait {r t : State} {a : MoveOut} (h : KeptM r a) (e : a = .wait t) : Kept r t := h.all t (.inl e)
theorem KeptM.ok {r t : State} {a : MoveOut} (h : KeptM r a) (e : a = .ok t) : Kept r t := h.all t (.inr e)

theorem State.move_kept {s₀ s : State} (h₀ : Kept s₀ s) (u : Nat) (plan : Nat) (p : Plan) (w : BitVec 256) : KeptM s₀ (State.move s u plan p w) := by
  unfold State.move
  repeat' (first | with_reducible assumption | ((with_reducible refine Kept.update ?_ ?_ (hf := ?_)) <;> first | with_reducible assumption | exact rfl | exact ⟨fun h => h⟩) | with_reducible apply State.readBlock_kept | with_reducible apply State.fault_kept | with_reducible apply State.writable_kept | with_reducible apply State.finishXfer_kept | ((try lift_lets); intro z; try (refine (have hz : Kept s₀ z := ?_; ?_))) | split | dsimp -zeta only | with_reducible refine KeptB.ok ?_ (by with_reducible assumption) | with_reducible refine KeptB.wait ?_ (by with_reducible assumption) | with_reducible refine KeptA.ok ?_ (by with_reducible assumption) | with_reducible refine KeptA.wait ?_ (by with_reducible assumption) | with_reducible refine KeptM.ofOk ?_ | with_reducible refine KeptM.ofWait ?_ | with_reducible exact KeptM.ofFault | subst z)

theorem State.modSlot_kept {s₀ s : State} (h₀ : Kept s₀ s) (i : Nat) (f : SlotRun → SlotRun) : Kept s₀ (State.modSlot s i f) := by
  unfold State.modSlot
  repeat' (first | with_reducible assumption | ((with_reducible refine Kept.update ?_ ?_ (hf := ?_)) <;> first | with_reducible assumption | exact rfl | exact ⟨fun h => h⟩) | with_reducible apply State.modFrm_kept | ((try lift_lets); intro z; try (refine (have hz : Kept s₀ z := ?_; ?_))) | subst z)

theorem moverCommand_kept {s₀ s : State} (h₀ : Kept s₀ s) (i : Nat) : Kept s₀ (moverCommand i s) := by
  unfold moverCommand
  repeat' (first | with_reducible assumption | ((with_reducible refine Kept.update ?_ ?_ (hf := ?_)) <;> first | with_reducible assumption | exact rfl | exact ⟨fun h => h⟩) | with_reducible apply State.move_kept | with_reducible apply State.fault_kept | with_reducible apply State.accessRaise_kept | with_reducible apply State.modSlot_kept | ((try lift_lets); intro z; try (refine (have hz : Kept s₀ z := ?_; ?_))) | split | with_reducible refine KeptM.ok ?_ (by with_reducible assumption) | with_reducible refine KeptM.wait ?_ (by with_reducible assumption) | subst z)

theorem execMoverCommand_next (i : Nat) (s : State) : ∃ s', execMoverCommand i s = .next s' ∧ Kept s s' := by
  have h₀ := Kept.refl s
  refine ⟨_, rfl, ?_⟩
  repeat' (first | with_reducible assumption | with_reducible apply moverCommand_kept)

theorem moverComplete_kept {s₀ s : State} (h₀ : Kept s₀ s) (i : Nat) : Kept s₀ (moverComplete i s) := by
  unfold moverComplete
  repeat' (first | with_reducible assumption | ((with_reducible refine Kept.update ?_ ?_ (hf := ?_)) <;> first | with_reducible assumption | exact rfl | exact ⟨fun h => h⟩) | with_reducible apply State.modSlot_kept | with_reducible apply State.issueToken_kept | with_reducible apply State.addToken_kept | with_reducible apply State.fault_kept | ((try lift_lets); intro z; try (refine (have hz : Kept s₀ z := ?_; ?_))) | split | refine KeptO.get ?_ (by with_reducible assumption) | subst z)

theorem execMoverCommandComplete_next (i : Nat) (s : State) : ∃ s', execMoverCommandComplete i s = .next s' ∧ Kept s s' := by
  have h₀ := Kept.refl s
  refine ⟨_, rfl, ?_⟩
  repeat' (first | with_reducible assumption | with_reducible apply moverComplete_kept)

end Sys2Proof.Machine
end

