-- ==== Sys2Proof/Laws/TrainingKept.lean ====
section
/-! SUPPORT. Each operation of Machine/Training.lean leaves what `Kept` says as it is. -/

namespace Sys2Proof.Machine

theorem State.stepConstants_kept {s₀ s : State} (h₀ : Kept s₀ s) (p : Nat) (step : W48) (first : W48) : Kept s₀ (State.stepConstants s p step first) := by
  unfold State.stepConstants
  repeat' (first | with_reducible assumption | ((with_reducible refine Kept.update ?_ ?_ (hf := ?_)) <;> first | with_reducible assumption | exact rfl | exact ⟨fun h => h⟩) | with_reducible apply State.putStore_kept | with_reducible apply State.modPlan_kept | with_reducible refine Kept.foldl (fun _ _ _ => ?_) _ ?_ | ((try lift_lets); intro z; try (refine (have hz : Kept s₀ z := ?_; ?_))) | split | subst z)

theorem segmentClose_kept {s₀ s : State} (h₀ : Kept s₀ s) (p : Nat) (g : SegIn) : Kept s₀ (segmentClose p g s) := by
  unfold segmentClose
  repeat' (first | with_reducible assumption | ((with_reducible refine Kept.update ?_ ?_ (hf := ?_)) <;> first | with_reducible assumption | exact rfl | exact ⟨fun h => h⟩) | with_reducible apply State.putBytes_kept | with_reducible apply State.setCw_kept | with_reducible apply State.modPlan_kept | ((try lift_lets); intro z; try (refine (have hz : Kept s₀ z := ?_; ?_))) | split | subst z)

theorem execSegmentClose_next (p : Fin 4) (g : SegIn) (s : State) : ∃ s', execSegmentClose p g s = .next s' ∧ Kept s s' := by
  have h₀ := Kept.refl s
  refine ⟨_, rfl, ?_⟩
  repeat' (first | with_reducible assumption | with_reducible apply segmentClose_kept | split)

theorem State.watchSnapshot_kept {s₀ s : State} (h₀ : Kept s₀ s) (p : Nat) : Kept s₀ (State.watchSnapshot s p) := by
  unfold State.watchSnapshot
  repeat' (first | with_reducible assumption | ((with_reducible refine Kept.update ?_ ?_ (hf := ?_)) <;> first | with_reducible assumption | exact rfl | exact ⟨fun h => h⟩) | with_reducible apply State.modPlan_kept | ((try lift_lets); intro z; try (refine (have hz : Kept s₀ z := ?_; ?_))) | subst z)

theorem State.rankWatch_kept {s₀ s : State} (h₀ : Kept s₀ s) (p : Nat) (q : Plan) : Kept s₀ (State.rankWatch s p q) := by
  unfold State.rankWatch
  repeat' (first | with_reducible assumption | ((with_reducible refine Kept.update ?_ ?_ (hf := ?_)) <;> first | with_reducible assumption | exact rfl | exact ⟨fun h => h⟩) | with_reducible apply State.modPlan_kept | with_reducible apply State.send_kept | ((try lift_lets); intro z; try (refine (have hz : Kept s₀ z := ?_; ?_))) | split | subst z)

theorem rootWatch_kept {s₀ s : State} (h₀ : Kept s₀ s) (p : Nat) (recs : List WatchRec) : Kept s₀ (rootWatch p recs s) := by
  unfold rootWatch
  dsimp only
  repeat' (first | with_reducible assumption | ((with_reducible refine Kept.update ?_ ?_ (hf := ?_)) <;> first | with_reducible assumption | exact rfl | exact ⟨fun h => h⟩) | with_reducible apply State.modPlan_kept | with_reducible apply State.outflow_kept | with_reducible apply State.send_kept | with_reducible refine Kept.foldl (fun _ _ _ => ?_) _ ?_ | ((try lift_lets); intro z; try (refine (have hz : Kept s₀ z := ?_; ?_))) | split | subst z)

theorem execRootWatchDeadline_next (p : Fin 4) (recs : List WatchRec) (s : State) : ∃ s', execRootWatchDeadline p recs s = .next s' ∧ Kept s s' := by
  have h₀ := Kept.refl s
  refine ⟨_, rfl, ?_⟩
  repeat' (first | with_reducible assumption | with_reducible apply rootWatch_kept | split)

end Sys2Proof.Machine
end

