-- ==== Sys2Proof/Laws/EngineKept.lean ====
section
/-! SUPPORT. Each operation of Machine/Engine.lean leaves what `Kept` says as it is. -/

namespace Sys2Proof.Machine

/-- Every state that the outcome carries. -/
structure KeptJ (r : State) (a : JobOut) : Prop where
  all : ∀ t, (a = .wait t ∨ a = .ok t) → Kept r t

theorem KeptJ.ofWait {r t : State} (h : Kept r t) : KeptJ r (.wait t) := ⟨fun u e => by simp at e; exact e ▸ h⟩
theorem KeptJ.ofOk {r t : State} (h : Kept r t) : KeptJ r (.ok t) := ⟨fun u e => by simp at e; exact e ▸ h⟩
theorem KeptJ.wait {r t : State} {a : JobOut} (h : KeptJ r a) (e : a = .wait t) : Kept r t := h.all t (.inl e)
theorem KeptJ.ok {r t : State} {a : JobOut} (h : KeptJ r a) (e : a = .ok t) : Kept r t := h.all t (.inr e)

theorem State.withLines_kept {r s : State} (h : Kept r s) (u p : Nat) (ns : List Nat) {f : State → Lines → State}
    (hf : ∀ z c, Kept r z → Kept r (f z c)) : KeptJ r (State.withLines s u p ns f) := by
  unfold State.withLines
  dsimp only
  split
  · exact KeptJ.ofOk (State.accessRaise_kept h _ _ _ _ _)
  · exact KeptJ.ofWait (KeptA.wait (State.access_kept h _ _ _ _) (by assumption))
  · exact KeptJ.ofOk (State.drainSites_kept (State.leavePlace_kept (hf _ _ (State.takeLines_kept
      (KeptA.ok (State.access_kept h _ _ _ _) (by assumption)) _)) _))

theorem State.emit_kept {s₀ s : State} (h₀ : Kept s₀ s) (p : Nat) (dest : Nat) (op : Nat) (addr : Nat) (body : BitVec 2048) (marks : BitVec 8) : Kept s₀ (State.emit s p dest op addr body marks) := by
  unfold State.emit
  repeat' (first | with_reducible assumption | with_reducible apply State.originate_kept)

theorem State.emitSig_kept {s₀ s : State} (h₀ : Kept s₀ s) (p : Nat) (dest : Nat) (sig : Option Token) : Kept s₀ (State.emitSig s p dest sig) := by
  unfold State.emitSig
  repeat' (first | with_reducible assumption | ((with_reducible refine Kept.update ?_ ?_ (hf := ?_)) <;> first | with_reducible assumption | exact rfl | exact ⟨fun h => h⟩) | with_reducible apply State.emit_kept | ((try lift_lets); intro z; try (refine (have hz : Kept s₀ z := ?_; ?_))) | split | subst z)

theorem State.forwardDigest_kept {s₀ s : State} (h₀ : Kept s₀ s) (p : Nat) (w : Walk) (g : Digest) (sig : Option Token) : Kept s₀ (State.forwardDigest s p w g sig) := by
  unfold State.forwardDigest
  repeat' (first | with_reducible assumption | ((with_reducible refine Kept.update ?_ ?_ (hf := ?_)) <;> first | with_reducible assumption | exact rfl | exact ⟨fun h => h⟩) | with_reducible apply State.emit_kept | with_reducible apply State.emitSig_kept | ((try lift_lets); intro z; try (refine (have hz : Kept s₀ z := ?_; ?_))) | split | subst z)

theorem State.contribute_kept {s₀ s : State} (h₀ : Kept s₀ s) (u : Nat) (p : Nat) (q : Plan) (w : Walk) (grads : List Nat) (sig : Option Token) : KeptJ s₀ (State.contribute s u p q w grads sig) := by
  unfold State.contribute
  repeat' (first | with_reducible assumption | ((with_reducible refine Kept.update ?_ ?_ (hf := ?_)) <;> first | with_reducible assumption | exact rfl | exact ⟨fun h => h⟩) | with_reducible refine State.withLines_kept ?_ _ _ _ (fun _ _ _ => ?_) | with_reducible apply State.emit_kept | with_reducible apply State.forwardDigest_kept | with_reducible refine Kept.foldl (fun _ _ _ => ?_) _ ?_ | ((try lift_lets); intro z; try (refine (have hz : Kept s₀ z := ?_; ?_))) | split | with_reducible refine KeptJ.ok ?_ (by with_reducible assumption) | with_reducible refine KeptJ.wait ?_ (by with_reducible assumption) | with_reducible refine KeptJ.ofOk ?_ | with_reducible refine KeptJ.ofWait ?_ | with_reducible refine KeptO.getD ?_ ?_ | subst z)

theorem State.forward_kept {s₀ s : State} (h₀ : Kept s₀ s) (u : Nat) (p : Nat) (q : Plan) (w : Walk) (sig : Option Token) : KeptJ s₀ (State.forward s u p q w sig) := by
  unfold State.forward
  repeat' (first | with_reducible assumption | ((with_reducible refine Kept.update ?_ ?_ (hf := ?_)) <;> first | with_reducible assumption | exact rfl | exact ⟨fun h => h⟩) | with_reducible refine State.withLines_kept ?_ _ _ _ (fun _ _ _ => ?_) | with_reducible apply State.emit_kept | with_reducible apply State.forwardDigest_kept | with_reducible refine Kept.foldl (fun _ _ _ => ?_) _ ?_ | ((try lift_lets); intro z; try (refine (have hz : Kept s₀ z := ?_; ?_))) | split | dsimp -zeta only | with_reducible refine KeptJ.ok ?_ (by with_reducible assumption) | with_reducible refine KeptJ.wait ?_ (by with_reducible assumption) | with_reducible refine KeptJ.ofOk ?_ | with_reducible refine KeptJ.ofWait ?_ | subst z)

theorem State.noteRound_kept {s₀ s : State} (h₀ : Kept s₀ s) (p : Nat) (q : Plan) (w : Walk) (c : Lines) : Kept s₀ (State.noteRound s p q w c) := by
  unfold State.noteRound
  repeat' (first | with_reducible assumption | ((with_reducible refine Kept.update ?_ ?_ (hf := ?_)) <;> first | with_reducible assumption | exact rfl | exact ⟨fun h => h⟩) | with_reducible apply State.modLayer_kept | ((try lift_lets); intro z; try (refine (have hz : Kept s₀ z := ?_; ?_))) | split | dsimp -zeta only | subst z)

theorem State.raiseExps_kept {s₀ s : State} (h₀ : Kept s₀ s) (u : Nat) (p : Nat) (q : Plan) (w : Walk) : KeptJ s₀ (State.raiseExps s u p q w) := by
  unfold State.raiseExps
  repeat' (first | with_reducible assumption | ((with_reducible refine Kept.update ?_ ?_ (hf := ?_)) <;> first | with_reducible assumption | exact rfl | exact ⟨fun h => h⟩) | with_reducible refine State.withLines_kept ?_ _ _ _ (fun _ _ _ => ?_) | with_reducible apply State.noteRound_kept | with_reducible apply State.emit_kept | with_reducible refine Kept.foldl (fun _ _ _ => ?_) _ ?_ | ((try lift_lets); intro z; try (refine (have hz : Kept s₀ z := ?_; ?_))) | split | dsimp -zeta only | with_reducible refine KeptJ.ok ?_ (by with_reducible assumption) | with_reducible refine KeptJ.wait ?_ (by with_reducible assumption) | with_reducible refine KeptJ.ofOk ?_ | with_reducible refine KeptJ.ofWait ?_ | subst z)

theorem State.commitSeal_kept {s₀ s : State} (h₀ : Kept s₀ s) (u : Nat) (p : Nat) (q : Plan) (w : Walk) : KeptJ s₀ (State.commitSeal s u p q w) := by
  unfold State.commitSeal
  repeat' (first | with_reducible assumption | ((with_reducible refine Kept.update ?_ ?_ (hf := ?_)) <;> first | with_reducible assumption | exact rfl | exact ⟨fun h => h⟩) | with_reducible apply State.acceptedAll_kept | with_reducible refine State.withLines_kept ?_ _ _ _ (fun _ _ _ => ?_) | with_reducible apply State.noteRound_kept | with_reducible apply State.emit_kept | with_reducible refine Kept.foldl (fun _ _ _ => ?_) _ ?_ | ((try lift_lets); intro z; try (refine (have hz : Kept s₀ z := ?_; ?_))) | split | dsimp -zeta only | refine Kept.pair (by with_reducible assumption) ?_ | with_reducible refine KeptJ.ok ?_ (by with_reducible assumption) | with_reducible refine KeptJ.wait ?_ (by with_reducible assumption) | with_reducible refine KeptJ.ofOk ?_ | with_reducible refine KeptJ.ofWait ?_ | subst z)

theorem State.nextExps_kept {s₀ s : State} (h₀ : Kept s₀ s) (u : Nat) (p : Nat) (q : Plan) (w : Walk) : KeptJ s₀ (State.nextExps s u p q w) := by
  unfold State.nextExps
  repeat' (first | with_reducible assumption | ((with_reducible refine Kept.update ?_ ?_ (hf := ?_)) <;> first | with_reducible assumption | exact rfl | exact ⟨fun h => h⟩) | with_reducible refine State.withLines_kept ?_ _ _ _ (fun _ _ _ => ?_) | with_reducible apply State.emit_kept | with_reducible refine Kept.foldl (fun _ _ _ => ?_) _ ?_ | ((try lift_lets); intro z; try (refine (have hz : Kept s₀ z := ?_; ?_))) | split | dsimp -zeta only | with_reducible refine KeptJ.ok ?_ (by with_reducible assumption) | with_reducible refine KeptJ.wait ?_ (by with_reducible assumption) | with_reducible refine KeptJ.ofOk ?_ | with_reducible refine KeptJ.ofWait ?_ | subst z)

theorem State.trailer_kept {s₀ s : State} (h₀ : Kept s₀ s) (u : Nat) (p : Nat) (w : Walk) (codes : Nat) (sums : Nat) (dst : Nat) : KeptJ s₀ (State.trailer s u p w codes sums dst) := by
  unfold State.trailer
  repeat' (first | with_reducible assumption | ((with_reducible refine Kept.update ?_ ?_ (hf := ?_)) <;> first | with_reducible assumption | exact rfl | exact ⟨fun h => h⟩) | with_reducible refine State.withLines_kept ?_ _ _ _ (fun _ _ _ => ?_) | with_reducible apply State.emit_kept | with_reducible refine Kept.foldl (fun _ _ _ => ?_) _ ?_ | split | dsimp -zeta only | with_reducible refine KeptJ.ok ?_ (by with_reducible assumption) | with_reducible refine KeptJ.wait ?_ (by with_reducible assumption) | with_reducible refine KeptJ.ofOk ?_ | with_reducible refine KeptJ.ofWait ?_)

theorem State.spread_kept {s₀ s : State} (h₀ : Kept s₀ s) (u : Nat) (p : Nat) (w : Walk) (base : Nat) (lines : Nat) (sig : Option Token) : KeptJ s₀ (State.spread s u p w base lines sig) := by
  unfold State.spread
  repeat' (first | with_reducible assumption | ((with_reducible refine Kept.update ?_ ?_ (hf := ?_)) <;> first | with_reducible assumption | exact rfl | exact ⟨fun h => h⟩) | with_reducible refine State.withLines_kept ?_ _ _ _ (fun _ _ _ => ?_) | with_reducible apply State.emit_kept | with_reducible apply State.emitSig_kept | with_reducible refine Kept.foldl (fun _ _ _ => ?_) _ ?_ | ((try lift_lets); intro z; try (refine (have hz : Kept s₀ z := ?_; ?_))) | split | dsimp -zeta only | with_reducible refine KeptJ.ok ?_ (by with_reducible assumption) | with_reducible refine KeptJ.wait ?_ (by with_reducible assumption) | with_reducible refine KeptJ.ofOk ?_ | with_reducible refine KeptJ.ofWait ?_ | subst z)

theorem State.rescale_kept {s₀ s : State} (h₀ : Kept s₀ s) (u : Nat) (p : Nat) (red : Nat) (q : Plan) (trailers : List (Nat × Nat)) (copies : List (Nat × Nat)) : KeptJ s₀ (State.rescale s u p red q trailers copies) := by
  unfold State.rescale
  repeat' (first | with_reducible assumption | ((with_reducible refine Kept.update ?_ ?_ (hf := ?_)) <;> first | with_reducible assumption | exact rfl | exact ⟨fun h => h⟩) | with_reducible refine State.withLines_kept ?_ _ _ _ (fun _ _ _ => ?_) | with_reducible apply State.modLayer_kept | with_reducible apply State.putBytes_kept | with_reducible refine Kept.foldl (fun _ _ _ => ?_) _ ?_ | ((try lift_lets); intro z; try (refine (have hz : Kept s₀ z := ?_; ?_))) | split | dsimp -zeta only | with_reducible refine KeptJ.ok ?_ (by with_reducible assumption) | with_reducible refine KeptJ.wait ?_ (by with_reducible assumption) | with_reducible refine KeptJ.ofOk ?_ | with_reducible refine KeptJ.ofWait ?_ | subst z)

theorem State.handOut_kept {s₀ s : State} (h₀ : Kept s₀ s) (u : Nat) (p : Nat) (stream : Nat) (base : Nat) (lines : Nat) : KeptJ s₀ (State.handOut s u p stream base lines) := by
  unfold State.handOut
  repeat' (first | with_reducible assumption | ((with_reducible refine Kept.update ?_ ?_ (hf := ?_)) <;> first | with_reducible assumption | exact rfl | exact ⟨fun h => h⟩) | with_reducible refine State.withLines_kept ?_ _ _ _ (fun _ _ _ => ?_) | with_reducible apply State.outflow_kept | with_reducible apply State.sinkFault_kept | ((try lift_lets); intro z; try (refine (have hz : Kept s₀ z := ?_; ?_))) | split | dsimp -zeta only | with_reducible refine KeptJ.ok ?_ (by with_reducible assumption) | with_reducible refine KeptJ.wait ?_ (by with_reducible assumption) | with_reducible refine KeptJ.ofOk ?_ | with_reducible refine KeptJ.ofWait ?_ | subst z)

theorem State.runJob_kept {r s : State} (h : Kept r s) (u p : Nat) (q : Plan) (j : EngineJob) : KeptJ r (State.runJob s u p q j) := by
  unfold State.runJob
  cases j <;> dsimp only <;> (try split) <;> first
    | exact KeptJ.ofOk h
    | with_reducible exact State.contribute_kept h ..
    | with_reducible exact State.forward_kept h ..
    | with_reducible exact State.raiseExps_kept h ..
    | with_reducible exact State.commitSeal_kept h ..
    | with_reducible exact State.nextExps_kept h ..
    | with_reducible exact State.trailer_kept h ..
    | with_reducible exact State.spread_kept h ..
    | with_reducible exact State.rescale_kept h ..
    | with_reducible exact State.handOut_kept h ..

theorem State.runJobs_kept {r s : State} (h : Kept r s) (i p : Nat) (q : Plan) (js : List EngineJob) :
    Kept r (State.runJobs i p q js s).1 := by
  induction js generalizing s with
  | nil => exact h
  | cons j js ih =>
    unfold State.runJobs
    split
    · exact KeptJ.wait (State.runJob_kept h _ _ _ _) (by assumption)
    · exact ih (State.modSlot_kept (KeptJ.ok (State.runJob_kept h _ _ _ _) (by assumption)) _ _)

theorem State.placeSignals_kept {s₀ s : State} (h₀ : Kept s₀ s) (p : Nat) (sigs : List Token) : Kept s₀ (State.placeSignals s p sigs) := by
  unfold State.placeSignals
  repeat' (first | with_reducible assumption | ((with_reducible refine Kept.update ?_ ?_ (hf := ?_)) <;> first | with_reducible assumption | exact rfl | exact ⟨fun h => h⟩) | with_reducible apply State.issueToken_kept | with_reducible apply State.addToken_kept | with_reducible apply State.fault_kept | with_reducible refine Kept.foldl (fun _ _ _ => ?_) _ ?_ | ((try lift_lets); intro z; try (refine (have hz : Kept s₀ z := ?_; ?_))) | split | dsimp -zeta only | refine KeptO.get ?_ (by with_reducible assumption) | subst z)

theorem State.workSlot_kept {s₀ s : State} (h₀ : Kept s₀ s) (i : Nat) (r : SlotRun) : Kept s₀ (State.workSlot s i r).1 := by
  unfold State.workSlot
  repeat' (first | with_reducible assumption | ((with_reducible refine Kept.update ?_ ?_ (hf := ?_)) <;> first | with_reducible assumption | exact rfl | exact ⟨fun h => h⟩) | with_reducible apply State.runJobs_kept | with_reducible apply State.placeSignals_kept | ((try lift_lets); intro z; try (refine (have hz : Kept s₀ z := ?_; ?_))) | split | dsimp -zeta only | refine Kept.pair (by with_reducible assumption) ?_ | subst z)

end Sys2Proof.Machine
end

