-- ==== Sys2Proof/Laws/FrameKept.lean ====
section
/-! SUPPORT. Each operation of Machine/Frame.lean leaves what `Kept` says as it is. -/

namespace Sys2Proof.Machine

theorem State.beginCore_kept {s₀ s : State} (h₀ : Kept s₀ s) (i : Nat) (e : SlotEntry) (pairs : List TwinPair) (k : Nat) : Kept s₀ (State.beginCore s i e pairs k) := by
  unfold State.beginCore
  repeat' (first | with_reducible assumption | ((with_reducible refine Kept.update ?_ ?_ (hf := ?_)) <;> first | with_reducible assumption | exact rfl | exact ⟨fun h => h⟩) | exact ⟨fun a _ => State.canonical_core (Kept.canon ‹_› a) _⟩ | exact ⟨fun _ c => State.canonical_core c _⟩ | refine CoreStep.mk fun _ hy => ?_ | refine CanonCore.mk fun ha hy => ?_ | with_reducible exact hy | with_reducible apply Core.begin_canonical | exact hy | exact State.canonical_core hy _ | exact State.canonical_core (Kept.canon ‹_› ha) _ | with_reducible apply State.modCore_kept | ((try lift_lets); intro z; try (refine (have hz : Kept s₀ z := ?_; ?_))) | split | subst z)

theorem slotStart_kept {s₀ s : State} (h₀ : Kept s₀ s) (i : Nat) : Kept s₀ (slotStart i s) := by
  unfold slotStart
  repeat' (first | with_reducible assumption | ((with_reducible refine Kept.update ?_ ?_ (hf := ?_)) <;> first | with_reducible assumption | exact rfl | exact ⟨fun h => h⟩) | with_reducible apply State.modSlot_kept | with_reducible apply State.beginCore_kept | with_reducible refine Kept.foldl (fun _ _ _ => ?_) _ ?_ | ((try lift_lets); intro z; try (refine (have hz : Kept s₀ z := ?_; ?_))) | split | subst z)

theorem execSlotStart_next (i : Nat) (s : State) : ∃ s', execSlotStart i s = .next s' ∧ Kept s s' := by
  have h₀ := Kept.refl s
  refine ⟨_, rfl, ?_⟩
  repeat' (first | with_reducible assumption | with_reducible apply slotStart_kept)

theorem slotComplete_kept {s₀ s : State} (h₀ : Kept s₀ s) (i : Nat) : Kept s₀ (slotComplete i s) := by
  unfold slotComplete
  repeat' (first | with_reducible assumption | ((with_reducible refine Kept.update ?_ ?_ (hf := ?_)) <;> first | with_reducible assumption | exact rfl | exact ⟨fun h => h⟩) | exact ⟨fun _ hy => hy⟩ | exact ⟨fun a _ => State.canonical_core (Kept.canon ‹_› a) _⟩ | exact ⟨fun _ c => State.canonical_core c _⟩ | refine CoreStep.mk fun _ hy => ?_ | refine CanonCore.mk fun ha hy => ?_ | with_reducible exact hy | exact hy | exact State.canonical_core hy _ | exact State.canonical_core (Kept.canon ‹_› ha) _ | with_reducible apply State.workSlot_kept | with_reducible apply State.modSlot_kept | with_reducible apply State.modCore_kept | with_reducible apply State.reportDone_kept | with_reducible refine Kept.foldl (fun _ _ _ => ?_) _ ?_ | ((try lift_lets); intro z; try (refine (have hz : Kept s₀ z := ?_; ?_))) | split | dsimp -zeta only | refine Kept.pair (by with_reducible assumption) ?_ | subst z)

theorem execSlotComplete_next (i : Nat) (s : State) : ∃ s', execSlotComplete i s = .next s' ∧ Kept s s' := by
  have h₀ := Kept.refl s
  refine ⟨_, rfl, ?_⟩
  repeat' (first | with_reducible assumption | with_reducible apply slotComplete_kept)

theorem State.applyGrant_kept {s₀ s : State} (h₀ : Kept s₀ s) (p : Nat) (d : Nat) (g : Nat) : Kept s₀ (State.applyGrant s p d g) := by
  unfold State.applyGrant
  repeat' (first | with_reducible assumption | ((with_reducible refine Kept.update ?_ ?_ (hf := ?_)) <;> first | with_reducible assumption | exact rfl | exact ⟨fun h => h⟩) | with_reducible apply State.move_kept | with_reducible apply State.modFrm_kept | with_reducible apply State.modPlan_kept | with_reducible apply State.fault_kept | ((try lift_lets); intro z; try (refine (have hz : Kept s₀ z := ?_; ?_))) | split | with_reducible refine KeptM.ok ?_ (by with_reducible assumption) | with_reducible refine KeptM.wait ?_ (by with_reducible assumption) | subst z)

theorem graceGrant_kept {s₀ s : State} (h₀ : Kept s₀ s) (p : Nat) (frame : W48) (d : Nat) (g : Nat) : Kept s₀ (graceGrant p frame d g s) := by
  unfold graceGrant
  repeat' (first | with_reducible assumption | with_reducible apply State.applyGrant_kept | split)

theorem execGraceGrant_next (p : AtPort (Fin 4)) (frame : W48) (d : Nat) (g : Nat) (s : State) : ∃ s', execGraceGrant p frame d g s = .next s' ∧ Kept s s' := by
  have h₀ := Kept.refl s
  refine ⟨_, rfl, ?_⟩
  repeat' (first | with_reducible assumption | with_reducible refine State.onNotice_kept ?_ _ _ (fun _ _ => ?_) | with_reducible apply graceGrant_kept | dsimp -zeta only)

theorem State.applyFinish_kept {s₀ s : State} (h₀ : Kept s₀ s) (p : Nat) : Kept s₀ (State.applyFinish s p) := by
  unfold State.applyFinish
  repeat' (first | with_reducible assumption | ((with_reducible refine Kept.update ?_ ?_ (hf := ?_)) <;> first | with_reducible assumption | exact rfl | exact ⟨fun h => h⟩) | with_reducible apply State.modFrm_kept | with_reducible apply State.modPlan_kept | with_reducible apply State.raise_kept | with_reducible apply State.reportDone_kept | ((try lift_lets); intro z; try (refine (have hz : Kept s₀ z := ?_; ?_))) | subst z)

theorem finish_kept {s₀ s : State} (h₀ : Kept s₀ s) (p : Nat) (frame : W48) : Kept s₀ (finish p frame s) := by
  unfold finish
  repeat' (first | with_reducible assumption | with_reducible apply State.applyFinish_kept | split)

theorem execFinish_next (p : AtPort (Fin 4)) (frame : W48) (s : State) : ∃ s', execFinish p frame s = .next s' ∧ Kept s s' := by
  have h₀ := Kept.refl s
  refine ⟨_, rfl, ?_⟩
  repeat' (first | with_reducible assumption | with_reducible refine State.onNotice_kept ?_ _ _ (fun _ _ => ?_) | with_reducible apply finish_kept | dsimp -zeta only)

theorem State.takeLate_kept {s₀ s : State} (h₀ : Kept s₀ s) (p : Nat) (d : Nat) (seen : Nat) : Kept s₀ (State.takeLate s p d seen) := by
  unfold State.takeLate
  repeat' (first | with_reducible assumption | with_reducible apply State.applyGrant_kept | with_reducible apply State.notify_kept | with_reducible apply State.applyFinish_kept | with_reducible apply finish_kept | ((try lift_lets); intro z; try (refine (have hz : Kept s₀ z := ?_; ?_))) | split | subst z)

theorem State.lateAt_kept {s₀ s : State} (h₀ : Kept s₀ s) (p : Nat) (frame : W48) (d : Nat) (seen : Nat) : Kept s₀ (State.lateAt s p frame d seen) := by
  unfold State.lateAt
  repeat' (first | with_reducible assumption | with_reducible apply State.takeLate_kept | split)

theorem execLateReport_next (o : LateIn) (s : State) : ∃ s', execLateReport o s = .next s' ∧ Kept s s' := by
  have h₀ := Kept.refl s
  refine ⟨_, rfl, ?_⟩
  repeat' (first | with_reducible assumption | with_reducible refine State.onNotice_kept ?_ _ _ (fun _ _ => ?_) | with_reducible apply State.lateAt_kept)

theorem State.reportLate_kept {s₀ s : State} (h₀ : Kept s₀ s) (p : Nat) (d : Nat) : Kept s₀ (State.reportLate s p d) := by
  unfold State.reportLate
  repeat' (first | with_reducible assumption | with_reducible apply State.lateAt_kept | with_reducible apply State.notify_kept | ((try lift_lets); intro z; try (refine (have hz : Kept s₀ z := ?_; ?_))) | split | subst z)

theorem lateSlot_kept {s₀ s : State} (h₀ : Kept s₀ s) (i : Nat) : Kept s₀ (lateSlot i s) := by
  unfold lateSlot
  repeat' (first | with_reducible assumption | ((with_reducible refine Kept.update ?_ ?_ (hf := ?_)) <;> first | with_reducible assumption | exact rfl | exact ⟨fun h => h⟩) | exact ⟨fun _ hy => hy⟩ | exact ⟨fun a _ => State.canonical_tile (Kept.canon ‹_› a) _⟩ | exact ⟨fun _ c => State.canonical_tile c _⟩ | refine TileStep.mk fun _ hy => ?_ | refine CanonTile.mk fun ha hy => ?_ | with_reducible exact hy | with_reducible apply Tile.tok_set | with_reducible apply Tile.tok_keep | with_reducible apply Tile.cw_set | exact hy | exact State.canonical_tile hy _ | exact State.canonical_tile (Kept.canon ‹_› ha) _ | with_reducible apply State.modSlot_kept | with_reducible apply State.modTile_kept | with_reducible apply State.modPlan_kept | with_reducible apply State.reportLate_kept | ((try lift_lets); intro z; try (refine (have hz : Kept s₀ z := ?_; ?_))) | split | subst z)

theorem execLateSlot_next (i : Nat) (s : State) : ∃ s', execLateSlot i s = .next s' ∧ Kept s s' := by
  have h₀ := Kept.refl s
  refine ⟨_, rfl, ?_⟩
  repeat' (first | with_reducible assumption | with_reducible apply lateSlot_kept)

theorem State.announceLull_kept {s₀ s : State} (h₀ : Kept s₀ s) : Kept s₀ (State.announceLull s) := by
  unfold State.announceLull
  repeat' (first | with_reducible assumption | ((with_reducible refine Kept.update ?_ ?_ (hf := ?_)) <;> first | with_reducible assumption | exact rfl | exact ⟨fun h => h⟩) | with_reducible apply finish_kept | with_reducible apply State.modFrm_kept | with_reducible apply State.notify_kept | ((try lift_lets); intro z; try (refine (have hz : Kept s₀ z := ?_; ?_))) | split | subst z)

theorem finishLull_kept {s₀ s : State} (h₀ : Kept s₀ s) (p : Nat) (done : W64) : Kept s₀ (finishLull p done s) := by
  unfold finishLull
  repeat' (first | with_reducible assumption | ((with_reducible refine Kept.update ?_ ?_ (hf := ?_)) <;> first | with_reducible assumption | exact rfl | exact ⟨fun h => h⟩) | with_reducible apply finish_kept | with_reducible apply State.modFrm_kept | with_reducible apply State.announceLull_kept | with_reducible refine State.onNotice_kept ?_ _ _ (fun _ _ => ?_) | ((try lift_lets); intro z; try (refine (have hz : Kept s₀ z := ?_; ?_))) | split | subst z)

theorem execFinishLullAnnounce_next (d : AtPort W64) (s : State) : ∃ s', execFinishLullAnnounce d s = .next s' ∧ Kept s s' := by
  have h₀ := Kept.refl s
  refine ⟨_, rfl, ?_⟩
  repeat' (first | with_reducible assumption | with_reducible apply finishLull_kept | dsimp -zeta only)

theorem hungSlot_kept {s₀ s : State} (h₀ : Kept s₀ s) (i : Nat) : Kept s₀ (hungSlot i s) := by
  unfold hungSlot
  repeat' (first | with_reducible assumption | ((with_reducible refine Kept.update ?_ ?_ (hf := ?_)) <;> first | with_reducible assumption | exact rfl | exact ⟨fun h => h⟩) | with_reducible apply finish_kept | with_reducible apply State.fault_kept | with_reducible apply State.modFrm_kept | with_reducible apply State.notify_kept | ((try lift_lets); intro z; try (refine (have hz : Kept s₀ z := ?_; ?_))) | split | subst z)

theorem execHungSlot_next (i : Nat) (s : State) : ∃ s', execHungSlot i s = .next s' ∧ Kept s s' := by
  have h₀ := Kept.refl s
  refine ⟨_, rfl, ?_⟩
  repeat' (first | with_reducible assumption | with_reducible apply hungSlot_kept)

theorem State.oweLate_kept {s₀ s : State} (h₀ : Kept s₀ s) (p : Nat) (code : Nat) : Kept s₀ (State.oweLate s p code) := by
  unfold State.oweLate
  repeat' (first | with_reducible assumption | ((with_reducible refine Kept.update ?_ ?_ (hf := ?_)) <;> first | with_reducible assumption | exact rfl | exact ⟨fun h => h⟩) | with_reducible apply State.fault_kept | with_reducible apply State.modPlan_kept | with_reducible apply State.modFrm_kept | ((try lift_lets); intro z; try (refine (have hz : Kept s₀ z := ?_; ?_))) | subst z)

theorem ckptLate_kept {s₀ s : State} (h₀ : Kept s₀ s) (p : Nat) : Kept s₀ (ckptLate p s) := by
  unfold ckptLate
  repeat' (first | with_reducible assumption | ((with_reducible refine Kept.update ?_ ?_ (hf := ?_)) <;> first | with_reducible assumption | exact rfl | exact ⟨fun h => h⟩) | with_reducible apply State.oweLate_kept | ((try lift_lets); intro z; try (refine (have hz : Kept s₀ z := ?_; ?_))) | split | subst z)

theorem execCkptLate_next (p : Fin 4) (s : State) : ∃ s', execCkptLate p s = .next s' ∧ Kept s s' := by
  have h₀ := Kept.refl s
  refine ⟨_, rfl, ?_⟩
  repeat' (first | with_reducible assumption | with_reducible apply ckptLate_kept)

theorem restoreLate_kept {s₀ s : State} (h₀ : Kept s₀ s) (p : Nat) : Kept s₀ (restoreLate p s) := by
  unfold restoreLate
  repeat' (first | with_reducible assumption | ((with_reducible refine Kept.update ?_ ?_ (hf := ?_)) <;> first | with_reducible assumption | exact rfl | exact ⟨fun h => h⟩) | with_reducible apply State.oweLate_kept | ((try lift_lets); intro z; try (refine (have hz : Kept s₀ z := ?_; ?_))) | split | subst z)

theorem execRestoreLate_next (p : Fin 4) (s : State) : ∃ s', execRestoreLate p s = .next s' ∧ Kept s s' := by
  have h₀ := Kept.refl s
  refine ⟨_, rfl, ?_⟩
  repeat' (first | with_reducible assumption | with_reducible apply restoreLate_kept)

end Sys2Proof.Machine
end

