-- ==== Sys2Proof/Laws/LullKept.lean ====
section
/-! SUPPORT. Each operation of Machine/Lull.lean leaves what `Kept` says as it is. -/

namespace Sys2Proof.Machine

theorem State.mergeAll_kept {s₀ s : State} (h₀ : Kept s₀ s) (i : Nat) : Kept s₀ (State.mergeAll s i) := by
  unfold State.mergeAll
  repeat' (first | with_reducible assumption | with_reducible apply State.merge_kept | with_reducible apply State.drainSite_kept | with_reducible refine Kept.foldl (fun _ _ _ => ?_) _ ?_ | split)

theorem State.refreshSite_kept {s₀ s : State} (h₀ : Kept s₀ s) (i : Nat) : Kept s₀ (State.refreshSite s i) := by
  unfold State.refreshSite
  repeat' (first | with_reducible assumption | ((with_reducible refine Kept.update ?_ ?_ (hf := ?_)) <;> first | with_reducible assumption | exact rfl | exact ⟨fun h => h⟩) | exact ⟨fun _ hy => hy⟩ | exact ⟨fun a _ => State.canonical_site (Kept.canon ‹_› a) _⟩ | exact ⟨fun _ c => State.canonical_site c _⟩ | refine SiteStep.mk fun _ hy => ?_ | refine CanonSite.mk fun ha hy => ?_ | with_reducible exact hy | exact hy | exact State.canonical_site hy _ | exact State.canonical_site (Kept.canon ‹_› ha) _ | with_reducible apply State.draw_kept | with_reducible apply State.modSite_kept | ((try lift_lets); intro z; try (refine (have hz : Kept s₀ z := ?_; ?_))) | dsimp -zeta only | refine Kept.pair (by with_reducible assumption) ?_ | subst z)

theorem State.sweep_kept {s₀ s : State} (h₀ : Kept s₀ s) (i : Nat) (lo : Nat) (n : Nat) : Kept s₀ (State.sweep s i lo n) := by
  unfold State.sweep
  repeat' (first | with_reducible assumption | with_reducible apply State.meets_kept | with_reducible apply State.fetchLine_kept | with_reducible refine Kept.foldl (fun _ _ _ => ?_) _ ?_ | ((try lift_lets); intro z; try (refine (have hz : Kept s₀ z := ?_; ?_))) | dsimp -zeta only | refine Kept.pair (by with_reducible assumption) ?_ | subst z)

theorem State.moveGroup_kept {s₀ s : State} (h₀ : Kept s₀ s) (i : Nat) (e : Nat × Nat) : Kept s₀ (State.moveGroup s i e) := by
  unfold State.moveGroup
  repeat' (first | with_reducible assumption | ((with_reducible refine Kept.update ?_ ?_ (hf := ?_)) <;> first | with_reducible assumption | exact rfl | exact ⟨fun h => h⟩) | exact ⟨fun _ hy => hy⟩ | exact ⟨fun a _ => State.canonical_site (Kept.canon ‹_› a) _⟩ | exact ⟨fun _ c => State.canonical_site c _⟩ | refine SiteStep.mk fun _ hy => ?_ | refine CanonSite.mk fun ha hy => ?_ | with_reducible exact hy | exact hy | exact State.canonical_site hy _ | exact State.canonical_site (Kept.canon ‹_› ha) _ | with_reducible apply State.edcLines_kept | with_reducible apply State.modSite_kept | with_reducible apply State.sweep_kept | with_reducible apply State.siteFault_kept | ((try lift_lets); intro z; try (refine (have hz : Kept s₀ z := ?_; ?_))) | split | dsimp -zeta only | subst z)

theorem State.moveGroups_kept {s₀ s : State} (h₀ : Kept s₀ s) (i : Nat) : Kept s₀ (State.moveGroups s i) := by
  unfold State.moveGroups
  repeat' (first | with_reducible assumption | with_reducible apply State.moveGroup_kept | with_reducible refine Kept.foldl (fun _ _ _ => ?_) _ ?_)

theorem State.retireGroup_kept {s₀ s : State} (h₀ : Kept s₀ s) (i : Nat) (g : Nat) : Kept s₀ (State.retireGroup s i g) := by
  unfold State.retireGroup
  repeat' (first | with_reducible assumption | ((with_reducible refine Kept.update ?_ ?_ (hf := ?_)) <;> first | with_reducible assumption | exact rfl | exact ⟨fun h => h⟩) | exact ⟨fun _ hy => hy⟩ | exact ⟨fun a _ => State.canonical_site (Kept.canon ‹_› a) _⟩ | exact ⟨fun _ c => State.canonical_site c _⟩ | refine SiteStep.mk fun _ hy => ?_ | refine CanonSite.mk fun ha hy => ?_ | with_reducible exact hy | exact hy | exact State.canonical_site hy _ | exact State.canonical_site (Kept.canon ‹_› ha) _ | with_reducible apply State.modSite_kept | with_reducible apply State.queueDelta_kept | with_reducible apply State.siteFault_kept | ((try lift_lets); intro z; try (refine (have hz : Kept s₀ z := ?_; ?_))) | split | subst z)

theorem State.queueGroups_kept {r s : State} (h : Kept r s) (i n : Nat) : Kept r (State.queueGroups s i n) := by
  induction n generalizing s with
  | zero => exact h
  | succ n ih =>
    unfold State.queueGroups
    split
    · exact h
    · exact ih (State.retireGroup_kept h _ _)

theorem State.retireGroups_kept {s₀ s : State} (h₀ : Kept s₀ s) (i : Nat) (n : Nat) : Kept s₀ (State.retireGroups s i n) := by
  unfold State.retireGroups
  repeat' (first | with_reducible assumption | with_reducible apply State.moveGroups_kept | with_reducible apply State.queueGroups_kept | split)

theorem State.scrub_kept {s₀ s : State} (h₀ : Kept s₀ s) (i : Nat) : Kept s₀ (State.scrub s i) := by
  unfold State.scrub
  repeat' (first | with_reducible assumption | ((with_reducible refine Kept.update ?_ ?_ (hf := ?_)) <;> first | with_reducible assumption | exact rfl | exact ⟨fun h => h⟩) | exact ⟨fun _ hy => hy⟩ | exact ⟨fun a _ => State.canonical_site (Kept.canon ‹_› a) _⟩ | exact ⟨fun _ c => State.canonical_site c _⟩ | refine SiteStep.mk fun _ hy => ?_ | refine CanonSite.mk fun ha hy => ?_ | with_reducible exact hy | exact hy | exact State.canonical_site hy _ | exact State.canonical_site (Kept.canon ‹_› ha) _ | with_reducible apply State.edcLines_kept | with_reducible apply State.sweep_kept | with_reducible apply State.modSite_kept | ((try lift_lets); intro z; try (refine (have hz : Kept s₀ z := ?_; ?_))) | split | dsimp -zeta only | subst z)

theorem State.schedule_kept {s₀ s : State} (h₀ : Kept s₀ s) (i : Nat) : Kept s₀ (State.schedule s i) := by
  unfold State.schedule
  repeat' (first | with_reducible assumption | ((with_reducible refine Kept.update ?_ ?_ (hf := ?_)) <;> first | with_reducible assumption | exact rfl | exact ⟨fun h => h⟩) | exact ⟨fun _ hy => hy⟩ | exact ⟨fun a _ => State.canonical_site (Kept.canon ‹_› a) _⟩ | exact ⟨fun _ c => State.canonical_site c _⟩ | refine SiteStep.mk fun _ hy => ?_ | refine CanonSite.mk fun ha hy => ?_ | with_reducible exact hy | exact hy | exact State.canonical_site hy _ | exact State.canonical_site (Kept.canon ‹_› ha) _ | with_reducible apply State.modSite_kept | ((try lift_lets); intro z; try (refine (have hz : Kept s₀ z := ?_; ?_))) | split | subst z)

theorem State.memoryTrack_kept {s₀ s : State} (h₀ : Kept s₀ s) (i : Nat) : Kept s₀ (State.memoryTrack s i) := by
  unfold State.memoryTrack
  repeat' (first | with_reducible assumption | ((with_reducible refine Kept.update ?_ ?_ (hf := ?_)) <;> first | with_reducible assumption | exact rfl | exact ⟨fun h => h⟩) | with_reducible apply State.mergeAll_kept | with_reducible apply State.refreshSite_kept | with_reducible apply State.retireGroups_kept | with_reducible apply State.scrub_kept | with_reducible apply State.schedule_kept | ((try lift_lets); intro z; try (refine (have hz : Kept s₀ z := ?_; ?_))) | split | subst z)

theorem State.deltaWritten_kept {s₀ s : State} (h₀ : Kept s₀ s) (d : Delta) : Kept s₀ (State.deltaWritten s d) := by
  unfold State.deltaWritten
  repeat' (first | with_reducible assumption | with_reducible apply State.tileRetires_kept | with_reducible apply State.moveGroups_kept | split)

theorem deltaWrite_kept {s₀ s : State} (h₀ : Kept s₀ s) (ok : Bool) : Kept s₀ (deltaWrite ok s) := by
  unfold deltaWrite
  repeat' (first | with_reducible assumption | ((with_reducible refine Kept.update ?_ ?_ (hf := ?_)) <;> first | with_reducible assumption | exact rfl | exact ⟨fun h => h⟩) | with_reducible apply State.appendDelta_kept | with_reducible apply State.deltaWritten_kept | with_reducible apply State.storePacks_kept | with_reducible apply State.fault_kept | ((try lift_lets); intro z; try (refine (have hz : Kept s₀ z := ?_; ?_))) | split | subst z)

theorem execDeltaRecordWrite_next (ok : Bool) (s : State) : ∃ s', execDeltaRecordWrite ok s = .next s' ∧ Kept s s' := by
  have h₀ := Kept.refl s
  refine ⟨_, rfl, ?_⟩
  repeat' (first | with_reducible assumption | with_reducible apply deltaWrite_kept | split)

theorem State.clearTokens_kept {s₀ s : State} (h₀ : Kept s₀ s) : Kept s₀ (State.clearTokens s) := by
  unfold State.clearTokens
  repeat' (first | with_reducible assumption | ((with_reducible refine Kept.update ?_ ?_ (hf := ?_)) <;> first | with_reducible assumption | exact rfl | exact ⟨fun h => h⟩) | exact ⟨fun _ hy => hy⟩ | exact ⟨fun a _ => State.canonical_tile (Kept.canon ‹_› a) _⟩ | exact ⟨fun _ c => State.canonical_tile c _⟩ | refine TileStep.mk fun _ hy => ?_ | refine CanonTile.mk fun ha hy => ?_ | with_reducible exact hy | with_reducible apply Tile.tok_set | with_reducible apply Tile.tok_keep | with_reducible apply Tile.cw_set | exact hy | exact State.canonical_tile hy _ | exact State.canonical_tile (Kept.canon ‹_› ha) _ | with_reducible apply State.modTile_kept | with_reducible refine Kept.foldl (fun _ _ _ => ?_) _ ?_ | ((try lift_lets); intro z; try (refine (have hz : Kept s₀ z := ?_; ?_))) | subst z)

theorem State.clearCarry_kept {s₀ s : State} (h₀ : Kept s₀ s) (p : Nat) : Kept s₀ (State.clearCarry s p) := by
  unfold State.clearCarry
  repeat' (first | with_reducible assumption | ((with_reducible refine Kept.update ?_ ?_ (hf := ?_)) <;> first | with_reducible assumption | exact rfl | exact ⟨fun h => h⟩) | exact ⟨fun _ hy => hy⟩ | exact ⟨fun a _ => State.canonical_tile (Kept.canon ‹_› a) _⟩ | exact ⟨fun _ c => State.canonical_tile c _⟩ | refine TileStep.mk fun _ hy => ?_ | refine CanonTile.mk fun ha hy => ?_ | with_reducible exact hy | with_reducible apply Tile.tok_set | with_reducible apply Tile.tok_keep | with_reducible apply Tile.cw_set | exact hy | exact State.canonical_tile hy _ | exact State.canonical_tile (Kept.canon ‹_› ha) _ | with_reducible apply State.modTile_kept | with_reducible refine Kept.foldl (fun _ _ _ => ?_) _ ?_ | ((try lift_lets); intro z; try (refine (have hz : Kept s₀ z := ?_; ?_))) | split | subst z)

theorem State.lullIdentity_kept {s₀ s : State} (h₀ : Kept s₀ s) : Kept s₀ (State.lullIdentity s) := by
  unfold State.lullIdentity
  repeat' (first | with_reducible assumption | with_reducible apply State.sendIdentity_kept | with_reducible refine Kept.foldl (fun _ _ _ => ?_) _ ?_ | split)

theorem endOfWorkWindow_kept {s₀ s : State} (h₀ : Kept s₀ s) : Kept s₀ (endOfWorkWindow s) := by
  unfold endOfWorkWindow
  repeat' (first | with_reducible assumption | ((with_reducible refine Kept.update ?_ ?_ (hf := ?_)) <;> first | with_reducible assumption | exact rfl | exact ⟨fun h => h⟩) | with_reducible apply State.captureCounts_kept | with_reducible apply State.modFrm_kept | with_reducible apply finish_kept | with_reducible apply State.clearCarry_kept | with_reducible apply State.clearTokens_kept | with_reducible apply State.deliverBatches_kept | with_reducible apply State.lullIdentity_kept | with_reducible apply State.lullProbes_kept | with_reducible apply State.memoryTrack_kept | with_reducible refine Kept.foldl (fun _ _ _ => ?_) _ ?_ | ((try lift_lets); intro z; try (refine (have hz : Kept s₀ z := ?_; ?_))) | split | subst z)

theorem execEndOfWorkWindow_next (s : State) : ∃ s', execEndOfWorkWindow s = .next s' ∧ Kept s s' := by
  have h₀ := Kept.refl s
  refine ⟨_, rfl, ?_⟩
  repeat' (first | with_reducible assumption | with_reducible apply endOfWorkWindow_kept)

theorem State.voteIn_kept {s₀ s : State} (h₀ : Kept s₀ s) (e : Fin 6 × Vote) : Kept s₀ (State.voteIn s e) := by
  unfold State.voteIn
  repeat' (first | with_reducible assumption | with_reducible apply State.hear_kept | with_reducible apply State.queueControl_kept | ((try lift_lets); intro z; try (refine (have hz : Kept s₀ z := ?_; ?_))) | split | dsimp -zeta only | refine Kept.pair (by with_reducible assumption) ?_ | subst z)

theorem State.takeVote_kept {r : State} {a : State × List Vote} (h : Kept r a.1) (p : Nat) (f : LinkFrame) :
    Kept r (State.takeVote p a f).1 := by
  unfold State.takeVote
  repeat' (first | exact h | with_reducible apply State.flood_kept | split)

theorem State.takeCtl_kept {r : State} {a : State × List Vote} (h : Kept r a.1) (p : Nat) : Kept r (State.takeCtl a p).1 := by
  unfold State.takeCtl
  generalize (a.1.port p).ctl = fs
  suffices ∀ b : State × List Vote, Kept r b.1 → Kept r (fs.foldl (State.takeVote p) b).1 from
    this (a.1.modPort p fun x => { x with ctl := [] }, a.2) (by dsimp only; exact State.modPort_kept h _ _)
  intro b hb
  induction fs generalizing b with
  | nil => exact hb
  | cons f fs ih => exact ih _ (State.takeVote_kept hb p f)

theorem State.takeVotes_kept {r s : State} (h : Kept r s) (own : Vote) (votes : List (Fin 6 × Vote)) :
    Kept r (State.takeVotes s own votes).1 := by
  unfold State.takeVotes
  suffices ∀ (ps : List Nat) (a : State × List Vote), Kept r a.1 → Kept r (ps.foldl State.takeCtl a).1 from
    this _ (_, [own]) (Kept.foldl (fun _ _ hz => State.voteIn_kept hz _) _ h)
  intro ps
  induction ps with
  | nil => exact fun _ ha => ha
  | cons p ps ih => exact fun a ha => ih _ (State.takeCtl_kept ha p)

theorem State.partnersLost_kept {s₀ s : State} (h₀ : Kept s₀ s) (ranks : List Presence) (links : List Nat) : Kept s₀ (State.partnersLost s ranks links) := by
  unfold State.partnersLost
  repeat' (first | with_reducible assumption | with_reducible apply roster_kept | with_reducible apply State.raise_kept | with_reducible refine Kept.foldl (fun _ _ _ => ?_) _ ?_ | ((try lift_lets); intro z; try (refine (have hz : Kept s₀ z := ?_; ?_))) | split | subst z)

theorem State.ledgerCause_kept {s₀ s : State} (h₀ : Kept s₀ s) (fails : List (Nat × Nat)) : Kept s₀ (State.ledgerCause s fails) := by
  unfold State.ledgerCause
  repeat' (first | with_reducible assumption | ((with_reducible refine Kept.update ?_ ?_ (hf := ?_)) <;> first | with_reducible assumption | exact rfl | exact ⟨fun h => h⟩) | with_reducible apply State.modFrm_kept | ((try lift_lets); intro z; try (refine (have hz : Kept s₀ z := ?_; ?_))) | split | subst z)

theorem State.auditLinks_kept {s₀ s : State} (h₀ : Kept s₀ s) (fails : List (Nat × Nat)) : Kept s₀ (State.auditLinks s fails) := by
  unfold State.auditLinks
  repeat' (first | with_reducible assumption | ((with_reducible refine Kept.update ?_ ?_ (hf := ?_)) <;> first | with_reducible assumption | exact rfl | exact ⟨fun h => h⟩) | with_reducible apply State.ledgerViolation_kept | ((try lift_lets); intro z; try (refine (have hz : Kept s₀ z := ?_; ?_))) | split | subst z)

theorem State.journalLost_kept {s₀ s : State} (h₀ : Kept s₀ s) (vs : List Vote) : Kept s₀ (State.journalLost s vs) := by
  unfold State.journalLost
  repeat' (first | with_reducible assumption | with_reducible apply State.devEntry_kept | with_reducible refine Kept.foldl (fun _ _ _ => ?_) _ ?_ | split | dsimp -zeta only)

theorem State.agreeRewinds_kept {s₀ s : State} (h₀ : Kept s₀ s) (vs : List Vote) : Kept s₀ (State.agreeRewinds s vs) := by
  unfold State.agreeRewinds
  repeat' (first | with_reducible assumption | ((with_reducible refine Kept.update ?_ ?_ (hf := ?_)) <;> first | with_reducible assumption | exact rfl | exact ⟨fun h => h⟩) | with_reducible apply State.modPlan_kept | with_reducible refine Kept.foldl (fun _ _ _ => ?_) _ ?_ | ((try lift_lets); intro z; try (refine (have hz : Kept s₀ z := ?_; ?_))) | split | dsimp -zeta only | subst z)

theorem State.markUnresolved_kept {s₀ s : State} (h₀ : Kept s₀ s) (vs : List Vote) : Kept s₀ (State.markUnresolved s vs) := by
  unfold State.markUnresolved
  repeat' (first | with_reducible assumption | ((with_reducible refine Kept.update ?_ ?_ (hf := ?_)) <;> first | with_reducible assumption | exact rfl | exact ⟨fun h => h⟩) | ((try lift_lets); intro z; try (refine (have hz : Kept s₀ z := ?_; ?_))) | subst z)

theorem State.sealVotes_kept {s₀ s : State} (h₀ : Kept s₀ s) (vs : List Vote) : Kept s₀ (State.sealVotes s vs) := by
  unfold State.sealVotes
  repeat' (first | with_reducible assumption | ((with_reducible refine Kept.update ?_ ?_ (hf := ?_)) <;> first | with_reducible assumption | exact rfl | exact ⟨fun h => h⟩) | with_reducible apply State.sealedAll_kept | with_reducible apply State.modPlan_kept | with_reducible refine Kept.foldl (fun _ _ _ => ?_) _ ?_ | ((try lift_lets); intro z; try (refine (have hz : Kept s₀ z := ?_; ?_))) | split | subst z)

theorem State.exhausted_kept {s₀ s : State} (h₀ : Kept s₀ s) (reps : List RootReport) : Kept s₀ (State.exhausted s reps) := by
  unfold State.exhausted
  repeat' (first | with_reducible assumption | ((with_reducible refine Kept.update ?_ ?_ (hf := ?_)) <;> first | with_reducible assumption | exact rfl | exact ⟨fun h => h⟩) | with_reducible apply State.modFrm_kept | ((try lift_lets); intro z; try (refine (have hz : Kept s₀ z := ?_; ?_))) | subst z)

theorem State.agree_kept {s₀ s : State} (h₀ : Kept s₀ s) (vs : List Vote) : Kept s₀ (State.agree s vs) := by
  unfold State.agree
  repeat' (first | with_reducible assumption | ((with_reducible refine Kept.update ?_ ?_ (hf := ?_)) <;> first | with_reducible assumption | exact rfl | exact ⟨fun h => h⟩) | ((try lift_lets); intro z; try (refine (have hz : Kept s₀ z := ?_; ?_))) | split | dsimp -zeta only | subst z)

theorem votePhase_kept {s₀ s : State} (h₀ : Kept s₀ s) (votes : List (Fin 6 × Vote)) : Kept s₀ (votePhase votes s) := by
  unfold votePhase
  repeat' (first | with_reducible assumption | ((with_reducible refine Kept.update ?_ ?_ (hf := ?_)) <;> first | with_reducible assumption | exact rfl | exact ⟨fun h => h⟩) | with_reducible apply State.sealPart_kept | with_reducible apply State.setPhase_kept | with_reducible apply State.flood_kept | with_reducible apply State.takeVotes_kept | with_reducible apply State.split_kept | with_reducible apply State.partnersLost_kept | with_reducible apply State.markUnresolved_kept | with_reducible apply State.journalLost_kept | with_reducible apply State.ledgerCause_kept | with_reducible apply State.agree_kept | with_reducible apply State.voteReports_kept | with_reducible apply State.exhausted_kept | with_reducible apply State.auditLinks_kept | with_reducible apply State.agreeRewinds_kept | with_reducible apply State.sealVotes_kept | with_reducible apply State.modFrm_kept | with_reducible refine Kept.foldl (fun _ _ _ => ?_) _ ?_ | ((try lift_lets); intro z; try (refine (have hz : Kept s₀ z := ?_; ?_))) | split | dsimp -zeta only | refine Kept.pair (by with_reducible assumption) ?_ | subst z)

theorem execVotePhase_next (votes : List (Fin 6 × Vote)) (s : State) : ∃ s', execVotePhase votes s = .next s' ∧ Kept s s' := by
  have h₀ := Kept.refl s
  refine ⟨_, rfl, ?_⟩
  repeat' (first | with_reducible assumption | with_reducible apply votePhase_kept | split)

theorem State.recordSteering_kept {s₀ s : State} (h₀ : Kept s₀ s) : Kept s₀ (State.recordSteering s) := by
  unfold State.recordSteering
  repeat' (first | with_reducible assumption | with_reducible apply State.applySteer_kept | with_reducible refine Kept.foldl (fun _ _ _ => ?_) _ ?_ | split)

theorem State.recordStep_kept {s₀ s : State} (h₀ : Kept s₀ s) (p : Nat) : Kept s₀ (State.recordStep s p) := by
  unfold State.recordStep
  repeat' (first | with_reducible assumption | ((with_reducible refine Kept.update ?_ ?_ (hf := ?_)) <;> first | with_reducible assumption | exact rfl | exact ⟨fun h => h⟩) | with_reducible apply State.watchSnapshot_kept | with_reducible apply State.rankWatch_kept | with_reducible apply State.applySteerOf_kept | with_reducible apply State.modPlan_kept | ((try lift_lets); intro z; try (refine (have hz : Kept s₀ z := ?_; ?_))) | split | subst z)

theorem State.summarise_kept {r s : State} (h : Kept r s) : Kept r (State.summarise s) := by
  refine h.update rfl ⟨fun c => ?_⟩
  dsimp only
  have g : ∀ (l : List (Nat × Nat)) (f : FaultUnit), f.canonical = true → (l.foldl (fun f e =>
      f.push { s.mkRec { code := e.1 % 65536 } true with d0 := BitVec.ofNat 64 e.2, d1 := BitVec.ofNat 64 (e.1 / 65536), d2 := 0, d3 := 0 }) f).canonical
        = true := by
    intro l
    induction l with
    | nil => exact fun _ hf => hf
    | cons e l ih => exact fun f hf => ih _ (by exact hf)
  have k := FaultUnit.canonical_iff.1 (g s.flt.unsummed s.flt c)
  exact FaultUnit.canonical_iff.2 ⟨k.1, rfl, k.2.2⟩

theorem State.summaries_kept {s₀ s : State} (h₀ : Kept s₀ s) : Kept s₀ (State.summaries s) := by
  unfold State.summaries
  repeat' (first | with_reducible assumption | ((with_reducible refine Kept.update ?_ ?_ (hf := ?_)) <;> first | with_reducible assumption | exact rfl | exact ⟨fun h => h⟩) | with_reducible apply State.summarise_kept | with_reducible apply State.raise_kept | ((try lift_lets); intro z; try (refine (have hz : Kept s₀ z := ?_; ?_))) | split | subst z)

theorem recordPhase_kept {s₀ s : State} (h₀ : Kept s₀ s) : Kept s₀ (recordPhase s) := by
  unfold recordPhase
  repeat' (first | with_reducible assumption | with_reducible apply State.recordStep_kept | with_reducible apply State.setPhase_kept | with_reducible apply State.recordSteering_kept | with_reducible apply State.summaries_kept | with_reducible refine Kept.foldl (fun _ _ _ => ?_) _ ?_ | ((try lift_lets); intro z; try (refine (have hz : Kept s₀ z := ?_; ?_))) | subst z)

theorem execRecordPhase_next (s : State) : ∃ s', execRecordPhase s = .next s' ∧ Kept s s' := by
  have h₀ := Kept.refl s
  refine ⟨_, rfl, ?_⟩
  repeat' (first | with_reducible assumption | with_reducible apply recordPhase_kept | split)

theorem State.guardConstants_kept {s₀ s : State} (h₀ : Kept s₀ s) (p : Nat) : Kept s₀ (State.guardConstants s p) := by
  unfold State.guardConstants
  repeat' (first | with_reducible assumption | ((with_reducible refine Kept.update ?_ ?_ (hf := ?_)) <;> first | with_reducible assumption | exact rfl | exact ⟨fun h => h⟩) | with_reducible apply State.stepConstants_kept | ((try lift_lets); intro z; try (refine (have hz : Kept s₀ z := ?_; ?_))) | split | subst z)

theorem State.activatePacks_kept {s₀ s : State} (h₀ : Kept s₀ s) : Kept s₀ (State.activatePacks s) := by
  unfold State.activatePacks
  repeat' (first | with_reducible assumption | ((with_reducible refine Kept.update ?_ ?_ (hf := ?_)) <;> first | with_reducible assumption | exact rfl | exact ⟨fun h => h⟩) | with_reducible apply State.flagSlices_kept | with_reducible apply State.loadPatrol_kept | ((try lift_lets); intro z; try (refine (have hz : Kept s₀ z := ?_; ?_))) | split | subst z)

theorem guardPhase_kept {s₀ s : State} (h₀ : Kept s₀ s) : Kept s₀ (guardPhase s) := by
  unfold guardPhase
  repeat' (first | with_reducible assumption | with_reducible apply State.setPhase_kept | with_reducible apply State.guardConstants_kept | with_reducible apply State.activatePacks_kept | with_reducible refine Kept.foldl (fun _ _ _ => ?_) _ ?_ | ((try lift_lets); intro z; try (refine (have hz : Kept s₀ z := ?_; ?_))) | subst z)

theorem execGuardPhase_next (s : State) : ∃ s', execGuardPhase s = .next s' ∧ Kept s s' := by
  have h₀ := Kept.refl s
  refine ⟨_, rfl, ?_⟩
  repeat' (first | with_reducible assumption | with_reducible apply guardPhase_kept | split)

end Sys2Proof.Machine
end

