-- ==== Sys2Proof/Laws/BootKept.lean ====
section
/-! SUPPORT. Each operation of Machine/Boot.lean leaves what `Kept` says as it is. -/

namespace Sys2Proof.Machine

theorem State.resetVolatile_kept {r s : State} (h : Kept r s) : Kept r (State.resetVolatile s) := by
  unfold State.resetVolatile State.reset
  refine Kept.maps h ?_ fun c => ⟨⟨?_, ?_, ?_, ?_, ?_, Sparse.wf_foldl _ _ (fun _ _ hm => Sparse.wf_set _ _ hm) ?_, ?_, ?_⟩, ?_, ?_, ?_, ?_⟩ <;> try rfl
  suffices ∀ (is : List Nat) (m : Sparse Site), m.all (fun e => e.2.canonical) = true →
      (is.foldl (fun m i => Sparse.set Site.reset m i ((s.site i).kept false)) m).all (fun e => e.2.canonical) = true from this _ [] rfl
  intro is
  induction is with
  | nil => exact fun _ hm => hm
  | cons i is ih => exact fun m hm => ih _ (Sparse.all_set (P := Site.canonical) hm i rfl)

theorem execResetAssertion_next (s : State) : ∃ s', execResetAssertion s = .next s' ∧ Kept s s' := by
  have h₀ := Kept.refl s
  refine ⟨_, rfl, ?_⟩
  repeat' (first | with_reducible assumption | with_reducible apply State.resetVolatile_kept)

theorem State.selectPlls_kept {s₀ s : State} (h₀ : Kept s₀ s) : Kept s₀ (State.selectPlls s) := by
  unfold State.selectPlls
  repeat' (first | with_reducible assumption | exact ⟨fun a _ => State.canonical_tile (Kept.canon ‹_› a) _⟩ | exact ⟨fun _ c => State.canonical_tile c _⟩ | refine TileStep.mk fun _ hy => ?_ | refine CanonTile.mk fun ha hy => ?_ | with_reducible exact hy | with_reducible apply Tile.takePll_canonical | with_reducible apply Tile.tok_set | with_reducible apply Tile.tok_keep | with_reducible apply Tile.cw_set | exact hy | exact State.canonical_tile hy _ | exact State.canonical_tile (Kept.canon ‹_› ha) _ | with_reducible apply State.modTile_kept | with_reducible refine Kept.foldl (fun _ _ _ => ?_) _ ?_ | split)

theorem State.readOtp_kept {s₀ s : State} (h₀ : Kept s₀ s) : Kept s₀ (State.readOtp s) := by
  unfold State.readOtp
  repeat' (first | with_reducible assumption | ((with_reducible refine Kept.update ?_ ?_ (hf := ?_)) <;> first | with_reducible assumption | exact rfl | exact ⟨fun h => h⟩) | ((try lift_lets); intro z; try (refine (have hz : Kept s₀ z := ?_; ?_))) | subst z)

theorem State.slotFails_kept {s₀ s : State} (h₀ : Kept s₀ s) (k : Nat) : Kept s₀ (State.slotFails s k) := by
  unfold State.slotFails
  repeat' (first | with_reducible assumption | ((with_reducible refine Kept.update ?_ ?_ (hf := ?_)) <;> first | with_reducible assumption | exact rfl | exact ⟨fun h => h⟩) | with_reducible apply State.fault_kept | with_reducible apply State.saveDir_kept | ((try lift_lets); intro z; try (refine (have hz : Kept s₀ z := ?_; ?_))) | subst z)

theorem State.trySlot_kept {s₀ s : State} (h₀ : Kept s₀ s) (d : DirCopy) (k : Nat) : Kept s₀ (State.trySlot s d k).1 := by
  unfold State.trySlot
  repeat' (first | with_reducible assumption | ((with_reducible refine Kept.update ?_ ?_ (hf := ?_)) <;> first | with_reducible assumption | exact rfl | exact ⟨fun h => h⟩) | with_reducible apply State.slotFails_kept | with_reducible apply State.fault_kept | ((try lift_lets); intro z; try (refine (have hz : Kept s₀ z := ?_; ?_))) | split | dsimp -zeta only | subst z)

theorem State.imagePack_kept {s₀ s : State} (h₀ : Kept s₀ s) (bs : List Byte) : Kept s₀ (State.imagePack s bs) := by
  unfold State.imagePack
  repeat' (first | with_reducible assumption | ((with_reducible refine Kept.update ?_ ?_ (hf := ?_)) <;> first | with_reducible assumption | exact rfl | exact ⟨fun h => h⟩) | with_reducible apply State.takePack_kept | with_reducible apply State.fault_kept | ((try lift_lets); intro z; try (refine (have hz : Kept s₀ z := ?_; ?_))) | split | subst z)

theorem State.bootPacks_kept {s₀ s : State} (h₀ : Kept s₀ s) (i : Image) : Kept s₀ (State.bootPacks s i) := by
  unfold State.bootPacks
  repeat' (first | with_reducible assumption | ((with_reducible refine Kept.update ?_ ?_ (hf := ?_)) <;> first | with_reducible assumption | exact rfl | exact ⟨fun h => h⟩) | with_reducible apply State.imagePack_kept | with_reducible apply State.flagSlices_kept | with_reducible refine Kept.foldl (fun _ _ _ => ?_) _ ?_ | ((try lift_lets); intro z; try (refine (have hz : Kept s₀ z := ?_; ?_))) | ((with_reducible refine Kept.update ?_ ?_ (hf := ?_)) <;> first | exact rfl | exact ⟨fun h => h⟩ | with_reducible apply State.imagePack_kept | with_reducible apply State.flagSlices_kept | with_reducible refine Kept.foldl (fun _ _ _ => ?_) _ ?_) | subst z)

theorem State.joinDomain_kept {s₀ s : State} (h₀ : Kept s₀ s) : Kept s₀ (State.joinDomain s) := by
  unfold State.joinDomain
  repeat' (first | with_reducible assumption | ((with_reducible refine Kept.update ?_ ?_ (hf := ?_)) <;> first | with_reducible assumption | exact rfl | exact ⟨fun h => h⟩) | ((try lift_lets); intro z; try (refine (have hz : Kept s₀ z := ?_; ?_))) | subst z)

theorem State.trainSites_kept {s₀ s : State} (h₀ : Kept s₀ s) : Kept s₀ (State.trainSites s) := by
  unfold State.trainSites
  repeat' (first | with_reducible assumption | ((with_reducible refine Kept.update ?_ ?_ (hf := ?_)) <;> first | with_reducible assumption | exact rfl | exact ⟨fun h => h⟩) | exact ⟨fun _ hy => hy⟩ | exact ⟨fun a _ => State.canonical_site (Kept.canon ‹_› a) _⟩ | exact ⟨fun _ c => State.canonical_site c _⟩ | refine SiteStep.mk fun _ hy => ?_ | refine CanonSite.mk fun ha hy => ?_ | with_reducible exact hy | exact hy | exact State.canonical_site hy _ | exact State.canonical_site (Kept.canon ‹_› ha) _ | with_reducible apply State.modSite_kept | with_reducible refine Kept.foldl (fun _ _ _ => ?_) _ ?_ | ((try lift_lets); intro z; try (refine (have hz : Kept s₀ z := ?_; ?_))) | split | subst z)

theorem State.revoke_kept {r s : State} (h : Kept r s) (x : BitVec 4) :
    Kept r { s with otp := { s.otp with revoked := s.otp.revoked ||| x } } :=
  ⟨h.queue, h.time, h.keys, h.serial, h.macs, h.fuses, fun k hk => by simp only [BitVec.getLsbD_or, h.revoked k hk, Bool.true_or],
   h.sent, h.fresh, h.canon⟩

theorem State.loadImage_kept {r s : State} (h : Kept r s) (k : Nat) (i : Image) : Kept r (State.loadImage s k i) := by
  unfold State.loadImage
  refine State.trainSites_kept (State.joinDomain_kept (State.bootPacks_kept ?_ i))
  exact Kept.update (State.revoke_kept h _) rfl

theorem State.enterRecovery_kept {s₀ s : State} (h₀ : Kept s₀ s) : Kept s₀ (State.enterRecovery s) := by
  unfold State.enterRecovery
  repeat' (first | with_reducible assumption | ((with_reducible refine Kept.update ?_ ?_ (hf := ?_)) <;> first | with_reducible assumption | exact rfl | exact ⟨fun h => h⟩) | with_reducible apply State.fault_kept | with_reducible apply idle_kept | ((try lift_lets); intro z; try (refine (have hz : Kept s₀ z := ?_; ?_))) | subst z)

theorem State.bootFrom_kept {s₀ s : State} (h₀ : Kept s₀ s) (named : Option Nat) : Kept s₀ (State.bootFrom s named) := by
  unfold State.bootFrom
  repeat' (first | with_reducible assumption | ((with_reducible refine Kept.update ?_ ?_ (hf := ?_)) <;> first | with_reducible assumption | exact rfl | exact ⟨fun h => h⟩) | with_reducible apply State.readDir_kept | with_reducible apply State.trySlot_kept | with_reducible apply State.loadImage_kept | with_reducible apply State.enterRecovery_kept | ((try lift_lets); intro z; try (refine (have hz : Kept s₀ z := ?_; ?_))) | split | dsimp -zeta only | refine Kept.pair (by with_reducible assumption) ?_ | subst z)

theorem State.leaveReset_kept {s₀ s : State} (h₀ : Kept s₀ s) : Kept s₀ (State.leaveReset s) := by
  unfold State.leaveReset
  repeat' (first | with_reducible assumption | ((with_reducible refine Kept.update ?_ ?_ (hf := ?_)) <;> first | with_reducible assumption | exact rfl | exact ⟨fun h => h⟩) | with_reducible apply State.readOtp_kept | ((try lift_lets); intro z; try (refine (have hz : Kept s₀ z := ?_; ?_))) | subst z)

theorem State.bootUp_kept {s₀ s : State} (h₀ : Kept s₀ s) (romOk : Bool) (emmcOk : Bool) (named : Option Nat) : Kept s₀ (State.bootUp s romOk emmcOk named) := by
  unfold State.bootUp
  repeat' (first | with_reducible assumption | ((with_reducible refine Kept.update ?_ ?_ (hf := ?_)) <;> first | with_reducible assumption | exact rfl | exact ⟨fun h => h⟩) | with_reducible apply State.leaveReset_kept | with_reducible apply State.selectPlls_kept | with_reducible apply State.readDir_kept | with_reducible apply State.enterRecovery_kept | with_reducible apply State.bootFrom_kept | ((try lift_lets); intro z; try (refine (have hz : Kept s₀ z := ?_; ?_))) | split | dsimp -zeta only | refine Kept.pair (by with_reducible assumption) ?_ | subst z)

theorem State.clearSites_kept {r s : State} (h : Kept r s) : Kept r (State.clearSites s) :=
  h.maps rfl fun c => by
    simp only [State.canonical_iff] at c
    exact ⟨⟨c.1.1, c.1.2.1, c.1.2.2.1, c.1.2.2.2.1, c.1.2.2.2.2.1, rfl, c.1.2.2.2.2.2.2⟩, c.2.1, c.2.2.1, rfl, c.2.2.2.2⟩

theorem resetRelease_kept {s₀ s : State} (h₀ : Kept s₀ s) (r : ResetIn) : Kept s₀ (resetRelease r s) := by
  unfold resetRelease
  repeat' (first | with_reducible assumption | ((with_reducible refine Kept.update ?_ ?_ (hf := ?_)) <;> first | with_reducible assumption | exact rfl | exact ⟨fun h => h⟩) | with_reducible apply State.thermTrip_kept | with_reducible apply State.resetVolatile_kept | with_reducible apply State.clearSites_kept | with_reducible apply State.bootUp_kept | ((try lift_lets); intro z; try (refine (have hz : Kept s₀ z := ?_; ?_))) | split | subst z)

theorem execResetRelease_next (r : ResetIn) (s : State) : ∃ s', execResetRelease r s = .next s' ∧ Kept s s' := by
  have h₀ := Kept.refl s
  refine ⟨_, rfl, ?_⟩
  repeat' (first | with_reducible assumption | with_reducible apply resetRelease_kept | split)

theorem execEmmcFail_next (s : State) : ∃ s', execEmmcFail s = .next s' ∧ Kept s s' := by
  have h₀ := Kept.refl s
  refine ⟨_, rfl, ?_⟩
  repeat' (first | with_reducible assumption | with_reducible apply State.fault_kept | split)

theorem State.internalReset_kept {s₀ s : State} (h₀ : Kept s₀ s) (restarts : Nat) (named : Option Nat) : Kept s₀ (State.internalReset s restarts named) := by
  unfold State.internalReset
  repeat' (first | with_reducible assumption | ((with_reducible refine Kept.update ?_ ?_ (hf := ?_)) <;> first | with_reducible assumption | exact rfl | exact ⟨fun h => h⟩) | with_reducible apply State.resetVolatile_kept | with_reducible apply State.draw_kept | with_reducible apply State.bootUp_kept | ((try lift_lets); intro z; try (refine (have hz : Kept s₀ z := ?_; ?_))) | dsimp -zeta only | refine Kept.pair (by with_reducible assumption) ?_ | ((with_reducible refine Kept.update ?_ ?_ (hf := ?_)) <;> first | exact rfl | exact ⟨fun h => h⟩ | with_reducible apply State.resetVolatile_kept | with_reducible apply State.draw_kept | with_reducible apply State.bootUp_kept) | subst z)

theorem State.writeOut_kept {s₀ s : State} (h₀ : Kept s₀ s) : Kept s₀ (State.writeOut s) := by
  unfold State.writeOut
  repeat' (first | with_reducible assumption | ((with_reducible refine Kept.update ?_ ?_ (hf := ?_)) <;> first | with_reducible assumption | exact rfl | exact ⟨fun h => h⟩) | with_reducible apply State.appendDelta_kept | with_reducible refine Kept.foldl (fun _ _ _ => ?_) _ ?_ | ((try lift_lets); intro z; try (refine (have hz : Kept s₀ z := ?_; ?_))) | subst z)

theorem State.restart_kept {s₀ s : State} (h₀ : Kept s₀ s) : Kept s₀ (State.restart s) := by
  unfold State.restart
  repeat' (first | with_reducible assumption | with_reducible apply State.stopAll_kept | with_reducible apply State.writeOut_kept | with_reducible apply State.internalReset_kept | ((with_reducible refine Kept.update ?_ ?_ (hf := ?_)) <;> first | exact rfl | exact ⟨fun h => h⟩ | with_reducible apply State.stopAll_kept | with_reducible apply State.writeOut_kept | with_reducible apply State.internalReset_kept))

theorem State.stepSix_kept {s₀ s : State} (h₀ : Kept s₀ s) : Kept s₀ (State.stepSix s) := by
  unfold State.stepSix
  repeat' (first | with_reducible assumption | ((with_reducible refine Kept.update ?_ ?_ (hf := ?_)) <;> first | with_reducible assumption | exact rfl | exact ⟨fun h => h⟩) | ((try lift_lets); intro z; try (refine (have hz : Kept s₀ z := ?_; ?_))) | split | subst z)

theorem State.mapDelta_kept {s₀ s : State} (h₀ : Kept s₀ s) (i : Nat) (e : Nat × Nat) : Kept s₀ (State.mapDelta s i e) := by
  unfold State.mapDelta
  repeat' (first | with_reducible assumption | with_reducible apply State.draw_kept | with_reducible apply State.queueDelta_kept | ((try lift_lets); intro z; try (refine (have hz : Kept s₀ z := ?_; ?_))) | dsimp -zeta only | refine Kept.pair (by with_reducible assumption) ?_ | subst z)

theorem State.mergeMap_kept {s₀ s : State} (h₀ : Kept s₀ s) (i : Nat) : Kept s₀ (State.mergeMap s i) := by
  unfold State.mergeMap
  repeat' (first | with_reducible assumption | ((with_reducible refine Kept.update ?_ ?_ (hf := ?_)) <;> first | with_reducible assumption | exact rfl | exact ⟨fun h => h⟩) | exact ⟨fun _ hy => hy⟩ | exact ⟨fun a _ => State.canonical_site (Kept.canon ‹_› a) _⟩ | exact ⟨fun _ c => State.canonical_site c _⟩ | refine SiteStep.mk fun _ hy => ?_ | refine CanonSite.mk fun ha hy => ?_ | with_reducible exact hy | exact hy | exact State.canonical_site hy _ | exact State.canonical_site (Kept.canon ‹_› ha) _ | with_reducible apply State.modSite_kept | with_reducible apply State.mapDelta_kept | with_reducible refine Kept.foldl (fun _ _ _ => ?_) _ ?_ | ((try lift_lets); intro z; try (refine (have hz : Kept s₀ z := ?_; ?_))) | dsimp -zeta only | subst z)

theorem siteTrained_kept {s₀ s : State} (h₀ : Kept s₀ s) (i : Nat) (ok : Bool) : Kept s₀ (siteTrained i ok s) := by
  unfold siteTrained
  dsimp only
  repeat' (first | with_reducible assumption | ((with_reducible refine Kept.update ?_ ?_ (hf := ?_)) <;> first | with_reducible assumption | exact rfl | exact ⟨fun h => h⟩) | exact ⟨fun _ hy => hy⟩ | exact ⟨fun a _ => State.canonical_site (Kept.canon ‹_› a) _⟩ | exact ⟨fun _ c => State.canonical_site c _⟩ | refine SiteStep.mk fun _ hy => ?_ | refine CanonSite.mk fun ha hy => ?_ | with_reducible exact hy | exact Site.empty_canonical rfl | exact hy | exact State.canonical_site hy _ | exact State.canonical_site (Kept.canon ‹_› ha) _ | with_reducible apply State.modSite_kept | with_reducible apply State.mergeMap_kept | with_reducible apply State.stepSix_kept | with_reducible apply State.siteFault_kept | ((try lift_lets); intro z; try (refine (have hz : Kept s₀ z := ?_; ?_))) | split | ((with_reducible refine Kept.update ?_ ?_ (hf := ?_)) <;> first | exact rfl | exact ⟨fun h => h⟩ | with_reducible apply State.modSite_kept | with_reducible apply State.mergeMap_kept | with_reducible apply State.stepSix_kept | with_reducible apply State.siteFault_kept) | subst z)

theorem execSiteTrainingComplete_next (i : Fin 24) (ok : Bool) (s : State) : ∃ s', execSiteTrainingComplete i ok s = .next s' ∧ Kept s s' := by
  have h₀ := Kept.refl s
  refine ⟨_, rfl, ?_⟩
  repeat' (first | with_reducible assumption | with_reducible apply siteTrained_kept | split)

theorem State.takeDelta_kept {s₀ s : State} (h₀ : Kept s₀ s) (d : Delta) : Kept s₀ (State.takeDelta s d) := by
  unfold State.takeDelta
  repeat' (first | with_reducible assumption | ((with_reducible refine Kept.update ?_ ?_ (hf := ?_)) <;> first | with_reducible assumption | exact rfl | exact ⟨fun h => h⟩) | exact ⟨fun a _ => State.canonical_tile (Kept.canon ‹_› a) _⟩ | exact ⟨fun _ c => State.canonical_tile c _⟩ | refine TileStep.mk fun _ hy => ?_ | refine CanonTile.mk fun ha hy => ?_ | with_reducible exact hy | with_reducible apply Tile.take_canonical | with_reducible apply Tile.tok_set | with_reducible apply Tile.tok_keep | with_reducible apply Tile.cw_set | exact hy | exact State.canonical_tile hy _ | exact State.canonical_tile (Kept.canon ‹_› ha) _ | with_reducible apply State.modPort_kept | with_reducible apply State.modTile_kept | ((try lift_lets); intro z; try (refine (have hz : Kept s₀ z := ?_; ?_))) | split | subst z)

theorem State.selfDelta_kept {s₀ s : State} (h₀ : Kept s₀ s) (kind : Nat) (t : Nat) (i : Nat) : Kept s₀ (State.selfDelta s kind t i) := by
  unfold State.selfDelta
  repeat' (first | with_reducible assumption | ((with_reducible refine Kept.update ?_ ?_ (hf := ?_)) <;> first | with_reducible assumption | exact rfl | exact ⟨fun h => h⟩) | with_reducible apply State.queueDelta_kept | ((try lift_lets); intro z; try (refine (have hz : Kept s₀ z := ?_; ?_))) | subst z)

theorem State.selfCore_kept {s₀ s : State} (h₀ : Kept s₀ s) (e : Nat × Nat × Nat) : Kept s₀ (State.selfCore s e) := by
  unfold State.selfCore
  repeat' (first | with_reducible assumption | with_reducible apply State.fault_kept | with_reducible apply State.selfDelta_kept | ((try lift_lets); intro z; try (refine (have hz : Kept s₀ z := ?_; ?_))) | split | dsimp -zeta only | subst z)

theorem State.selfTile_kept {s₀ s : State} (h₀ : Kept s₀ s) (t : Nat) : Kept s₀ (State.selfTile s t) := by
  unfold State.selfTile
  repeat' (first | with_reducible assumption | with_reducible apply State.fault_kept | with_reducible apply State.selfDelta_kept | ((try lift_lets); intro z; try (refine (have hz : Kept s₀ z := ?_; ?_))) | split | subst z)

theorem selfTest_kept {r s : State} (h : Kept r s) (t : SelfTestIn) : Kept r (selfTest t s) := by
  have a : Kept r { s with store := [], storePoison := [], cores := [], itg := { s.itg with scratch := [] } } := h.maps rfl fun c => by
    simp only [State.canonical_iff] at c
    exact ⟨⟨rfl, rfl, c.1.2.2.1, c.1.2.2.2.1, rfl, c.1.2.2.2.2.2⟩, c.2.1, rfl, c.2.2.2⟩
  unfold selfTest
  refine State.stepSix_kept (Kept.update (Kept.foldl (fun _ _ z => State.selfTile_kept z _) _
    (Kept.foldl (fun _ _ z => State.selfCore_kept z _) _ (State.loadPatrol_kept a))) rfl)

theorem execSelfTestComplete_next (r : SelfTestIn) (s : State) : ∃ s', execSelfTestComplete r s = .next s' ∧ Kept s s' := by
  have h₀ := Kept.refl s
  refine ⟨_, rfl, ?_⟩
  repeat' (first | with_reducible assumption | with_reducible apply selfTest_kept | split)

theorem State.trainPorts_kept {s₀ s : State} (h₀ : Kept s₀ s) : Kept s₀ (State.trainPorts s) := by
  unfold State.trainPorts
  repeat' (first | with_reducible assumption | ((with_reducible refine Kept.update ?_ ?_ (hf := ?_)) <;> first | with_reducible assumption | exact rfl | exact ⟨fun h => h⟩) | with_reducible apply State.modPort_kept | with_reducible refine Kept.foldl (fun _ _ _ => ?_) _ ?_ | ((try lift_lets); intro z; try (refine (have hz : Kept s₀ z := ?_; ?_))) | split | subst z)

theorem State.selfPending_kept {s₀ s : State} (h₀ : Kept s₀ s) (d : Delta) : Kept s₀ (State.selfPending s d) := by
  unfold State.selfPending
  repeat' (first | with_reducible assumption | ((with_reducible refine Kept.update ?_ ?_ (hf := ?_)) <;> first | with_reducible assumption | exact rfl | exact ⟨fun h => h⟩) | exact ⟨fun _ hy => hy⟩ | exact ⟨fun a _ => State.canonical_tile (Kept.canon ‹_› a) _⟩ | exact ⟨fun _ c => State.canonical_tile c _⟩ | refine TileStep.mk fun _ hy => ?_ | refine CanonTile.mk fun ha hy => ?_ | with_reducible exact hy | with_reducible apply Tile.tok_set | with_reducible apply Tile.tok_keep | with_reducible apply Tile.cw_set | exact hy | exact State.canonical_tile hy _ | exact State.canonical_tile (Kept.canon ‹_› ha) _ | with_reducible apply State.modTile_kept | ((try lift_lets); intro z; try (refine (have hz : Kept s₀ z := ?_; ?_))) | split | subst z)

theorem spareMapApply_kept {s₀ s : State} (h₀ : Kept s₀ s) : Kept s₀ (spareMapApply s) := by
  unfold spareMapApply
  dsimp only
  repeat' (first | with_reducible assumption | ((with_reducible refine Kept.update ?_ ?_ (hf := ?_)) <;> first | with_reducible assumption | exact rfl | exact ⟨fun h => h⟩) | with_reducible apply State.takeDelta_kept | with_reducible apply State.selfPending_kept | with_reducible apply State.trainPorts_kept | with_reducible refine Kept.foldl (fun _ _ _ => ?_) _ ?_ | ((try lift_lets); intro z; try (refine (have hz : Kept s₀ z := ?_; ?_))) | ((with_reducible refine Kept.update ?_ ?_ (hf := ?_)) <;> first | exact rfl | exact ⟨fun h => h⟩ | with_reducible apply State.takeDelta_kept | with_reducible apply State.selfPending_kept | with_reducible apply State.trainPorts_kept | with_reducible refine Kept.foldl (fun _ _ _ => ?_) _ ?_) | subst z)

theorem execSpareMapApply_next (s : State) : ∃ s', execSpareMapApply s = .next s' ∧ Kept s s' := by
  have h₀ := Kept.refl s
  refine ⟨_, rfl, ?_⟩
  repeat' (first | with_reducible assumption | with_reducible apply spareMapApply_kept | split)

end Sys2Proof.Machine
end

