-- ==== Sys2Proof/Laws/State.lean ====
section
/-! SUPPORT. What each update of State leaves in each field, and what a unit reads as after an update. -/

namespace Sys2Proof.Machine

variable (s : State)

/-! ### setPlan, modPlan -/

@[simp] theorem State.setPlan_pending (i : Nat) (x : PlanSt) : (s.setPlan i x).pending = s.pending := rfl
@[simp] theorem State.setPlan_clk (i : Nat) (x : PlanSt) : (s.setPlan i x).clk = s.clk := rfl
@[simp] theorem State.setPlan_pwr (i : Nat) (x : PlanSt) : (s.setPlan i x).pwr = s.pwr := rfl
@[simp] theorem State.setPlan_dev (i : Nat) (x : PlanSt) : (s.setPlan i x).dev = s.dev := rfl
@[simp] theorem State.setPlan_flt (i : Nat) (x : PlanSt) : (s.setPlan i x).flt = s.flt := rfl
@[simp] theorem State.setPlan_frm (i : Nat) (x : PlanSt) : (s.setPlan i x).frm = s.frm := rfl
@[simp] theorem State.setPlan_tiles (i : Nat) (x : PlanSt) : (s.setPlan i x).tiles = s.tiles := rfl
@[simp] theorem State.setPlan_store (i : Nat) (x : PlanSt) : (s.setPlan i x).store = s.store := rfl
@[simp] theorem State.setPlan_storePoison (i : Nat) (x : PlanSt) : (s.setPlan i x).storePoison = s.storePoison := rfl
@[simp] theorem State.setPlan_cores (i : Nat) (x : PlanSt) : (s.setPlan i x).cores = s.cores := rfl
@[simp] theorem State.setPlan_sites (i : Nat) (x : PlanSt) : (s.setPlan i x).sites = s.sites := rfl
@[simp] theorem State.setPlan_ports (i : Nat) (x : PlanSt) : (s.setPlan i x).ports = s.ports := rfl
@[simp] theorem State.setPlan_dom (i : Nat) (x : PlanSt) : (s.setPlan i x).dom = s.dom := rfl
@[simp] theorem State.setPlan_lanes (i : Nat) (x : PlanSt) : (s.setPlan i x).lanes = s.lanes := rfl
@[simp] theorem State.setPlan_host (i : Nat) (x : PlanSt) : (s.setPlan i x).host = s.host := rfl
@[simp] theorem State.setPlan_dir (i : Nat) (x : PlanSt) : (s.setPlan i x).dir = s.dir := rfl
@[simp] theorem State.setPlan_jrn (i : Nat) (x : PlanSt) : (s.setPlan i x).jrn = s.jrn := rfl
@[simp] theorem State.setPlan_img (i : Nat) (x : PlanSt) : (s.setPlan i x).img = s.img := rfl
@[simp] theorem State.setPlan_win0 (i : Nat) (x : PlanSt) : (s.setPlan i x).win0 = s.win0 := rfl
@[simp] theorem State.setPlan_win1 (i : Nat) (x : PlanSt) : (s.setPlan i x).win1 = s.win1 := rfl
@[simp] theorem State.setPlan_itg (i : Nat) (x : PlanSt) : (s.setPlan i x).itg = s.itg := rfl
@[simp] theorem State.setPlan_emmc (i : Nat) (x : PlanSt) : (s.setPlan i x).emmc = s.emmc := rfl
@[simp] theorem State.setPlan_otp (i : Nat) (x : PlanSt) : (s.setPlan i x).otp = s.otp := rfl
@[simp] theorem State.setPlan_boot (i : Nat) (x : PlanSt) : (s.setPlan i x).boot = s.boot := rfl
@[simp] theorem State.setPlan_tx (i : Nat) (x : PlanSt) : (s.setPlan i x).tx = s.tx := rfl
@[simp] theorem State.setPlan_draws (i : Nat) (x : PlanSt) : (s.setPlan i x).draws = s.draws := rfl
@[simp] theorem State.setPlan_tile (i : Nat) (x : PlanSt) (j : Nat) : (s.setPlan i x).tile j = s.tile j := rfl
@[simp] theorem State.setPlan_core (i : Nat) (x : PlanSt) (j : Nat) : (s.setPlan i x).core j = s.core j := rfl
@[simp] theorem State.setPlan_site (i : Nat) (x : PlanSt) (j : Nat) : (s.setPlan i x).site j = s.site j := rfl
@[simp] theorem State.setPlan_port (i : Nat) (x : PlanSt) (j : Nat) : (s.setPlan i x).port j = s.port j := rfl
@[simp] theorem State.setPlan_lane (i : Nat) (x : PlanSt) (j : Nat) : (s.setPlan i x).lane j = s.lane j := rfl
@[simp] theorem State.modPlan_pending (i : Nat) (x : PlanSt → PlanSt) : (s.modPlan i x).pending = s.pending := rfl
@[simp] theorem State.modPlan_clk (i : Nat) (x : PlanSt → PlanSt) : (s.modPlan i x).clk = s.clk := rfl
@[simp] theorem State.modPlan_pwr (i : Nat) (x : PlanSt → PlanSt) : (s.modPlan i x).pwr = s.pwr := rfl
@[simp] theorem State.modPlan_dev (i : Nat) (x : PlanSt → PlanSt) : (s.modPlan i x).dev = s.dev := rfl
@[simp] theorem State.modPlan_flt (i : Nat) (x : PlanSt → PlanSt) : (s.modPlan i x).flt = s.flt := rfl
@[simp] theorem State.modPlan_frm (i : Nat) (x : PlanSt → PlanSt) : (s.modPlan i x).frm = s.frm := rfl
@[simp] theorem State.modPlan_tiles (i : Nat) (x : PlanSt → PlanSt) : (s.modPlan i x).tiles = s.tiles := rfl
@[simp] theorem State.modPlan_store (i : Nat) (x : PlanSt → PlanSt) : (s.modPlan i x).store = s.store := rfl
@[simp] theorem State.modPlan_storePoison (i : Nat) (x : PlanSt → PlanSt) : (s.modPlan i x).storePoison = s.storePoison := rfl
@[simp] theorem State.modPlan_cores (i : Nat) (x : PlanSt → PlanSt) : (s.modPlan i x).cores = s.cores := rfl
@[simp] theorem State.modPlan_sites (i : Nat) (x : PlanSt → PlanSt) : (s.modPlan i x).sites = s.sites := rfl
@[simp] theorem State.modPlan_ports (i : Nat) (x : PlanSt → PlanSt) : (s.modPlan i x).ports = s.ports := rfl
@[simp] theorem State.modPlan_dom (i : Nat) (x : PlanSt → PlanSt) : (s.modPlan i x).dom = s.dom := rfl
@[simp] theorem State.modPlan_lanes (i : Nat) (x : PlanSt → PlanSt) : (s.modPlan i x).lanes = s.lanes := rfl
@[simp] theorem State.modPlan_host (i : Nat) (x : PlanSt → PlanSt) : (s.modPlan i x).host = s.host := rfl
@[simp] theorem State.modPlan_dir (i : Nat) (x : PlanSt → PlanSt) : (s.modPlan i x).dir = s.dir := rfl
@[simp] theorem State.modPlan_jrn (i : Nat) (x : PlanSt → PlanSt) : (s.modPlan i x).jrn = s.jrn := rfl
@[simp] theorem State.modPlan_img (i : Nat) (x : PlanSt → PlanSt) : (s.modPlan i x).img = s.img := rfl
@[simp] theorem State.modPlan_win0 (i : Nat) (x : PlanSt → PlanSt) : (s.modPlan i x).win0 = s.win0 := rfl
@[simp] theorem State.modPlan_win1 (i : Nat) (x : PlanSt → PlanSt) : (s.modPlan i x).win1 = s.win1 := rfl
@[simp] theorem State.modPlan_itg (i : Nat) (x : PlanSt → PlanSt) : (s.modPlan i x).itg = s.itg := rfl
@[simp] theorem State.modPlan_emmc (i : Nat) (x : PlanSt → PlanSt) : (s.modPlan i x).emmc = s.emmc := rfl
@[simp] theorem State.modPlan_otp (i : Nat) (x : PlanSt → PlanSt) : (s.modPlan i x).otp = s.otp := rfl
@[simp] theorem State.modPlan_boot (i : Nat) (x : PlanSt → PlanSt) : (s.modPlan i x).boot = s.boot := rfl
@[simp] theorem State.modPlan_tx (i : Nat) (x : PlanSt → PlanSt) : (s.modPlan i x).tx = s.tx := rfl
@[simp] theorem State.modPlan_draws (i : Nat) (x : PlanSt → PlanSt) : (s.modPlan i x).draws = s.draws := rfl
@[simp] theorem State.modPlan_tile (i : Nat) (x : PlanSt → PlanSt) (j : Nat) : (s.modPlan i x).tile j = s.tile j := rfl
@[simp] theorem State.modPlan_core (i : Nat) (x : PlanSt → PlanSt) (j : Nat) : (s.modPlan i x).core j = s.core j := rfl
@[simp] theorem State.modPlan_site (i : Nat) (x : PlanSt → PlanSt) (j : Nat) : (s.modPlan i x).site j = s.site j := rfl
@[simp] theorem State.modPlan_port (i : Nat) (x : PlanSt → PlanSt) (j : Nat) : (s.modPlan i x).port j = s.port j := rfl
@[simp] theorem State.modPlan_lane (i : Nat) (x : PlanSt → PlanSt) (j : Nat) : (s.modPlan i x).lane j = s.lane j := rfl

theorem State.plans_wf (h : s.canonical = true) : Sparse.wf PlanSt.reset s.plans = true := by
  simp only [State.canonical_iff] at h
  simp only [h]
@[simp] theorem State.plan_setPlan (i : Nat) (x : PlanSt) : (s.setPlan i x).plan i = x := Sparse.get_set_self s.plans i x
theorem State.plan_setPlan_ne {i j : Nat} (x : PlanSt) (e : j ≠ i) : (s.setPlan i x).plan j = s.plan j := Sparse.get_set_ne s.plans x e
@[simp] theorem State.plan_modPlan (i : Nat) (x : PlanSt → PlanSt) : (s.modPlan i x).plan i = x (s.plan i) := s.plan_setPlan i _
theorem State.plan_modPlan_ne {i j : Nat} (x : PlanSt → PlanSt) (e : j ≠ i) : (s.modPlan i x).plan j = s.plan j := s.plan_setPlan_ne _ e
theorem State.modPlan_canonical (h : s.canonical = true) (i : Nat) (x : PlanSt → PlanSt) : (s.modPlan i x).canonical = true :=
  (State.modPlan_kept (Kept.refl s) i x).canon h
theorem State.setPlan_canonical (h : s.canonical = true) (i : Nat) (x : PlanSt) : (s.setPlan i x).canonical = true :=
  (State.setPlan_kept (Kept.refl s) i x).canon h

/-! ### setTile, modTile -/

@[simp] theorem State.setTile_pending (i : Nat) (x : Tile) : (s.setTile i x).pending = s.pending := rfl
@[simp] theorem State.setTile_clk (i : Nat) (x : Tile) : (s.setTile i x).clk = s.clk := rfl
@[simp] theorem State.setTile_pwr (i : Nat) (x : Tile) : (s.setTile i x).pwr = s.pwr := rfl
@[simp] theorem State.setTile_dev (i : Nat) (x : Tile) : (s.setTile i x).dev = s.dev := rfl
@[simp] theorem State.setTile_flt (i : Nat) (x : Tile) : (s.setTile i x).flt = s.flt := rfl
@[simp] theorem State.setTile_frm (i : Nat) (x : Tile) : (s.setTile i x).frm = s.frm := rfl
@[simp] theorem State.setTile_plans (i : Nat) (x : Tile) : (s.setTile i x).plans = s.plans := rfl
@[simp] theorem State.setTile_store (i : Nat) (x : Tile) : (s.setTile i x).store = s.store := rfl
@[simp] theorem State.setTile_storePoison (i : Nat) (x : Tile) : (s.setTile i x).storePoison = s.storePoison := rfl
@[simp] theorem State.setTile_cores (i : Nat) (x : Tile) : (s.setTile i x).cores = s.cores := rfl
@[simp] theorem State.setTile_sites (i : Nat) (x : Tile) : (s.setTile i x).sites = s.sites := rfl
@[simp] theorem State.setTile_ports (i : Nat) (x : Tile) : (s.setTile i x).ports = s.ports := rfl
@[simp] theorem State.setTile_dom (i : Nat) (x : Tile) : (s.setTile i x).dom = s.dom := rfl
@[simp] theorem State.setTile_lanes (i : Nat) (x : Tile) : (s.setTile i x).lanes = s.lanes := rfl
@[simp] theorem State.setTile_host (i : Nat) (x : Tile) : (s.setTile i x).host = s.host := rfl
@[simp] theorem State.setTile_dir (i : Nat) (x : Tile) : (s.setTile i x).dir = s.dir := rfl
@[simp] theorem State.setTile_jrn (i : Nat) (x : Tile) : (s.setTile i x).jrn = s.jrn := rfl
@[simp] theorem State.setTile_img (i : Nat) (x : Tile) : (s.setTile i x).img = s.img := rfl
@[simp] theorem State.setTile_win0 (i : Nat) (x : Tile) : (s.setTile i x).win0 = s.win0 := rfl
@[simp] theorem State.setTile_win1 (i : Nat) (x : Tile) : (s.setTile i x).win1 = s.win1 := rfl
@[simp] theorem State.setTile_itg (i : Nat) (x : Tile) : (s.setTile i x).itg = s.itg := rfl
@[simp] theorem State.setTile_emmc (i : Nat) (x : Tile) : (s.setTile i x).emmc = s.emmc := rfl
@[simp] theorem State.setTile_otp (i : Nat) (x : Tile) : (s.setTile i x).otp = s.otp := rfl
@[simp] theorem State.setTile_boot (i : Nat) (x : Tile) : (s.setTile i x).boot = s.boot := rfl
@[simp] theorem State.setTile_tx (i : Nat) (x : Tile) : (s.setTile i x).tx = s.tx := rfl
@[simp] theorem State.setTile_draws (i : Nat) (x : Tile) : (s.setTile i x).draws = s.draws := rfl
@[simp] theorem State.setTile_plan (i : Nat) (x : Tile) (j : Nat) : (s.setTile i x).plan j = s.plan j := rfl
@[simp] theorem State.setTile_core (i : Nat) (x : Tile) (j : Nat) : (s.setTile i x).core j = s.core j := rfl
@[simp] theorem State.setTile_site (i : Nat) (x : Tile) (j : Nat) : (s.setTile i x).site j = s.site j := rfl
@[simp] theorem State.setTile_port (i : Nat) (x : Tile) (j : Nat) : (s.setTile i x).port j = s.port j := rfl
@[simp] theorem State.setTile_lane (i : Nat) (x : Tile) (j : Nat) : (s.setTile i x).lane j = s.lane j := rfl
@[simp] theorem State.modTile_pending (i : Nat) (x : Tile → Tile) : (s.modTile i x).pending = s.pending := rfl
@[simp] theorem State.modTile_clk (i : Nat) (x : Tile → Tile) : (s.modTile i x).clk = s.clk := rfl
@[simp] theorem State.modTile_pwr (i : Nat) (x : Tile → Tile) : (s.modTile i x).pwr = s.pwr := rfl
@[simp] theorem State.modTile_dev (i : Nat) (x : Tile → Tile) : (s.modTile i x).dev = s.dev := rfl
@[simp] theorem State.modTile_flt (i : Nat) (x : Tile → Tile) : (s.modTile i x).flt = s.flt := rfl
@[simp] theorem State.modTile_frm (i : Nat) (x : Tile → Tile) : (s.modTile i x).frm = s.frm := rfl
@[simp] theorem State.modTile_plans (i : Nat) (x : Tile → Tile) : (s.modTile i x).plans = s.plans := rfl
@[simp] theorem State.modTile_store (i : Nat) (x : Tile → Tile) : (s.modTile i x).store = s.store := rfl
@[simp] theorem State.modTile_storePoison (i : Nat) (x : Tile → Tile) : (s.modTile i x).storePoison = s.storePoison := rfl
@[simp] theorem State.modTile_cores (i : Nat) (x : Tile → Tile) : (s.modTile i x).cores = s.cores := rfl
@[simp] theorem State.modTile_sites (i : Nat) (x : Tile → Tile) : (s.modTile i x).sites = s.sites := rfl
@[simp] theorem State.modTile_ports (i : Nat) (x : Tile → Tile) : (s.modTile i x).ports = s.ports := rfl
@[simp] theorem State.modTile_dom (i : Nat) (x : Tile → Tile) : (s.modTile i x).dom = s.dom := rfl
@[simp] theorem State.modTile_lanes (i : Nat) (x : Tile → Tile) : (s.modTile i x).lanes = s.lanes := rfl
@[simp] theorem State.modTile_host (i : Nat) (x : Tile → Tile) : (s.modTile i x).host = s.host := rfl
@[simp] theorem State.modTile_dir (i : Nat) (x : Tile → Tile) : (s.modTile i x).dir = s.dir := rfl
@[simp] theorem State.modTile_jrn (i : Nat) (x : Tile → Tile) : (s.modTile i x).jrn = s.jrn := rfl
@[simp] theorem State.modTile_img (i : Nat) (x : Tile → Tile) : (s.modTile i x).img = s.img := rfl
@[simp] theorem State.modTile_win0 (i : Nat) (x : Tile → Tile) : (s.modTile i x).win0 = s.win0 := rfl
@[simp] theorem State.modTile_win1 (i : Nat) (x : Tile → Tile) : (s.modTile i x).win1 = s.win1 := rfl
@[simp] theorem State.modTile_itg (i : Nat) (x : Tile → Tile) : (s.modTile i x).itg = s.itg := rfl
@[simp] theorem State.modTile_emmc (i : Nat) (x : Tile → Tile) : (s.modTile i x).emmc = s.emmc := rfl
@[simp] theorem State.modTile_otp (i : Nat) (x : Tile → Tile) : (s.modTile i x).otp = s.otp := rfl
@[simp] theorem State.modTile_boot (i : Nat) (x : Tile → Tile) : (s.modTile i x).boot = s.boot := rfl
@[simp] theorem State.modTile_tx (i : Nat) (x : Tile → Tile) : (s.modTile i x).tx = s.tx := rfl
@[simp] theorem State.modTile_draws (i : Nat) (x : Tile → Tile) : (s.modTile i x).draws = s.draws := rfl
@[simp] theorem State.modTile_plan (i : Nat) (x : Tile → Tile) (j : Nat) : (s.modTile i x).plan j = s.plan j := rfl
@[simp] theorem State.modTile_core (i : Nat) (x : Tile → Tile) (j : Nat) : (s.modTile i x).core j = s.core j := rfl
@[simp] theorem State.modTile_site (i : Nat) (x : Tile → Tile) (j : Nat) : (s.modTile i x).site j = s.site j := rfl
@[simp] theorem State.modTile_port (i : Nat) (x : Tile → Tile) (j : Nat) : (s.modTile i x).port j = s.port j := rfl
@[simp] theorem State.modTile_lane (i : Nat) (x : Tile → Tile) (j : Nat) : (s.modTile i x).lane j = s.lane j := rfl

theorem State.tiles_wf (h : s.canonical = true) : Sparse.wf Tile.reset s.tiles = true := by
  simp only [State.canonical_iff] at h
  simp only [h]
@[simp] theorem State.tile_setTile (i : Nat) (x : Tile) : (s.setTile i x).tile i = x := Sparse.get_set_self s.tiles i x
theorem State.tile_setTile_ne {i j : Nat} (x : Tile) (e : j ≠ i) : (s.setTile i x).tile j = s.tile j := Sparse.get_set_ne s.tiles x e
@[simp] theorem State.tile_modTile (i : Nat) (x : Tile → Tile) : (s.modTile i x).tile i = x (s.tile i) := s.tile_setTile i _
theorem State.tile_modTile_ne {i j : Nat} (x : Tile → Tile) (e : j ≠ i) : (s.modTile i x).tile j = s.tile j := s.tile_setTile_ne _ e
theorem State.modTile_canonical (h : s.canonical = true) (i : Nat) (x : Tile → Tile) (hx : TileStep x) : (s.modTile i x).canonical = true :=
  (State.modTile_kept (Kept.refl s) i x hx).canon h
theorem State.setTile_canonical (h : s.canonical = true) (i : Nat) (x : Tile) (hx : x.canonical = true) : (s.setTile i x).canonical = true :=
  (State.setTile_kept (Kept.refl s) i x ⟨fun _ _ => hx⟩).canon h

/-! ### setCore, modCore -/

@[simp] theorem State.setCore_pending (i : Nat) (x : Core) : (s.setCore i x).pending = s.pending := rfl
@[simp] theorem State.setCore_clk (i : Nat) (x : Core) : (s.setCore i x).clk = s.clk := rfl
@[simp] theorem State.setCore_pwr (i : Nat) (x : Core) : (s.setCore i x).pwr = s.pwr := rfl
@[simp] theorem State.setCore_dev (i : Nat) (x : Core) : (s.setCore i x).dev = s.dev := rfl
@[simp] theorem State.setCore_flt (i : Nat) (x : Core) : (s.setCore i x).flt = s.flt := rfl
@[simp] theorem State.setCore_frm (i : Nat) (x : Core) : (s.setCore i x).frm = s.frm := rfl
@[simp] theorem State.setCore_plans (i : Nat) (x : Core) : (s.setCore i x).plans = s.plans := rfl
@[simp] theorem State.setCore_tiles (i : Nat) (x : Core) : (s.setCore i x).tiles = s.tiles := rfl
@[simp] theorem State.setCore_store (i : Nat) (x : Core) : (s.setCore i x).store = s.store := rfl
@[simp] theorem State.setCore_storePoison (i : Nat) (x : Core) : (s.setCore i x).storePoison = s.storePoison := rfl
@[simp] theorem State.setCore_sites (i : Nat) (x : Core) : (s.setCore i x).sites = s.sites := rfl
@[simp] theorem State.setCore_ports (i : Nat) (x : Core) : (s.setCore i x).ports = s.ports := rfl
@[simp] theorem State.setCore_dom (i : Nat) (x : Core) : (s.setCore i x).dom = s.dom := rfl
@[simp] theorem State.setCore_lanes (i : Nat) (x : Core) : (s.setCore i x).lanes = s.lanes := rfl
@[simp] theorem State.setCore_host (i : Nat) (x : Core) : (s.setCore i x).host = s.host := rfl
@[simp] theorem State.setCore_dir (i : Nat) (x : Core) : (s.setCore i x).dir = s.dir := rfl
@[simp] theorem State.setCore_jrn (i : Nat) (x : Core) : (s.setCore i x).jrn = s.jrn := rfl
@[simp] theorem State.setCore_img (i : Nat) (x : Core) : (s.setCore i x).img = s.img := rfl
@[simp] theorem State.setCore_win0 (i : Nat) (x : Core) : (s.setCore i x).win0 = s.win0 := rfl
@[simp] theorem State.setCore_win1 (i : Nat) (x : Core) : (s.setCore i x).win1 = s.win1 := rfl
@[simp] theorem State.setCore_itg (i : Nat) (x : Core) : (s.setCore i x).itg = s.itg := rfl
@[simp] theorem State.setCore_emmc (i : Nat) (x : Core) : (s.setCore i x).emmc = s.emmc := rfl
@[simp] theorem State.setCore_otp (i : Nat) (x : Core) : (s.setCore i x).otp = s.otp := rfl
@[simp] theorem State.setCore_boot (i : Nat) (x : Core) : (s.setCore i x).boot = s.boot := rfl
@[simp] theorem State.setCore_tx (i : Nat) (x : Core) : (s.setCore i x).tx = s.tx := rfl
@[simp] theorem State.setCore_draws (i : Nat) (x : Core) : (s.setCore i x).draws = s.draws := rfl
@[simp] theorem State.setCore_plan (i : Nat) (x : Core) (j : Nat) : (s.setCore i x).plan j = s.plan j := rfl
@[simp] theorem State.setCore_tile (i : Nat) (x : Core) (j : Nat) : (s.setCore i x).tile j = s.tile j := rfl
@[simp] theorem State.setCore_site (i : Nat) (x : Core) (j : Nat) : (s.setCore i x).site j = s.site j := rfl
@[simp] theorem State.setCore_port (i : Nat) (x : Core) (j : Nat) : (s.setCore i x).port j = s.port j := rfl
@[simp] theorem State.setCore_lane (i : Nat) (x : Core) (j : Nat) : (s.setCore i x).lane j = s.lane j := rfl
@[simp] theorem State.modCore_pending (i : Nat) (x : Core → Core) : (s.modCore i x).pending = s.pending := rfl
@[simp] theorem State.modCore_clk (i : Nat) (x : Core → Core) : (s.modCore i x).clk = s.clk := rfl
@[simp] theorem State.modCore_pwr (i : Nat) (x : Core → Core) : (s.modCore i x).pwr = s.pwr := rfl
@[simp] theorem State.modCore_dev (i : Nat) (x : Core → Core) : (s.modCore i x).dev = s.dev := rfl
@[simp] theorem State.modCore_flt (i : Nat) (x : Core → Core) : (s.modCore i x).flt = s.flt := rfl
@[simp] theorem State.modCore_frm (i : Nat) (x : Core → Core) : (s.modCore i x).frm = s.frm := rfl
@[simp] theorem State.modCore_plans (i : Nat) (x : Core → Core) : (s.modCore i x).plans = s.plans := rfl
@[simp] theorem State.modCore_tiles (i : Nat) (x : Core → Core) : (s.modCore i x).tiles = s.tiles := rfl
@[simp] theorem State.modCore_store (i : Nat) (x : Core → Core) : (s.modCore i x).store = s.store := rfl
@[simp] theorem State.modCore_storePoison (i : Nat) (x : Core → Core) : (s.modCore i x).storePoison = s.storePoison := rfl
@[simp] theorem State.modCore_sites (i : Nat) (x : Core → Core) : (s.modCore i x).sites = s.sites := rfl
@[simp] theorem State.modCore_ports (i : Nat) (x : Core → Core) : (s.modCore i x).ports = s.ports := rfl
@[simp] theorem State.modCore_dom (i : Nat) (x : Core → Core) : (s.modCore i x).dom = s.dom := rfl
@[simp] theorem State.modCore_lanes (i : Nat) (x : Core → Core) : (s.modCore i x).lanes = s.lanes := rfl
@[simp] theorem State.modCore_host (i : Nat) (x : Core → Core) : (s.modCore i x).host = s.host := rfl
@[simp] theorem State.modCore_dir (i : Nat) (x : Core → Core) : (s.modCore i x).dir = s.dir := rfl
@[simp] theorem State.modCore_jrn (i : Nat) (x : Core → Core) : (s.modCore i x).jrn = s.jrn := rfl
@[simp] theorem State.modCore_img (i : Nat) (x : Core → Core) : (s.modCore i x).img = s.img := rfl
@[simp] theorem State.modCore_win0 (i : Nat) (x : Core → Core) : (s.modCore i x).win0 = s.win0 := rfl
@[simp] theorem State.modCore_win1 (i : Nat) (x : Core → Core) : (s.modCore i x).win1 = s.win1 := rfl
@[simp] theorem State.modCore_itg (i : Nat) (x : Core → Core) : (s.modCore i x).itg = s.itg := rfl
@[simp] theorem State.modCore_emmc (i : Nat) (x : Core → Core) : (s.modCore i x).emmc = s.emmc := rfl
@[simp] theorem State.modCore_otp (i : Nat) (x : Core → Core) : (s.modCore i x).otp = s.otp := rfl
@[simp] theorem State.modCore_boot (i : Nat) (x : Core → Core) : (s.modCore i x).boot = s.boot := rfl
@[simp] theorem State.modCore_tx (i : Nat) (x : Core → Core) : (s.modCore i x).tx = s.tx := rfl
@[simp] theorem State.modCore_draws (i : Nat) (x : Core → Core) : (s.modCore i x).draws = s.draws := rfl
@[simp] theorem State.modCore_plan (i : Nat) (x : Core → Core) (j : Nat) : (s.modCore i x).plan j = s.plan j := rfl
@[simp] theorem State.modCore_tile (i : Nat) (x : Core → Core) (j : Nat) : (s.modCore i x).tile j = s.tile j := rfl
@[simp] theorem State.modCore_site (i : Nat) (x : Core → Core) (j : Nat) : (s.modCore i x).site j = s.site j := rfl
@[simp] theorem State.modCore_port (i : Nat) (x : Core → Core) (j : Nat) : (s.modCore i x).port j = s.port j := rfl
@[simp] theorem State.modCore_lane (i : Nat) (x : Core → Core) (j : Nat) : (s.modCore i x).lane j = s.lane j := rfl

theorem State.cores_wf (h : s.canonical = true) : Sparse.wf Core.reset s.cores = true := by
  simp only [State.canonical_iff] at h
  simp only [h]
@[simp] theorem State.core_setCore (i : Nat) (x : Core) : (s.setCore i x).core i = x := Sparse.get_set_self s.cores i x
theorem State.core_setCore_ne {i j : Nat} (x : Core) (e : j ≠ i) : (s.setCore i x).core j = s.core j := Sparse.get_set_ne s.cores x e
@[simp] theorem State.core_modCore (i : Nat) (x : Core → Core) : (s.modCore i x).core i = x (s.core i) := s.core_setCore i _
theorem State.core_modCore_ne {i j : Nat} (x : Core → Core) (e : j ≠ i) : (s.modCore i x).core j = s.core j := s.core_setCore_ne _ e
theorem State.modCore_canonical (h : s.canonical = true) (i : Nat) (x : Core → Core) (hx : CoreStep x) : (s.modCore i x).canonical = true :=
  (State.modCore_kept (Kept.refl s) i x hx).canon h
theorem State.setCore_canonical (h : s.canonical = true) (i : Nat) (x : Core) (hx : x.canonical = true) : (s.setCore i x).canonical = true :=
  (State.setCore_kept (Kept.refl s) i x ⟨fun _ _ => hx⟩).canon h

/-! ### setSite, modSite -/

@[simp] theorem State.setSite_pending (i : Nat) (x : Site) : (s.setSite i x).pending = s.pending := rfl
@[simp] theorem State.setSite_clk (i : Nat) (x : Site) : (s.setSite i x).clk = s.clk := rfl
@[simp] theorem State.setSite_pwr (i : Nat) (x : Site) : (s.setSite i x).pwr = s.pwr := rfl
@[simp] theorem State.setSite_dev (i : Nat) (x : Site) : (s.setSite i x).dev = s.dev := rfl
@[simp] theorem State.setSite_flt (i : Nat) (x : Site) : (s.setSite i x).flt = s.flt := rfl
@[simp] theorem State.setSite_frm (i : Nat) (x : Site) : (s.setSite i x).frm = s.frm := rfl
@[simp] theorem State.setSite_plans (i : Nat) (x : Site) : (s.setSite i x).plans = s.plans := rfl
@[simp] theorem State.setSite_tiles (i : Nat) (x : Site) : (s.setSite i x).tiles = s.tiles := rfl
@[simp] theorem State.setSite_store (i : Nat) (x : Site) : (s.setSite i x).store = s.store := rfl
@[simp] theorem State.setSite_storePoison (i : Nat) (x : Site) : (s.setSite i x).storePoison = s.storePoison := rfl
@[simp] theorem State.setSite_cores (i : Nat) (x : Site) : (s.setSite i x).cores = s.cores := rfl
@[simp] theorem State.setSite_ports (i : Nat) (x : Site) : (s.setSite i x).ports = s.ports := rfl
@[simp] theorem State.setSite_dom (i : Nat) (x : Site) : (s.setSite i x).dom = s.dom := rfl
@[simp] theorem State.setSite_lanes (i : Nat) (x : Site) : (s.setSite i x).lanes = s.lanes := rfl
@[simp] theorem State.setSite_host (i : Nat) (x : Site) : (s.setSite i x).host = s.host := rfl
@[simp] theorem State.setSite_dir (i : Nat) (x : Site) : (s.setSite i x).dir = s.dir := rfl
@[simp] theorem State.setSite_jrn (i : Nat) (x : Site) : (s.setSite i x).jrn = s.jrn := rfl
@[simp] theorem State.setSite_img (i : Nat) (x : Site) : (s.setSite i x).img = s.img := rfl
@[simp] theorem State.setSite_win0 (i : Nat) (x : Site) : (s.setSite i x).win0 = s.win0 := rfl
@[simp] theorem State.setSite_win1 (i : Nat) (x : Site) : (s.setSite i x).win1 = s.win1 := rfl
@[simp] theorem State.setSite_itg (i : Nat) (x : Site) : (s.setSite i x).itg = s.itg := rfl
@[simp] theorem State.setSite_emmc (i : Nat) (x : Site) : (s.setSite i x).emmc = s.emmc := rfl
@[simp] theorem State.setSite_otp (i : Nat) (x : Site) : (s.setSite i x).otp = s.otp := rfl
@[simp] theorem State.setSite_boot (i : Nat) (x : Site) : (s.setSite i x).boot = s.boot := rfl
@[simp] theorem State.setSite_tx (i : Nat) (x : Site) : (s.setSite i x).tx = s.tx := rfl
@[simp] theorem State.setSite_draws (i : Nat) (x : Site) : (s.setSite i x).draws = s.draws := rfl
@[simp] theorem State.setSite_plan (i : Nat) (x : Site) (j : Nat) : (s.setSite i x).plan j = s.plan j := rfl
@[simp] theorem State.setSite_tile (i : Nat) (x : Site) (j : Nat) : (s.setSite i x).tile j = s.tile j := rfl
@[simp] theorem State.setSite_core (i : Nat) (x : Site) (j : Nat) : (s.setSite i x).core j = s.core j := rfl
@[simp] theorem State.setSite_port (i : Nat) (x : Site) (j : Nat) : (s.setSite i x).port j = s.port j := rfl
@[simp] theorem State.setSite_lane (i : Nat) (x : Site) (j : Nat) : (s.setSite i x).lane j = s.lane j := rfl
@[simp] theorem State.modSite_pending (i : Nat) (x : Site → Site) : (s.modSite i x).pending = s.pending := rfl
@[simp] theorem State.modSite_clk (i : Nat) (x : Site → Site) : (s.modSite i x).clk = s.clk := rfl
@[simp] theorem State.modSite_pwr (i : Nat) (x : Site → Site) : (s.modSite i x).pwr = s.pwr := rfl
@[simp] theorem State.modSite_dev (i : Nat) (x : Site → Site) : (s.modSite i x).dev = s.dev := rfl
@[simp] theorem State.modSite_flt (i : Nat) (x : Site → Site) : (s.modSite i x).flt = s.flt := rfl
@[simp] theorem State.modSite_frm (i : Nat) (x : Site → Site) : (s.modSite i x).frm = s.frm := rfl
@[simp] theorem State.modSite_plans (i : Nat) (x : Site → Site) : (s.modSite i x).plans = s.plans := rfl
@[simp] theorem State.modSite_tiles (i : Nat) (x : Site → Site) : (s.modSite i x).tiles = s.tiles := rfl
@[simp] theorem State.modSite_store (i : Nat) (x : Site → Site) : (s.modSite i x).store = s.store := rfl
@[simp] theorem State.modSite_storePoison (i : Nat) (x : Site → Site) : (s.modSite i x).storePoison = s.storePoison := rfl
@[simp] theorem State.modSite_cores (i : Nat) (x : Site → Site) : (s.modSite i x).cores = s.cores := rfl
@[simp] theorem State.modSite_ports (i : Nat) (x : Site → Site) : (s.modSite i x).ports = s.ports := rfl
@[simp] theorem State.modSite_dom (i : Nat) (x : Site → Site) : (s.modSite i x).dom = s.dom := rfl
@[simp] theorem State.modSite_lanes (i : Nat) (x : Site → Site) : (s.modSite i x).lanes = s.lanes := rfl
@[simp] theorem State.modSite_host (i : Nat) (x : Site → Site) : (s.modSite i x).host = s.host := rfl
@[simp] theorem State.modSite_dir (i : Nat) (x : Site → Site) : (s.modSite i x).dir = s.dir := rfl
@[simp] theorem State.modSite_jrn (i : Nat) (x : Site → Site) : (s.modSite i x).jrn = s.jrn := rfl
@[simp] theorem State.modSite_img (i : Nat) (x : Site → Site) : (s.modSite i x).img = s.img := rfl
@[simp] theorem State.modSite_win0 (i : Nat) (x : Site → Site) : (s.modSite i x).win0 = s.win0 := rfl
@[simp] theorem State.modSite_win1 (i : Nat) (x : Site → Site) : (s.modSite i x).win1 = s.win1 := rfl
@[simp] theorem State.modSite_itg (i : Nat) (x : Site → Site) : (s.modSite i x).itg = s.itg := rfl
@[simp] theorem State.modSite_emmc (i : Nat) (x : Site → Site) : (s.modSite i x).emmc = s.emmc := rfl
@[simp] theorem State.modSite_otp (i : Nat) (x : Site → Site) : (s.modSite i x).otp = s.otp := rfl
@[simp] theorem State.modSite_boot (i : Nat) (x : Site → Site) : (s.modSite i x).boot = s.boot := rfl
@[simp] theorem State.modSite_tx (i : Nat) (x : Site → Site) : (s.modSite i x).tx = s.tx := rfl
@[simp] theorem State.modSite_draws (i : Nat) (x : Site → Site) : (s.modSite i x).draws = s.draws := rfl
@[simp] theorem State.modSite_plan (i : Nat) (x : Site → Site) (j : Nat) : (s.modSite i x).plan j = s.plan j := rfl
@[simp] theorem State.modSite_tile (i : Nat) (x : Site → Site) (j : Nat) : (s.modSite i x).tile j = s.tile j := rfl
@[simp] theorem State.modSite_core (i : Nat) (x : Site → Site) (j : Nat) : (s.modSite i x).core j = s.core j := rfl
@[simp] theorem State.modSite_port (i : Nat) (x : Site → Site) (j : Nat) : (s.modSite i x).port j = s.port j := rfl
@[simp] theorem State.modSite_lane (i : Nat) (x : Site → Site) (j : Nat) : (s.modSite i x).lane j = s.lane j := rfl

theorem State.sites_wf (h : s.canonical = true) : Sparse.wf Site.reset s.sites = true := by
  simp only [State.canonical_iff] at h
  simp only [h]
@[simp] theorem State.site_setSite (i : Nat) (x : Site) : (s.setSite i x).site i = x := Sparse.get_set_self s.sites i x
theorem State.site_setSite_ne {i j : Nat} (x : Site) (e : j ≠ i) : (s.setSite i x).site j = s.site j := Sparse.get_set_ne s.sites x e
@[simp] theorem State.site_modSite (i : Nat) (x : Site → Site) : (s.modSite i x).site i = x (s.site i) := s.site_setSite i _
theorem State.site_modSite_ne {i j : Nat} (x : Site → Site) (e : j ≠ i) : (s.modSite i x).site j = s.site j := s.site_setSite_ne _ e
theorem State.modSite_canonical (h : s.canonical = true) (i : Nat) (x : Site → Site) (hx : SiteStep x) : (s.modSite i x).canonical = true :=
  (State.modSite_kept (Kept.refl s) i x hx).canon h
theorem State.setSite_canonical (h : s.canonical = true) (i : Nat) (x : Site) (hx : x.canonical = true) : (s.setSite i x).canonical = true :=
  (State.setSite_kept (Kept.refl s) i x ⟨fun _ _ => hx⟩).canon h

/-! ### setPort, modPort -/

@[simp] theorem State.setPort_pending (i : Nat) (x : Port) : (s.setPort i x).pending = s.pending := rfl
@[simp] theorem State.setPort_clk (i : Nat) (x : Port) : (s.setPort i x).clk = s.clk := rfl
@[simp] theorem State.setPort_pwr (i : Nat) (x : Port) : (s.setPort i x).pwr = s.pwr := rfl
@[simp] theorem State.setPort_dev (i : Nat) (x : Port) : (s.setPort i x).dev = s.dev := rfl
@[simp] theorem State.setPort_flt (i : Nat) (x : Port) : (s.setPort i x).flt = s.flt := rfl
@[simp] theorem State.setPort_frm (i : Nat) (x : Port) : (s.setPort i x).frm = s.frm := rfl
@[simp] theorem State.setPort_plans (i : Nat) (x : Port) : (s.setPort i x).plans = s.plans := rfl
@[simp] theorem State.setPort_tiles (i : Nat) (x : Port) : (s.setPort i x).tiles = s.tiles := rfl
@[simp] theorem State.setPort_store (i : Nat) (x : Port) : (s.setPort i x).store = s.store := rfl
@[simp] theorem State.setPort_storePoison (i : Nat) (x : Port) : (s.setPort i x).storePoison = s.storePoison := rfl
@[simp] theorem State.setPort_cores (i : Nat) (x : Port) : (s.setPort i x).cores = s.cores := rfl
@[simp] theorem State.setPort_sites (i : Nat) (x : Port) : (s.setPort i x).sites = s.sites := rfl
@[simp] theorem State.setPort_dom (i : Nat) (x : Port) : (s.setPort i x).dom = s.dom := rfl
@[simp] theorem State.setPort_lanes (i : Nat) (x : Port) : (s.setPort i x).lanes = s.lanes := rfl
@[simp] theorem State.setPort_host (i : Nat) (x : Port) : (s.setPort i x).host = s.host := rfl
@[simp] theorem State.setPort_dir (i : Nat) (x : Port) : (s.setPort i x).dir = s.dir := rfl
@[simp] theorem State.setPort_jrn (i : Nat) (x : Port) : (s.setPort i x).jrn = s.jrn := rfl
@[simp] theorem State.setPort_img (i : Nat) (x : Port) : (s.setPort i x).img = s.img := rfl
@[simp] theorem State.setPort_win0 (i : Nat) (x : Port) : (s.setPort i x).win0 = s.win0 := rfl
@[simp] theorem State.setPort_win1 (i : Nat) (x : Port) : (s.setPort i x).win1 = s.win1 := rfl
@[simp] theorem State.setPort_itg (i : Nat) (x : Port) : (s.setPort i x).itg = s.itg := rfl
@[simp] theorem State.setPort_emmc (i : Nat) (x : Port) : (s.setPort i x).emmc = s.emmc := rfl
@[simp] theorem State.setPort_otp (i : Nat) (x : Port) : (s.setPort i x).otp = s.otp := rfl
@[simp] theorem State.setPort_boot (i : Nat) (x : Port) : (s.setPort i x).boot = s.boot := rfl
@[simp] theorem State.setPort_tx (i : Nat) (x : Port) : (s.setPort i x).tx = s.tx := rfl
@[simp] theorem State.setPort_draws (i : Nat) (x : Port) : (s.setPort i x).draws = s.draws := rfl
@[simp] theorem State.setPort_plan (i : Nat) (x : Port) (j : Nat) : (s.setPort i x).plan j = s.plan j := rfl
@[simp] theorem State.setPort_tile (i : Nat) (x : Port) (j : Nat) : (s.setPort i x).tile j = s.tile j := rfl
@[simp] theorem State.setPort_core (i : Nat) (x : Port) (j : Nat) : (s.setPort i x).core j = s.core j := rfl
@[simp] theorem State.setPort_site (i : Nat) (x : Port) (j : Nat) : (s.setPort i x).site j = s.site j := rfl
@[simp] theorem State.setPort_lane (i : Nat) (x : Port) (j : Nat) : (s.setPort i x).lane j = s.lane j := rfl
@[simp] theorem State.modPort_pending (i : Nat) (x : Port → Port) : (s.modPort i x).pending = s.pending := rfl
@[simp] theorem State.modPort_clk (i : Nat) (x : Port → Port) : (s.modPort i x).clk = s.clk := rfl
@[simp] theorem State.modPort_pwr (i : Nat) (x : Port → Port) : (s.modPort i x).pwr = s.pwr := rfl
@[simp] theorem State.modPort_dev (i : Nat) (x : Port → Port) : (s.modPort i x).dev = s.dev := rfl
@[simp] theorem State.modPort_flt (i : Nat) (x : Port → Port) : (s.modPort i x).flt = s.flt := rfl
@[simp] theorem State.modPort_frm (i : Nat) (x : Port → Port) : (s.modPort i x).frm = s.frm := rfl
@[simp] theorem State.modPort_plans (i : Nat) (x : Port → Port) : (s.modPort i x).plans = s.plans := rfl
@[simp] theorem State.modPort_tiles (i : Nat) (x : Port → Port) : (s.modPort i x).tiles = s.tiles := rfl
@[simp] theorem State.modPort_store (i : Nat) (x : Port → Port) : (s.modPort i x).store = s.store := rfl
@[simp] theorem State.modPort_storePoison (i : Nat) (x : Port → Port) : (s.modPort i x).storePoison = s.storePoison := rfl
@[simp] theorem State.modPort_cores (i : Nat) (x : Port → Port) : (s.modPort i x).cores = s.cores := rfl
@[simp] theorem State.modPort_sites (i : Nat) (x : Port → Port) : (s.modPort i x).sites = s.sites := rfl
@[simp] theorem State.modPort_dom (i : Nat) (x : Port → Port) : (s.modPort i x).dom = s.dom := rfl
@[simp] theorem State.modPort_lanes (i : Nat) (x : Port → Port) : (s.modPort i x).lanes = s.lanes := rfl
@[simp] theorem State.modPort_host (i : Nat) (x : Port → Port) : (s.modPort i x).host = s.host := rfl
@[simp] theorem State.modPort_dir (i : Nat) (x : Port → Port) : (s.modPort i x).dir = s.dir := rfl
@[simp] theorem State.modPort_jrn (i : Nat) (x : Port → Port) : (s.modPort i x).jrn = s.jrn := rfl
@[simp] theorem State.modPort_img (i : Nat) (x : Port → Port) : (s.modPort i x).img = s.img := rfl
@[simp] theorem State.modPort_win0 (i : Nat) (x : Port → Port) : (s.modPort i x).win0 = s.win0 := rfl
@[simp] theorem State.modPort_win1 (i : Nat) (x : Port → Port) : (s.modPort i x).win1 = s.win1 := rfl
@[simp] theorem State.modPort_itg (i : Nat) (x : Port → Port) : (s.modPort i x).itg = s.itg := rfl
@[simp] theorem State.modPort_emmc (i : Nat) (x : Port → Port) : (s.modPort i x).emmc = s.emmc := rfl
@[simp] theorem State.modPort_otp (i : Nat) (x : Port → Port) : (s.modPort i x).otp = s.otp := rfl
@[simp] theorem State.modPort_boot (i : Nat) (x : Port → Port) : (s.modPort i x).boot = s.boot := rfl
@[simp] theorem State.modPort_tx (i : Nat) (x : Port → Port) : (s.modPort i x).tx = s.tx := rfl
@[simp] theorem State.modPort_draws (i : Nat) (x : Port → Port) : (s.modPort i x).draws = s.draws := rfl
@[simp] theorem State.modPort_plan (i : Nat) (x : Port → Port) (j : Nat) : (s.modPort i x).plan j = s.plan j := rfl
@[simp] theorem State.modPort_tile (i : Nat) (x : Port → Port) (j : Nat) : (s.modPort i x).tile j = s.tile j := rfl
@[simp] theorem State.modPort_core (i : Nat) (x : Port → Port) (j : Nat) : (s.modPort i x).core j = s.core j := rfl
@[simp] theorem State.modPort_site (i : Nat) (x : Port → Port) (j : Nat) : (s.modPort i x).site j = s.site j := rfl
@[simp] theorem State.modPort_lane (i : Nat) (x : Port → Port) (j : Nat) : (s.modPort i x).lane j = s.lane j := rfl

theorem State.ports_wf (h : s.canonical = true) : Sparse.wf Port.reset s.ports = true := by
  simp only [State.canonical_iff] at h
  simp only [h]
@[simp] theorem State.port_setPort (i : Nat) (x : Port) : (s.setPort i x).port i = x := Sparse.get_set_self s.ports i x
theorem State.port_setPort_ne {i j : Nat} (x : Port) (e : j ≠ i) : (s.setPort i x).port j = s.port j := Sparse.get_set_ne s.ports x e
@[simp] theorem State.port_modPort (i : Nat) (x : Port → Port) : (s.modPort i x).port i = x (s.port i) := s.port_setPort i _
theorem State.port_modPort_ne {i j : Nat} (x : Port → Port) (e : j ≠ i) : (s.modPort i x).port j = s.port j := s.port_setPort_ne _ e
theorem State.modPort_canonical (h : s.canonical = true) (i : Nat) (x : Port → Port) : (s.modPort i x).canonical = true :=
  (State.modPort_kept (Kept.refl s) i x).canon h
theorem State.setPort_canonical (h : s.canonical = true) (i : Nat) (x : Port) : (s.setPort i x).canonical = true :=
  (State.setPort_kept (Kept.refl s) i x).canon h

/-! ### setLane, modLane -/

@[simp] theorem State.setLane_pending (i : Nat) (x : Lane) : (s.setLane i x).pending = s.pending := rfl
@[simp] theorem State.setLane_clk (i : Nat) (x : Lane) : (s.setLane i x).clk = s.clk := rfl
@[simp] theorem State.setLane_pwr (i : Nat) (x : Lane) : (s.setLane i x).pwr = s.pwr := rfl
@[simp] theorem State.setLane_dev (i : Nat) (x : Lane) : (s.setLane i x).dev = s.dev := rfl
@[simp] theorem State.setLane_flt (i : Nat) (x : Lane) : (s.setLane i x).flt = s.flt := rfl
@[simp] theorem State.setLane_frm (i : Nat) (x : Lane) : (s.setLane i x).frm = s.frm := rfl
@[simp] theorem State.setLane_plans (i : Nat) (x : Lane) : (s.setLane i x).plans = s.plans := rfl
@[simp] theorem State.setLane_tiles (i : Nat) (x : Lane) : (s.setLane i x).tiles = s.tiles := rfl
@[simp] theorem State.setLane_store (i : Nat) (x : Lane) : (s.setLane i x).store = s.store := rfl
@[simp] theorem State.setLane_storePoison (i : Nat) (x : Lane) : (s.setLane i x).storePoison = s.storePoison := rfl
@[simp] theorem State.setLane_cores (i : Nat) (x : Lane) : (s.setLane i x).cores = s.cores := rfl
@[simp] theorem State.setLane_sites (i : Nat) (x : Lane) : (s.setLane i x).sites = s.sites := rfl
@[simp] theorem State.setLane_ports (i : Nat) (x : Lane) : (s.setLane i x).ports = s.ports := rfl
@[simp] theorem State.setLane_dom (i : Nat) (x : Lane) : (s.setLane i x).dom = s.dom := rfl
@[simp] theorem State.setLane_host (i : Nat) (x : Lane) : (s.setLane i x).host = s.host := rfl
@[simp] theorem State.setLane_dir (i : Nat) (x : Lane) : (s.setLane i x).dir = s.dir := rfl
@[simp] theorem State.setLane_jrn (i : Nat) (x : Lane) : (s.setLane i x).jrn = s.jrn := rfl
@[simp] theorem State.setLane_img (i : Nat) (x : Lane) : (s.setLane i x).img = s.img := rfl
@[simp] theorem State.setLane_win0 (i : Nat) (x : Lane) : (s.setLane i x).win0 = s.win0 := rfl
@[simp] theorem State.setLane_win1 (i : Nat) (x : Lane) : (s.setLane i x).win1 = s.win1 := rfl
@[simp] theorem State.setLane_itg (i : Nat) (x : Lane) : (s.setLane i x).itg = s.itg := rfl
@[simp] theorem State.setLane_emmc (i : Nat) (x : Lane) : (s.setLane i x).emmc = s.emmc := rfl
@[simp] theorem State.setLane_otp (i : Nat) (x : Lane) : (s.setLane i x).otp = s.otp := rfl
@[simp] theorem State.setLane_boot (i : Nat) (x : Lane) : (s.setLane i x).boot = s.boot := rfl
@[simp] theorem State.setLane_tx (i : Nat) (x : Lane) : (s.setLane i x).tx = s.tx := rfl
@[simp] theorem State.setLane_draws (i : Nat) (x : Lane) : (s.setLane i x).draws = s.draws := rfl
@[simp] theorem State.setLane_plan (i : Nat) (x : Lane) (j : Nat) : (s.setLane i x).plan j = s.plan j := rfl
@[simp] theorem State.setLane_tile (i : Nat) (x : Lane) (j : Nat) : (s.setLane i x).tile j = s.tile j := rfl
@[simp] theorem State.setLane_core (i : Nat) (x : Lane) (j : Nat) : (s.setLane i x).core j = s.core j := rfl
@[simp] theorem State.setLane_site (i : Nat) (x : Lane) (j : Nat) : (s.setLane i x).site j = s.site j := rfl
@[simp] theorem State.setLane_port (i : Nat) (x : Lane) (j : Nat) : (s.setLane i x).port j = s.port j := rfl
@[simp] theorem State.modLane_pending (i : Nat) (x : Lane → Lane) : (s.modLane i x).pending = s.pending := rfl
@[simp] theorem State.modLane_clk (i : Nat) (x : Lane → Lane) : (s.modLane i x).clk = s.clk := rfl
@[simp] theorem State.modLane_pwr (i : Nat) (x : Lane → Lane) : (s.modLane i x).pwr = s.pwr := rfl
@[simp] theorem State.modLane_dev (i : Nat) (x : Lane → Lane) : (s.modLane i x).dev = s.dev := rfl
@[simp] theorem State.modLane_flt (i : Nat) (x : Lane → Lane) : (s.modLane i x).flt = s.flt := rfl
@[simp] theorem State.modLane_frm (i : Nat) (x : Lane → Lane) : (s.modLane i x).frm = s.frm := rfl
@[simp] theorem State.modLane_plans (i : Nat) (x : Lane → Lane) : (s.modLane i x).plans = s.plans := rfl
@[simp] theorem State.modLane_tiles (i : Nat) (x : Lane → Lane) : (s.modLane i x).tiles = s.tiles := rfl
@[simp] theorem State.modLane_store (i : Nat) (x : Lane → Lane) : (s.modLane i x).store = s.store := rfl
@[simp] theorem State.modLane_storePoison (i : Nat) (x : Lane → Lane) : (s.modLane i x).storePoison = s.storePoison := rfl
@[simp] theorem State.modLane_cores (i : Nat) (x : Lane → Lane) : (s.modLane i x).cores = s.cores := rfl
@[simp] theorem State.modLane_sites (i : Nat) (x : Lane → Lane) : (s.modLane i x).sites = s.sites := rfl
@[simp] theorem State.modLane_ports (i : Nat) (x : Lane → Lane) : (s.modLane i x).ports = s.ports := rfl
@[simp] theorem State.modLane_dom (i : Nat) (x : Lane → Lane) : (s.modLane i x).dom = s.dom := rfl
@[simp] theorem State.modLane_host (i : Nat) (x : Lane → Lane) : (s.modLane i x).host = s.host := rfl
@[simp] theorem State.modLane_dir (i : Nat) (x : Lane → Lane) : (s.modLane i x).dir = s.dir := rfl
@[simp] theorem State.modLane_jrn (i : Nat) (x : Lane → Lane) : (s.modLane i x).jrn = s.jrn := rfl
@[simp] theorem State.modLane_img (i : Nat) (x : Lane → Lane) : (s.modLane i x).img = s.img := rfl
@[simp] theorem State.modLane_win0 (i : Nat) (x : Lane → Lane) : (s.modLane i x).win0 = s.win0 := rfl
@[simp] theorem State.modLane_win1 (i : Nat) (x : Lane → Lane) : (s.modLane i x).win1 = s.win1 := rfl
@[simp] theorem State.modLane_itg (i : Nat) (x : Lane → Lane) : (s.modLane i x).itg = s.itg := rfl
@[simp] theorem State.modLane_emmc (i : Nat) (x : Lane → Lane) : (s.modLane i x).emmc = s.emmc := rfl
@[simp] theorem State.modLane_otp (i : Nat) (x : Lane → Lane) : (s.modLane i x).otp = s.otp := rfl
@[simp] theorem State.modLane_boot (i : Nat) (x : Lane → Lane) : (s.modLane i x).boot = s.boot := rfl
@[simp] theorem State.modLane_tx (i : Nat) (x : Lane → Lane) : (s.modLane i x).tx = s.tx := rfl
@[simp] theorem State.modLane_draws (i : Nat) (x : Lane → Lane) : (s.modLane i x).draws = s.draws := rfl
@[simp] theorem State.modLane_plan (i : Nat) (x : Lane → Lane) (j : Nat) : (s.modLane i x).plan j = s.plan j := rfl
@[simp] theorem State.modLane_tile (i : Nat) (x : Lane → Lane) (j : Nat) : (s.modLane i x).tile j = s.tile j := rfl
@[simp] theorem State.modLane_core (i : Nat) (x : Lane → Lane) (j : Nat) : (s.modLane i x).core j = s.core j := rfl
@[simp] theorem State.modLane_site (i : Nat) (x : Lane → Lane) (j : Nat) : (s.modLane i x).site j = s.site j := rfl
@[simp] theorem State.modLane_port (i : Nat) (x : Lane → Lane) (j : Nat) : (s.modLane i x).port j = s.port j := rfl

theorem State.lanes_wf (h : s.canonical = true) : Sparse.wf Lane.reset s.lanes = true := by
  simp only [State.canonical_iff] at h
  simp only [h]
@[simp] theorem State.lane_setLane (i : Nat) (x : Lane) : (s.setLane i x).lane i = x := Sparse.get_set_self s.lanes i x
theorem State.lane_setLane_ne {i j : Nat} (x : Lane) (e : j ≠ i) : (s.setLane i x).lane j = s.lane j := Sparse.get_set_ne s.lanes x e
@[simp] theorem State.lane_modLane (i : Nat) (x : Lane → Lane) : (s.modLane i x).lane i = x (s.lane i) := s.lane_setLane i _
theorem State.lane_modLane_ne {i j : Nat} (x : Lane → Lane) (e : j ≠ i) : (s.modLane i x).lane j = s.lane j := s.lane_setLane_ne _ e
theorem State.modLane_canonical (h : s.canonical = true) (i : Nat) (x : Lane → Lane) : (s.modLane i x).canonical = true :=
  (State.modLane_kept (Kept.refl s) i x).canon h
theorem State.setLane_canonical (h : s.canonical = true) (i : Nat) (x : Lane) : (s.setLane i x).canonical = true :=
  (State.setLane_kept (Kept.refl s) i x).canon h

/-! ### modFrm, send, setWin -/

@[simp] theorem State.modFrm_pending (x : Frm → Frm) : (s.modFrm x).pending = s.pending := rfl
@[simp] theorem State.modFrm_clk (x : Frm → Frm) : (s.modFrm x).clk = s.clk := rfl
@[simp] theorem State.modFrm_pwr (x : Frm → Frm) : (s.modFrm x).pwr = s.pwr := rfl
@[simp] theorem State.modFrm_dev (x : Frm → Frm) : (s.modFrm x).dev = s.dev := rfl
@[simp] theorem State.modFrm_flt (x : Frm → Frm) : (s.modFrm x).flt = s.flt := rfl
@[simp] theorem State.modFrm_frm (x : Frm → Frm) : (s.modFrm x).frm = x s.frm := rfl
@[simp] theorem State.modFrm_plans (x : Frm → Frm) : (s.modFrm x).plans = s.plans := rfl
@[simp] theorem State.modFrm_tiles (x : Frm → Frm) : (s.modFrm x).tiles = s.tiles := rfl
@[simp] theorem State.modFrm_store (x : Frm → Frm) : (s.modFrm x).store = s.store := rfl
@[simp] theorem State.modFrm_storePoison (x : Frm → Frm) : (s.modFrm x).storePoison = s.storePoison := rfl
@[simp] theorem State.modFrm_cores (x : Frm → Frm) : (s.modFrm x).cores = s.cores := rfl
@[simp] theorem State.modFrm_sites (x : Frm → Frm) : (s.modFrm x).sites = s.sites := rfl
@[simp] theorem State.modFrm_ports (x : Frm → Frm) : (s.modFrm x).ports = s.ports := rfl
@[simp] theorem State.modFrm_dom (x : Frm → Frm) : (s.modFrm x).dom = s.dom := rfl
@[simp] theorem State.modFrm_lanes (x : Frm → Frm) : (s.modFrm x).lanes = s.lanes := rfl
@[simp] theorem State.modFrm_host (x : Frm → Frm) : (s.modFrm x).host = s.host := rfl
@[simp] theorem State.modFrm_dir (x : Frm → Frm) : (s.modFrm x).dir = s.dir := rfl
@[simp] theorem State.modFrm_jrn (x : Frm → Frm) : (s.modFrm x).jrn = s.jrn := rfl
@[simp] theorem State.modFrm_img (x : Frm → Frm) : (s.modFrm x).img = s.img := rfl
@[simp] theorem State.modFrm_win0 (x : Frm → Frm) : (s.modFrm x).win0 = s.win0 := rfl
@[simp] theorem State.modFrm_win1 (x : Frm → Frm) : (s.modFrm x).win1 = s.win1 := rfl
@[simp] theorem State.modFrm_itg (x : Frm → Frm) : (s.modFrm x).itg = s.itg := rfl
@[simp] theorem State.modFrm_emmc (x : Frm → Frm) : (s.modFrm x).emmc = s.emmc := rfl
@[simp] theorem State.modFrm_otp (x : Frm → Frm) : (s.modFrm x).otp = s.otp := rfl
@[simp] theorem State.modFrm_boot (x : Frm → Frm) : (s.modFrm x).boot = s.boot := rfl
@[simp] theorem State.modFrm_tx (x : Frm → Frm) : (s.modFrm x).tx = s.tx := rfl
@[simp] theorem State.modFrm_draws (x : Frm → Frm) : (s.modFrm x).draws = s.draws := rfl
@[simp] theorem State.send_pending (o : Out) : (s.send o).pending = s.pending := rfl
@[simp] theorem State.send_clk (o : Out) : (s.send o).clk = s.clk := rfl
@[simp] theorem State.send_pwr (o : Out) : (s.send o).pwr = s.pwr := rfl
@[simp] theorem State.send_dev (o : Out) : (s.send o).dev = s.dev := rfl
@[simp] theorem State.send_flt (o : Out) : (s.send o).flt = s.flt := rfl
@[simp] theorem State.send_frm (o : Out) : (s.send o).frm = s.frm := rfl
@[simp] theorem State.send_plans (o : Out) : (s.send o).plans = s.plans := rfl
@[simp] theorem State.send_tiles (o : Out) : (s.send o).tiles = s.tiles := rfl
@[simp] theorem State.send_store (o : Out) : (s.send o).store = s.store := rfl
@[simp] theorem State.send_storePoison (o : Out) : (s.send o).storePoison = s.storePoison := rfl
@[simp] theorem State.send_cores (o : Out) : (s.send o).cores = s.cores := rfl
@[simp] theorem State.send_sites (o : Out) : (s.send o).sites = s.sites := rfl
@[simp] theorem State.send_ports (o : Out) : (s.send o).ports = s.ports := rfl
@[simp] theorem State.send_dom (o : Out) : (s.send o).dom = s.dom := rfl
@[simp] theorem State.send_lanes (o : Out) : (s.send o).lanes = s.lanes := rfl
@[simp] theorem State.send_host (o : Out) : (s.send o).host = s.host := rfl
@[simp] theorem State.send_dir (o : Out) : (s.send o).dir = s.dir := rfl
@[simp] theorem State.send_jrn (o : Out) : (s.send o).jrn = s.jrn := rfl
@[simp] theorem State.send_img (o : Out) : (s.send o).img = s.img := rfl
@[simp] theorem State.send_win0 (o : Out) : (s.send o).win0 = s.win0 := rfl
@[simp] theorem State.send_win1 (o : Out) : (s.send o).win1 = s.win1 := rfl
@[simp] theorem State.send_itg (o : Out) : (s.send o).itg = s.itg := rfl
@[simp] theorem State.send_emmc (o : Out) : (s.send o).emmc = s.emmc := rfl
@[simp] theorem State.send_otp (o : Out) : (s.send o).otp = s.otp := rfl
@[simp] theorem State.send_boot (o : Out) : (s.send o).boot = s.boot := rfl
@[simp] theorem State.send_tx (o : Out) : (s.send o).tx = s.tx ++ [o] := rfl
@[simp] theorem State.send_draws (o : Out) : (s.send o).draws = s.draws := rfl
@[simp] theorem State.setWin_pending (p : Nat) (w : Window) : (s.setWin p w).pending = s.pending := by
  unfold State.setWin; split <;> rfl
@[simp] theorem State.setWin_clk (p : Nat) (w : Window) : (s.setWin p w).clk = s.clk := by
  unfold State.setWin; split <;> rfl
@[simp] theorem State.setWin_pwr (p : Nat) (w : Window) : (s.setWin p w).pwr = s.pwr := by
  unfold State.setWin; split <;> rfl
@[simp] theorem State.setWin_dev (p : Nat) (w : Window) : (s.setWin p w).dev = s.dev := by
  unfold State.setWin; split <;> rfl
@[simp] theorem State.setWin_flt (p : Nat) (w : Window) : (s.setWin p w).flt = s.flt := by
  unfold State.setWin; split <;> rfl
@[simp] theorem State.setWin_frm (p : Nat) (w : Window) : (s.setWin p w).frm = s.frm := by
  unfold State.setWin; split <;> rfl
@[simp] theorem State.setWin_plans (p : Nat) (w : Window) : (s.setWin p w).plans = s.plans := by
  unfold State.setWin; split <;> rfl
@[simp] theorem State.setWin_tiles (p : Nat) (w : Window) : (s.setWin p w).tiles = s.tiles := by
  unfold State.setWin; split <;> rfl
@[simp] theorem State.setWin_store (p : Nat) (w : Window) : (s.setWin p w).store = s.store := by
  unfold State.setWin; split <;> rfl
@[simp] theorem State.setWin_storePoison (p : Nat) (w : Window) : (s.setWin p w).storePoison = s.storePoison := by
  unfold State.setWin; split <;> rfl
@[simp] theorem State.setWin_cores (p : Nat) (w : Window) : (s.setWin p w).cores = s.cores := by
  unfold State.setWin; split <;> rfl
@[simp] theorem State.setWin_sites (p : Nat) (w : Window) : (s.setWin p w).sites = s.sites := by
  unfold State.setWin; split <;> rfl
@[simp] theorem State.setWin_ports (p : Nat) (w : Window) : (s.setWin p w).ports = s.ports := by
  unfold State.setWin; split <;> rfl
@[simp] theorem State.setWin_dom (p : Nat) (w : Window) : (s.setWin p w).dom = s.dom := by
  unfold State.setWin; split <;> rfl
@[simp] theorem State.setWin_lanes (p : Nat) (w : Window) : (s.setWin p w).lanes = s.lanes := by
  unfold State.setWin; split <;> rfl
@[simp] theorem State.setWin_host (p : Nat) (w : Window) : (s.setWin p w).host = s.host := by
  unfold State.setWin; split <;> rfl
@[simp] theorem State.setWin_dir (p : Nat) (w : Window) : (s.setWin p w).dir = s.dir := by
  unfold State.setWin; split <;> rfl
@[simp] theorem State.setWin_jrn (p : Nat) (w : Window) : (s.setWin p w).jrn = s.jrn := by
  unfold State.setWin; split <;> rfl
@[simp] theorem State.setWin_img (p : Nat) (w : Window) : (s.setWin p w).img = s.img := by
  unfold State.setWin; split <;> rfl
@[simp] theorem State.setWin_itg (p : Nat) (w : Window) : (s.setWin p w).itg = s.itg := by
  unfold State.setWin; split <;> rfl
@[simp] theorem State.setWin_emmc (p : Nat) (w : Window) : (s.setWin p w).emmc = s.emmc := by
  unfold State.setWin; split <;> rfl
@[simp] theorem State.setWin_otp (p : Nat) (w : Window) : (s.setWin p w).otp = s.otp := by
  unfold State.setWin; split <;> rfl
@[simp] theorem State.setWin_boot (p : Nat) (w : Window) : (s.setWin p w).boot = s.boot := by
  unfold State.setWin; split <;> rfl
@[simp] theorem State.setWin_tx (p : Nat) (w : Window) : (s.setWin p w).tx = s.tx := by
  unfold State.setWin; split <;> rfl
@[simp] theorem State.setWin_draws (p : Nat) (w : Window) : (s.setWin p w).draws = s.draws := by
  unfold State.setWin; split <;> rfl
@[simp] theorem State.modFrm_plan (x : Frm → Frm) (j : Nat) : (s.modFrm x).plan j = s.plan j := rfl
@[simp] theorem State.send_plan (o : Out) (j : Nat) : (s.send o).plan j = s.plan j := rfl
@[simp] theorem State.setWin_plan (p : Nat) (w : Window) (j : Nat) : (s.setWin p w).plan j = s.plan j := by
  unfold State.plan; rw [State.setWin_plans]
@[simp] theorem State.modFrm_tile (x : Frm → Frm) (j : Nat) : (s.modFrm x).tile j = s.tile j := rfl
@[simp] theorem State.send_tile (o : Out) (j : Nat) : (s.send o).tile j = s.tile j := rfl
@[simp] theorem State.setWin_tile (p : Nat) (w : Window) (j : Nat) : (s.setWin p w).tile j = s.tile j := by
  unfold State.tile; rw [State.setWin_tiles]
@[simp] theorem State.modFrm_core (x : Frm → Frm) (j : Nat) : (s.modFrm x).core j = s.core j := rfl
@[simp] theorem State.send_core (o : Out) (j : Nat) : (s.send o).core j = s.core j := rfl
@[simp] theorem State.setWin_core (p : Nat) (w : Window) (j : Nat) : (s.setWin p w).core j = s.core j := by
  unfold State.core; rw [State.setWin_cores]
@[simp] theorem State.modFrm_site (x : Frm → Frm) (j : Nat) : (s.modFrm x).site j = s.site j := rfl
@[simp] theorem State.send_site (o : Out) (j : Nat) : (s.send o).site j = s.site j := rfl
@[simp] theorem State.setWin_site (p : Nat) (w : Window) (j : Nat) : (s.setWin p w).site j = s.site j := by
  unfold State.site; rw [State.setWin_sites]
@[simp] theorem State.modFrm_port (x : Frm → Frm) (j : Nat) : (s.modFrm x).port j = s.port j := rfl
@[simp] theorem State.send_port (o : Out) (j : Nat) : (s.send o).port j = s.port j := rfl
@[simp] theorem State.setWin_port (p : Nat) (w : Window) (j : Nat) : (s.setWin p w).port j = s.port j := by
  unfold State.port; rw [State.setWin_ports]
@[simp] theorem State.modFrm_lane (x : Frm → Frm) (j : Nat) : (s.modFrm x).lane j = s.lane j := rfl
@[simp] theorem State.send_lane (o : Out) (j : Nat) : (s.send o).lane j = s.lane j := rfl
@[simp] theorem State.setWin_lane (p : Nat) (w : Window) (j : Nat) : (s.setWin p w).lane j = s.lane j := by
  unfold State.lane; rw [State.setWin_lanes]
@[simp] theorem State.win_setWin (p : Nat) (w : Window) : (s.setWin p w).win p = w := by
  unfold State.setWin State.win; split <;> rfl
theorem State.win_setWin_ne {p q : Nat} (hp : p < 2) (hq : q < 2) (e : q ≠ p) (w : Window) : (s.setWin p w).win q = s.win q := by
  unfold State.setWin State.win
  split <;> split <;> first | rfl | omega

end Sys2Proof.Machine
end

