-- ==== Sys2Proof/Laws/Ops.lean ====
section
/-! SUPPORT. What raising a fault can do (14 R385, R387, R402), once for all that cite it. -/

namespace Sys2Proof.Machine

/-! ### Recording -/

theorem FaultUnit.mark_recs (f : FaultUnit) (a : FaultArg) : (f.mark a).recs = f.recs ∧ (f.mark a).next = f.next := by
  unfold FaultUnit.mark
  dsimp only
  split <;> exact ⟨rfl, rfl⟩

theorem FaultUnit.count_recs (f : FaultUnit) (k : Nat) : (f.count k).recs = f.recs ∧ (f.count k).next = f.next ∧
    (f.count k).perFrame = f.perFrame ∧ (f.count k).fatal = f.fatal := by
  unfold FaultUnit.count
  split <;> exact ⟨rfl, rfl, rfl, rfl⟩

/-- An occurrence makes a record, or it is counted past the sixteenth of its code. -/
theorem FaultUnit.occur_logs (f : FaultUnit) (a : FaultArg) (r : FaultRec) (hr : r.code = a.code) :
    (∃ x ∈ (f.occur a r).recs, x.code = a.code ∧ f.next ≤ x.num) ∨ 16 ≤ Sparse.get 0 f.perFrame a.code := by
  unfold FaultUnit.occur
  dsimp only
  split
  · refine .inl ⟨{ r with num := f.next }, ?_, hr, Nat.le_refl _⟩
    rw [(FaultUnit.mark_recs _ _).1]
    unfold FaultUnit.push
    dsimp only
    rw [(FaultUnit.count_recs f a.class).2.1]
    exact List.mem_cons_self
  · exact .inr (by omega)

/-- A later occurrence keeps the newest record. -/
theorem FaultUnit.occur_keeps (f : FaultUnit) (a : FaultArg) (r : FaultRec) :
    ∀ x, f.recs.head? = some x → x ∈ (f.occur a r).recs := by
  intro x hx
  have hm : x ∈ f.recs := List.mem_of_mem_head? hx
  unfold FaultUnit.occur
  dsimp only
  split
  · rw [(FaultUnit.mark_recs _ _).1]
    unfold FaultUnit.push
    dsimp only
    rw [(FaultUnit.count_recs f a.class).1]
    cases h : f.recs with
    | nil => rw [h] at hx; cases hx
    | cons y ys =>
      rw [h] at hx
      cases hx
      exact List.mem_cons_of_mem _ List.mem_cons_self
  · rw [(FaultUnit.count_recs f a.class).1]
    exact hm

/-- Raising a fault writes the fault unit alone. -/
theorem State.raise_eq (s : State) (a : FaultArg) : ∃ f, s.raise a = { s with flt := f } := by
  unfold State.raise
  dsimp only
  split <;> exact ⟨_, rfl⟩

theorem State.raise_logged (s : State) (a : FaultArg) : Logged a.code s (s.raise a) := by
  have h := FaultUnit.occur_logs s.flt a (s.mkRec a false) rfl
  unfold State.raise
  dsimp only
  split
  · rcases h with ⟨x, hx, hc, hn⟩ | h
    · by_cases hl : Sparse.get 0 s.flt.perFrame a.code < 16
      · refine .inl ⟨{ s.mkRec a false with num := s.flt.next }, ?_, rfl, Nat.le_refl _⟩
        refine FaultUnit.occur_keeps _ _ _ _ ?_
        unfold FaultUnit.occur
        simp only [hl, if_true]
        rw [(FaultUnit.mark_recs _ _).1]
        unfold FaultUnit.push
        dsimp only
        rw [(FaultUnit.count_recs s.flt a.class).2.1]
        rfl
      · exact .inr (by omega)
    · exact .inr h
  · rcases h with ⟨x, hx, hc, hn⟩ | h
    · exact .inl ⟨x, hx, hc, hn⟩
    · exact .inr h

section raise
variable (s : State) (a : FaultArg)

theorem State.raise_frame : (s.raise a) = { s with flt := (s.raise a).flt } := by
  obtain ⟨f, h⟩ := s.raise_eq a
  rw [h]

@[simp] theorem State.raise_pending : (s.raise a).pending = s.pending := by rw [s.raise_frame]
@[simp] theorem State.raise_clk : (s.raise a).clk = s.clk := by rw [s.raise_frame]
@[simp] theorem State.raise_pwr : (s.raise a).pwr = s.pwr := by rw [s.raise_frame]
@[simp] theorem State.raise_dev : (s.raise a).dev = s.dev := by rw [s.raise_frame]
@[simp] theorem State.raise_frm : (s.raise a).frm = s.frm := by rw [s.raise_frame]
@[simp] theorem State.raise_plans : (s.raise a).plans = s.plans := by rw [s.raise_frame]
@[simp] theorem State.raise_tiles : (s.raise a).tiles = s.tiles := by rw [s.raise_frame]
@[simp] theorem State.raise_store : (s.raise a).store = s.store := by rw [s.raise_frame]
@[simp] theorem State.raise_storePoison : (s.raise a).storePoison = s.storePoison := by rw [s.raise_frame]
@[simp] theorem State.raise_cores : (s.raise a).cores = s.cores := by rw [s.raise_frame]
@[simp] theorem State.raise_sites : (s.raise a).sites = s.sites := by rw [s.raise_frame]
@[simp] theorem State.raise_ports : (s.raise a).ports = s.ports := by rw [s.raise_frame]
@[simp] theorem State.raise_dom : (s.raise a).dom = s.dom := by rw [s.raise_frame]
@[simp] theorem State.raise_lanes : (s.raise a).lanes = s.lanes := by rw [s.raise_frame]
@[simp] theorem State.raise_host : (s.raise a).host = s.host := by rw [s.raise_frame]
@[simp] theorem State.raise_dir : (s.raise a).dir = s.dir := by rw [s.raise_frame]
@[simp] theorem State.raise_jrn : (s.raise a).jrn = s.jrn := by rw [s.raise_frame]
@[simp] theorem State.raise_img : (s.raise a).img = s.img := by rw [s.raise_frame]
@[simp] theorem State.raise_win0 : (s.raise a).win0 = s.win0 := by rw [s.raise_frame]
@[simp] theorem State.raise_win1 : (s.raise a).win1 = s.win1 := by rw [s.raise_frame]
@[simp] theorem State.raise_itg : (s.raise a).itg = s.itg := by rw [s.raise_frame]
@[simp] theorem State.raise_emmc : (s.raise a).emmc = s.emmc := by rw [s.raise_frame]
@[simp] theorem State.raise_otp : (s.raise a).otp = s.otp := by rw [s.raise_frame]
@[simp] theorem State.raise_boot : (s.raise a).boot = s.boot := by rw [s.raise_frame]
@[simp] theorem State.raise_tx : (s.raise a).tx = s.tx := by rw [s.raise_frame]
@[simp] theorem State.raise_draws : (s.raise a).draws = s.draws := by rw [s.raise_frame]
end raise

/-! ### Classes -/

/-- A correctable fault is recorded and nothing more. -/
theorem State.fault_correctable (s : State) (a : FaultArg) (h : a.class = 0) : s.fault a = s.raise a := by
  unfold State.fault
  rw [h]
  rfl

/-- A contained fault stops its plan and goes into the next vote. -/
theorem State.fault_contained (s : State) (a : FaultArg) (p : Nat) (h : a.class = 1) (hp : a.plan = some p) :
    s.fault a = (s.raise a).contain p a.code := by
  unfold State.fault
  rw [h, hp]
  rfl

theorem State.fault_halting (s : State) (a : FaultArg) (h : a.class = 2) :
    s.fault a = (s.raise a).halting (faultCause a.code) := by
  unfold State.fault
  rw [h]
  rfl

theorem State.fault_fatal (s : State) (a : FaultArg) (h : a.class = 3) : s.fault a = (s.raise a).fatal := by
  unfold State.fault
  rw [h]
  rfl

/-! ### Stopping -/

/-- What stopping plans touches: the plan records, the cores, the frame's slots and completion reports, and what is sent. -/
structure Stopped (s t : State) : Prop where
  clk : t.clk = s.clk
  pwr : t.pwr = s.pwr
  dev : t.dev = s.dev
  flt : t.flt = s.flt
  tiles : t.tiles = s.tiles
  store : t.store = s.store
  poison : t.storePoison = s.storePoison
  sites : t.sites = s.sites
  ports : t.ports = s.ports
  dom : t.dom = s.dom
  lanes : t.lanes = s.lanes
  host : t.host = s.host
  dir : t.dir = s.dir
  jrn : t.jrn = s.jrn
  img : t.img = s.img
  itg : t.itg = s.itg
  emmc : t.emmc = s.emmc
  boot : t.boot = s.boot
  frame : t.frm.frame = s.frm.frame
  phase : t.frm.phase = s.frm.phase
  fstate : t.frm.state = s.frm.state
  leader : t.frm.leader = s.frm.leader

theorem Stopped.refl (s : State) : Stopped s s := by constructor <;> rfl
theorem Stopped.trans {r s t : State} (h : Stopped r s) (k : Stopped s t) : Stopped r t :=
  ⟨k.clk.trans h.clk, k.pwr.trans h.pwr, k.dev.trans h.dev, k.flt.trans h.flt, k.tiles.trans h.tiles, k.store.trans h.store,
   k.poison.trans h.poison, k.sites.trans h.sites, k.ports.trans h.ports, k.dom.trans h.dom, k.lanes.trans h.lanes,
   k.host.trans h.host, k.dir.trans h.dir, k.jrn.trans h.jrn, k.img.trans h.img, k.itg.trans h.itg, k.emmc.trans h.emmc,
   k.boot.trans h.boot, k.frame.trans h.frame, k.phase.trans h.phase, k.fstate.trans h.fstate, k.leader.trans h.leader⟩

theorem State.reportDone_stopped (s : State) : Stopped s s.reportDone := by
  unfold State.reportDone
  (repeat' split) <;> constructor <;> rfl

theorem State.stopPlan_stopped (s : State) (p : Nat) : Stopped s (s.stopPlan p) := by
  unfold State.stopPlan
  dsimp only
  split
  · refine Stopped.trans ?_ (State.reportDone_stopped _)
    constructor <;> rfl
  · constructor <;> rfl

theorem State.stopAll_stopped (s : State) (l : List Nat) : Stopped s (l.foldl State.stopPlan s) := by
  induction l generalizing s with
  | nil => exact Stopped.refl s
  | cons p l ih => exact (State.stopPlan_stopped s p).trans (ih _)

/-- A device-fatal fault: the rank runs no further frames and sends on no port. -/
theorem State.fatal_flags (s : State) : s.fatal.flt.fatal = true ∧ s.fatal.dom.splitStop = true ∧ s.fatal.clk = s.clk ∧
    s.fatal.flt.recs = s.flt.recs ∧ s.fatal.emmc = s.emmc := by
  unfold State.fatal
  have h := State.stopAll_stopped { s with flt := { s.flt with fatal := true }, dom := { s.dom with splitStop := true } } (List.range 4)
  dsimp only
  exact ⟨by rw [h.flt], by rw [h.dom], by rw [h.clk], by rw [h.flt], by rw [h.emmc]⟩

end Sys2Proof.Machine
end

