-- ==== Sys2Proof/Laws/Boundary.lean ====
section
/-! SUPPORT. Which operations of a frame boundary leave the frame counter, the phase, the directives agreed and the restart request as they are. -/

namespace Sys2Proof.Machine

/-- The frame counter, the phase, the agreed directives and the restart request are the same. -/
structure SameBoundary (s t : State) : Prop where
  frame : t.frm.frame = s.frm.frame
  phase : t.frm.phase = s.frm.phase
  dirs : t.frm.agreedDirs = s.frm.agreedDirs
  restart : t.boot.restart = s.boot.restart

theorem SameBoundary.refl (s : State) : SameBoundary s s := ⟨rfl, rfl, rfl, rfl⟩
theorem SameBoundary.trans {r s t : State} (h : SameBoundary r s) (k : SameBoundary s t) : SameBoundary r t :=
  ⟨k.frame.trans h.frame, k.phase.trans h.phase, k.dirs.trans h.dirs, k.restart.trans h.restart⟩
theorem SameBoundary.update {r t : State} (h : SameBoundary r t) {clk pwr dev flt frm plans tiles store storePoison cores sites ports dom lanes
    host dir jrn img win0 win1 itg emmc otp boot tx draws} (hf : frm.frame = t.frm.frame) (hp : frm.phase = t.frm.phase)
    (hd : frm.agreedDirs = t.frm.agreedDirs) (hr : boot.restart = t.boot.restart) :
    SameBoundary r (State.mk t.pending clk pwr dev flt frm plans tiles store storePoison cores sites ports dom lanes host dir jrn
      img win0 win1 itg emmc otp boot tx draws) := ⟨hf.trans h.frame, hp.trans h.phase, hd.trans h.dirs, hr.trans h.restart⟩
theorem SameBoundary.foldl {α : Type} {r : State} {f : State → α → State} (hf : ∀ s a, SameBoundary r s → SameBoundary r (f s a)) (l : List α)
    {s : State} (h : SameBoundary r s) : SameBoundary r (l.foldl f s) := by
  induction l generalizing s with
  | nil => exact h
  | cons a l ih => exact ih (hf s a h)
theorem SameBoundary.pair {β : Type} {r t : State} {p : State × β} {y : β} (e : p = (t, y)) (h : SameBoundary r p.1) : SameBoundary r t := by
  cases e; exact h
structure SameBoundaryO (r : State) (o : Option State) : Prop where
  all : ∀ t, o = some t → SameBoundary r t
theorem SameBoundaryO.some {r t : State} (h : SameBoundary r t) : SameBoundaryO r (some t) := ⟨fun _ e => by cases e; exact h⟩
theorem SameBoundaryO.none {r : State} : SameBoundaryO r none := ⟨fun _ e => by cases e⟩
theorem SameBoundaryO.get {r t : State} {o : Option State} (h : SameBoundaryO r o) (e : o = .some t) : SameBoundary r t := h.all t e
theorem SameBoundaryO.getD {r s : State} {o : Option State} (h : SameBoundaryO r o) (k : SameBoundary r s) : SameBoundary r (o.getD s) := by
  cases o with
  | none => exact k
  | some t => exact h.all t rfl

section
variable {r s : State} (h : SameBoundary r s)
include h
theorem State.setPlan_bound (p : Nat) (x : PlanSt) : SameBoundary r (s.setPlan p x) := ⟨h.frame, h.phase, h.dirs, h.restart⟩
theorem State.modPlan_bound (p : Nat) (f : PlanSt → PlanSt) : SameBoundary r (s.modPlan p f) := ⟨h.frame, h.phase, h.dirs, h.restart⟩
theorem State.setTile_bound (p : Nat) (x : Tile) : SameBoundary r (s.setTile p x) := ⟨h.frame, h.phase, h.dirs, h.restart⟩
theorem State.modTile_bound (p : Nat) (f : Tile → Tile) : SameBoundary r (s.modTile p f) := ⟨h.frame, h.phase, h.dirs, h.restart⟩
theorem State.setCore_bound (p : Nat) (x : Core) : SameBoundary r (s.setCore p x) := ⟨h.frame, h.phase, h.dirs, h.restart⟩
theorem State.modCore_bound (p : Nat) (f : Core → Core) : SameBoundary r (s.modCore p f) := ⟨h.frame, h.phase, h.dirs, h.restart⟩
theorem State.setSite_bound (p : Nat) (x : Site) : SameBoundary r (s.setSite p x) := ⟨h.frame, h.phase, h.dirs, h.restart⟩
theorem State.modSite_bound (p : Nat) (f : Site → Site) : SameBoundary r (s.modSite p f) := ⟨h.frame, h.phase, h.dirs, h.restart⟩
theorem State.setPort_bound (p : Nat) (x : Port) : SameBoundary r (s.setPort p x) := ⟨h.frame, h.phase, h.dirs, h.restart⟩
theorem State.modPort_bound (p : Nat) (f : Port → Port) : SameBoundary r (s.modPort p f) := ⟨h.frame, h.phase, h.dirs, h.restart⟩
theorem State.setLane_bound (p : Nat) (x : Lane) : SameBoundary r (s.setLane p x) := ⟨h.frame, h.phase, h.dirs, h.restart⟩
theorem State.modLane_bound (p : Nat) (f : Lane → Lane) : SameBoundary r (s.modLane p f) := ⟨h.frame, h.phase, h.dirs, h.restart⟩
theorem State.send_bound (o : Out) : SameBoundary r (s.send o) := ⟨h.frame, h.phase, h.dirs, h.restart⟩
theorem State.setWin_bound (p : Nat) (w : Window) : SameBoundary r (s.setWin p w) :=
  ⟨by rw [State.setWin_frm]; exact h.frame, by rw [State.setWin_frm]; exact h.phase, by rw [State.setWin_frm]; exact h.dirs,
   by rw [State.setWin_boot]; exact h.restart⟩
theorem State.modFrm_bound (f : Frm → Frm) (hf : (f s.frm).frame = s.frm.frame) (hp : (f s.frm).phase = s.frm.phase)
    (hd : (f s.frm).agreedDirs = s.frm.agreedDirs) :
    SameBoundary r (s.modFrm f) := ⟨hf.trans h.frame, hp.trans h.phase, hd.trans h.dirs, h.restart⟩
end

theorem State.raise_bound {r s : State} (h : SameBoundary r s) (a : FaultArg) : SameBoundary r (State.raise s a) := by
  rw [← State.raise_with]; exact ⟨h.frame, h.phase, h.dirs, h.restart⟩

theorem State.reportDone_bound {s₀ s : State} (h₀ : SameBoundary s₀ s) : SameBoundary s₀ (State.reportDone s) := by
  unfold State.reportDone
  repeat' (first | with_reducible assumption | ((with_reducible refine SameBoundary.update ?_ ?_ ?_ ?_ ?_) <;> first | with_reducible assumption | exact rfl) | with_reducible refine State.modFrm_bound ?_ _ rfl rfl rfl | with_reducible apply State.send_bound | ((try lift_lets); intro z; try (refine (have hz : SameBoundary s₀ z := ?_; ?_))) | split | subst z)

theorem State.stopCores_bound {r s : State} (h : SameBoundary r s) (p : Nat) : SameBoundary r (State.stopCores s p) := ⟨h.frame, h.phase, h.dirs, h.restart⟩

theorem State.stopPlan_bound {s₀ s : State} (h₀ : SameBoundary s₀ s) (p : Nat) : SameBoundary s₀ (State.stopPlan s p) := by
  unfold State.stopPlan
  repeat' (first | with_reducible assumption | ((with_reducible refine SameBoundary.update ?_ ?_ ?_ ?_ ?_) <;> first | with_reducible assumption | exact rfl) | with_reducible apply State.modPlan_bound | with_reducible apply State.stopCores_bound | with_reducible refine State.modFrm_bound ?_ _ rfl rfl rfl | with_reducible apply State.reportDone_bound | ((try lift_lets); intro z; try (refine (have hz : SameBoundary s₀ z := ?_; ?_))) | split | subst z)

theorem State.contain_bound {s₀ s : State} (h₀ : SameBoundary s₀ s) (p : Nat) (code : Nat) : SameBoundary s₀ (State.contain s p code) := by
  unfold State.contain
  repeat' (first | with_reducible assumption | ((with_reducible refine SameBoundary.update ?_ ?_ ?_ ?_ ?_) <;> first | with_reducible assumption | exact rfl) | with_reducible apply State.stopPlan_bound | with_reducible apply State.modPlan_bound | ((try lift_lets); intro z; try (refine (have hz : SameBoundary s₀ z := ?_; ?_))) | subst z)

theorem State.halting_bound {s₀ s : State} (h₀ : SameBoundary s₀ s) (cause : Nat) : SameBoundary s₀ (State.halting s cause) := by
  unfold State.halting
  repeat' (first | with_reducible assumption | ((with_reducible refine SameBoundary.update ?_ ?_ ?_ ?_ ?_) <;> first | with_reducible assumption | exact rfl) | ((try lift_lets); intro z; try (refine (have hz : SameBoundary s₀ z := ?_; ?_))) | subst z)

theorem State.fatal_bound {s₀ s : State} (h₀ : SameBoundary s₀ s) : SameBoundary s₀ (State.fatal s) := by
  unfold State.fatal
  repeat' (first | with_reducible assumption | ((with_reducible refine SameBoundary.update ?_ ?_ ?_ ?_ ?_) <;> first | with_reducible assumption | exact rfl) | with_reducible apply State.stopPlan_bound | with_reducible refine SameBoundary.foldl (fun _ _ _ => ?_) _ ?_ | ((try lift_lets); intro z; try (refine (have hz : SameBoundary s₀ z := ?_; ?_))) | subst z)

theorem State.fault_bound {s₀ s : State} (h₀ : SameBoundary s₀ s) (a : FaultArg) : SameBoundary s₀ (State.fault s a) := by
  unfold State.fault
  repeat' (first | with_reducible assumption | ((with_reducible refine SameBoundary.update ?_ ?_ ?_ ?_ ?_) <;> first | with_reducible assumption | exact rfl) | with_reducible apply State.raise_bound | with_reducible apply State.contain_bound | with_reducible apply State.halting_bound | with_reducible apply State.fatal_bound | ((try lift_lets); intro z; try (refine (have hz : SameBoundary s₀ z := ?_; ?_))) | split | subst z)

theorem State.putStore_bound {r s : State} (h : SameBoundary r s) (a : Nat) (bs : List Byte) (poison : Bool) : SameBoundary r (State.putStore s a bs poison) := ⟨h.frame, h.phase, h.dirs, h.restart⟩

theorem State.siteRange_bound {s₀ s : State} (h₀ : SameBoundary s₀ s) (p : Nat) (a : Nat) : SameBoundary s₀ (State.siteRange s p a) := by
  unfold State.siteRange
  repeat' (first | with_reducible assumption | with_reducible apply State.fault_bound | ((try lift_lets); intro z; try (refine (have hz : SameBoundary s₀ z := ?_; ?_))) | split | subst z)

theorem State.accessRaise_bound {s₀ s : State} (h₀ : SameBoundary s₀ s) (p : Nat) (code : Nat) (a : Nat) (unitk : Nat) (unit : Nat) : SameBoundary s₀ (State.accessRaise s p code a unitk unit) := by
  unfold State.accessRaise
  repeat' (first | with_reducible assumption | with_reducible apply State.siteRange_bound | with_reducible apply State.fault_bound | split)

theorem State.addToken_bound {r s : State} (h : SameBoundary r s) (p t tok inc : Nat) : SameBoundaryO r (State.addToken s p t tok inc) := by
  unfold State.addToken
  dsimp only
  split
  · exact SameBoundaryO.some (State.modPlan_bound (State.modTile_bound h t _) p _)
  · exact SameBoundaryO.none

theorem State.issueToken_bound {s₀ s : State} (h₀ : SameBoundary s₀ s) (p : Nat) (inc : Nat) : SameBoundary s₀ (State.issueToken s p inc) := by
  unfold State.issueToken
  repeat' (first | with_reducible assumption | ((with_reducible refine SameBoundary.update ?_ ?_ ?_ ?_ ?_) <;> first | with_reducible assumption | exact rfl) | with_reducible apply State.modPlan_bound | ((try lift_lets); intro z; try (refine (have hz : SameBoundary s₀ z := ?_; ?_))) | subst z)

theorem State.siteFault_bound {s₀ s : State} (h₀ : SameBoundary s₀ s) (code : Nat) (i : Nat) (line : Nat) (plan : Option Nat) (cls : Option Nat) : SameBoundary s₀ (State.siteFault s code i line plan cls) := by
  unfold State.siteFault
  repeat' (first | with_reducible assumption | with_reducible apply State.fault_bound)

theorem State.holdSite_bound {s₀ s : State} (h₀ : SameBoundary s₀ s) (i : Nat) : SameBoundary s₀ (State.holdSite s i) := by
  unfold State.holdSite
  repeat' (first | with_reducible assumption | ((with_reducible refine SameBoundary.update ?_ ?_ ?_ ?_ ?_) <;> first | with_reducible assumption | exact rfl) | with_reducible apply State.modSite_bound | with_reducible apply State.siteFault_bound | ((try lift_lets); intro z; try (refine (have hz : SameBoundary s₀ z := ?_; ?_))) | split | subst z)

theorem State.edcRetries_bound {s₀ s : State} (h₀ : SameBoundary s₀ s) (i : Nat) (line : Nat) (n : Nat) : SameBoundary s₀ (State.edcRetries s i line n) := by
  unfold State.edcRetries
  repeat' (first | with_reducible assumption | ((with_reducible refine SameBoundary.update ?_ ?_ ?_ ?_ ?_) <;> first | with_reducible assumption | exact rfl) | with_reducible apply State.modSite_bound | with_reducible apply State.siteFault_bound | with_reducible apply State.holdSite_bound | with_reducible refine SameBoundary.foldl (fun _ _ _ => ?_) _ ?_ | ((try lift_lets); intro z; try (refine (have hz : SameBoundary s₀ z := ?_; ?_))) | split | subst z)

theorem State.edc_bound {s₀ s : State} (h₀ : SameBoundary s₀ s) (i : Nat) (line : Nat) (x : Xfer) (req : SiteReq) : SameBoundary s₀ (State.edc s i line x req).1 := by
  unfold State.edc
  repeat' (first | with_reducible assumption | ((with_reducible refine SameBoundary.update ?_ ?_ ?_ ?_ ?_) <;> first | with_reducible assumption | exact rfl) | with_reducible apply State.edcRetries_bound | with_reducible apply State.holdSite_bound | with_reducible apply State.modSite_bound | ((try lift_lets); intro z; try (refine (have hz : SameBoundary s₀ z := ?_; ?_))) | split | dsimp -zeta only | subst z)

theorem State.meets_bound {s₀ s : State} (h₀ : SameBoundary s₀ s) (i : Nat) (line : Nat) (x : Xfer) : SameBoundary s₀ (State.meets s i line x).1 := by
  unfold State.meets
  repeat' (first | with_reducible assumption | ((with_reducible refine SameBoundary.update ?_ ?_ ?_ ?_ ?_) <;> first | with_reducible assumption | exact rfl) | with_reducible apply State.modSite_bound | ((try lift_lets); intro z; try (refine (have hz : SameBoundary s₀ z := ?_; ?_))) | dsimp -zeta only | subst z)

theorem State.gate_bound {s₀ s : State} (h₀ : SameBoundary s₀ s) (i : Nat) (line : Nat) (x : Xfer) (req : SiteReq) : SameBoundary s₀ (State.gate s i line x req).1 := by
  unfold State.gate
  repeat' (first | with_reducible assumption | with_reducible apply State.meets_bound | with_reducible apply State.edc_bound | ((try lift_lets); intro z; try (refine (have hz : SameBoundary s₀ z := ?_; ?_))) | split | dsimp -zeta only | refine SameBoundary.pair (by with_reducible assumption) ?_ | subst z)

theorem State.gates_bound {r s : State} (h : SameBoundary r s) (i : Nat) (req : SiteReq) (ls : List Nat) : SameBoundary r (State.gates s i req ls).1 := by
  induction ls generalizing s with
  | nil => exact h
  | cons l ls ih =>
    unfold State.gates
    dsimp only
    split
    · exact State.gate_bound h _ _ _ _
    · exact ih (State.gate_bound h _ _ _ _)

theorem State.candidate_bound {s₀ s : State} (h₀ : SameBoundary s₀ s) (i : Nat) (grp : Nat) : SameBoundary s₀ (State.candidate s i grp) := by
  unfold State.candidate
  repeat' (first | with_reducible assumption | ((with_reducible refine SameBoundary.update ?_ ?_ ?_ ?_ ?_) <;> first | with_reducible assumption | exact rfl) | with_reducible apply State.modSite_bound | ((try lift_lets); intro z; try (refine (have hz : SameBoundary s₀ z := ?_; ?_))) | split | subst z)

theorem State.corrected_bound {s₀ s : State} (h₀ : SameBoundary s₀ s) (i : Nat) (line : Nat) : SameBoundary s₀ (State.corrected s i line) := by
  unfold State.corrected
  repeat' (first | with_reducible assumption | ((with_reducible refine SameBoundary.update ?_ ?_ ?_ ?_ ?_) <;> first | with_reducible assumption | exact rfl) | with_reducible apply State.modSite_bound | with_reducible apply State.candidate_bound | ((try lift_lets); intro z; try (refine (have hz : SameBoundary s₀ z := ?_; ?_))) | split | dsimp -zeta only | subst z)

theorem State.storeLine_bound {s₀ s : State} (h₀ : SameBoundary s₀ s) (i : Nat) (line : Nat) (l : Line) : SameBoundary s₀ (State.storeLine s i line l) := by
  unfold State.storeLine
  repeat' (first | with_reducible assumption | ((with_reducible refine SameBoundary.update ?_ ?_ ?_ ?_ ?_) <;> first | with_reducible assumption | exact rfl) | with_reducible apply State.modSite_bound | ((try lift_lets); intro z; try (refine (have hz : SameBoundary s₀ z := ?_; ?_))) | split | subst z)

theorem State.fetchLine_bound {r s : State} (h : SameBoundary r s) (i line : Nat) (x : Xfer) : SameBoundary r (State.fetchLine s i line x).1 := by
  unfold State.fetchLine
  generalize readLine ((s.site i).line line) x = q
  dsimp only
  have c : ∀ z, SameBoundary r z → SameBoundary r (if q.corrected then
      (((z.modSite i fun z => z.putLine line q.line)).siteFault 0x0302 i line none none).corrected i line else z) := fun z hz => by
    split
    · exact State.corrected_bound (State.siteFault_bound (State.modSite_bound hz i _) _ _ _ _ _) _ _
    · exact hz
  split
  · refine State.candidate_bound ?_ _ _
    have k := State.siteFault_bound (State.storeLine_bound (c s h) i line q.line) 0x0303 i line none none
    split
    · exact State.siteFault_bound k _ _ _ _ _
    · exact k
  · exact c s h

theorem State.pokeSite_bound {s₀ s : State} (h₀ : SameBoundary s₀ s) (a : Nat) (v : W64) : SameBoundary s₀ (State.pokeSite s a v) := by
  unfold State.pokeSite
  repeat' (first | with_reducible assumption | ((with_reducible refine SameBoundary.update ?_ ?_ ?_ ?_ ?_) <;> first | with_reducible assumption | exact rfl) | with_reducible apply State.storeLine_bound | ((try lift_lets); intro z; try (refine (have hz : SameBoundary s₀ z := ?_; ?_))) | split | subst z)

theorem State.modLayer_bound {s₀ s : State} (h₀ : SameBoundary s₀ s) (p : Nat) (l : Nat) (f : RedLayer → RedLayer) : SameBoundary s₀ (State.modLayer s p l f) := by
  unfold State.modLayer
  repeat' (first | with_reducible assumption | ((with_reducible refine SameBoundary.update ?_ ?_ ?_ ?_ ?_) <;> first | with_reducible assumption | exact rfl) | with_reducible apply State.modPlan_bound | ((try lift_lets); intro z; try (refine (have hz : SameBoundary s₀ z := ?_; ?_))) | subst z)

theorem State.modRed_bound {s₀ s : State} (h₀ : SameBoundary s₀ s) (p : Nat) (f : RedWords → RedWords) : SameBoundary s₀ (State.modRed s p f) := by
  unfold State.modRed
  repeat' (first | with_reducible assumption | ((with_reducible refine SameBoundary.update ?_ ?_ ?_ ?_ ?_) <;> first | with_reducible assumption | exact rfl) | with_reducible apply State.modPlan_bound | ((try lift_lets); intro z; try (refine (have hz : SameBoundary s₀ z := ?_; ?_))) | subst z)

theorem State.redFault_bound {s₀ s : State} (h₀ : SameBoundary s₀ s) (code : Nat) (p : Nat) (layer : Nat) (round : Nat) (d1 : W64) : SameBoundary s₀ (State.redFault s code p layer round d1) := by
  unfold State.redFault
  repeat' (first | with_reducible assumption | with_reducible apply State.fault_bound)

theorem State.sealStands_bound {s₀ s : State} (h₀ : SameBoundary s₀ s) (p : Nat) (r : Rec) (k : Nat) (d : BitVec 2048) : SameBoundary s₀ (State.sealStands s p r k d) := by
  unfold State.sealStands
  repeat' (first | with_reducible assumption | ((with_reducible refine SameBoundary.update ?_ ?_ ?_ ?_ ?_) <;> first | with_reducible assumption | exact rfl) | with_reducible refine State.modFrm_bound ?_ _ rfl rfl rfl | with_reducible apply State.modLayer_bound | with_reducible apply State.modRed_bound | with_reducible apply State.redFault_bound | ((try lift_lets); intro z; try (refine (have hz : SameBoundary s₀ z := ?_; ?_))) | split | subst z)

theorem State.sealCheck_bound {s₀ s : State} (h₀ : SameBoundary s₀ s) (a : Nat) (d : BitVec 2048) : SameBoundary s₀ (State.sealCheck s a d) := by
  unfold State.sealCheck
  repeat' (first | with_reducible assumption | ((with_reducible refine SameBoundary.update ?_ ?_ ?_ ?_ ?_) <;> first | with_reducible assumption | exact rfl) | with_reducible apply State.modRed_bound | with_reducible apply State.sealStands_bound | with_reducible apply State.redFault_bound | ((try lift_lets); intro z; try (refine (have hz : SameBoundary s₀ z := ?_; ?_))) | split | subst z)

theorem State.journal_bound {s₀ s : State} (h₀ : SameBoundary s₀ s) (r : JrnRec) : SameBoundary s₀ (State.journal s r) := by
  unfold State.journal
  repeat' (first | with_reducible assumption | ((with_reducible refine SameBoundary.update ?_ ?_ ?_ ?_ ?_) <;> first | with_reducible assumption | exact rfl) | ((try lift_lets); intro z; try (refine (have hz : SameBoundary s₀ z := ?_; ?_))) | subst z)

theorem State.devEntry_bound {s₀ s : State} (h₀ : SameBoundary s₀ s) (body : Rec) : SameBoundary s₀ (State.devEntry s body) := by
  unfold State.devEntry
  repeat' (first | with_reducible assumption | with_reducible apply State.journal_bound)

theorem State.resumePoint_bound {s₀ s : State} (h₀ : SameBoundary s₀ s) (p : Nat) (gen : Nat) (g : Gen) (rewind : Bool) : SameBoundary s₀ (State.resumePoint s p gen g rewind) := by
  unfold State.resumePoint
  repeat' (first | with_reducible assumption | with_reducible apply State.devEntry_bound)

theorem State.sinkCheck_bound {s₀ s : State} (h₀ : SameBoundary s₀ s) (i : Nat) (line : Nat) (marks : BitVec 8) : SameBoundary s₀ (State.sinkCheck s i line marks).1 := by
  unfold State.sinkCheck
  repeat' (first | with_reducible assumption | ((with_reducible refine SameBoundary.update ?_ ?_ ?_ ?_ ?_) <;> first | with_reducible assumption | exact rfl) | with_reducible apply State.siteFault_bound | ((try lift_lets); intro z; try (refine (have hz : SameBoundary s₀ z := ?_; ?_))) | split | dsimp -zeta only | subst z)

theorem State.putData_bound {s₀ s : State} (h₀ : SameBoundary s₀ s) (i : Nat) (line : Nat) (d : BitVec 2048) (poison : Bool) : SameBoundary s₀ (State.putData s i line d poison) := by
  unfold State.putData
  repeat' (first | with_reducible assumption | with_reducible apply State.storeLine_bound | with_reducible apply State.sealCheck_bound | split)

theorem State.dropEntry_bound {s₀ s : State} (h₀ : SameBoundary s₀ s) (i : Nat) (line : Nat) : SameBoundary s₀ (State.dropEntry s i line) := by
  unfold State.dropEntry
  repeat' (first | with_reducible assumption | ((with_reducible refine SameBoundary.update ?_ ?_ ?_ ?_ ?_) <;> first | with_reducible assumption | exact rfl) | with_reducible apply State.modSite_bound | ((try lift_lets); intro z; try (refine (have hz : SameBoundary s₀ z := ?_; ?_))) | subst z)

theorem State.mergeEntry_bound {s₀ s : State} (h₀ : SameBoundary s₀ s) (i : Nat) (e : WcbEntry) (x : Xfer) (req : SiteReq) : SameBoundary s₀ (State.mergeEntry s i e x req).1 := by
  unfold State.mergeEntry
  repeat' (first | with_reducible assumption | with_reducible apply State.dropEntry_bound | with_reducible apply State.putData_bound | with_reducible apply State.fetchLine_bound | with_reducible apply State.gates_bound | ((try lift_lets); intro z; try (refine (have hz : SameBoundary s₀ z := ?_; ?_))) | split | dsimp -zeta only | refine SameBoundary.pair (by with_reducible assumption) ?_ | subst z)

theorem State.open_bound {s₀ s : State} (h₀ : SameBoundary s₀ s) (i : Nat) (line : Nat) (x : Xfer) (req : SiteReq) : SameBoundary s₀ (State.open s i line x req).1 := by
  unfold State.open
  repeat' (first | with_reducible assumption | ((with_reducible refine SameBoundary.update ?_ ?_ ?_ ?_ ?_) <;> first | with_reducible assumption | exact rfl) | with_reducible apply State.gate_bound | with_reducible apply State.mergeEntry_bound | ((try lift_lets); intro z; try (refine (have hz : SameBoundary s₀ z := ?_; ?_))) | split | dsimp -zeta only | refine SameBoundary.pair (by with_reducible assumption) ?_ | subst z)

theorem State.merge_bound {s₀ s : State} (h₀ : SameBoundary s₀ s) (i : Nat) (line : Nat) (x : Xfer) : SameBoundary s₀ (State.merge s i line x) := by
  unfold State.merge
  repeat' (first | with_reducible assumption | ((with_reducible refine SameBoundary.update ?_ ?_ ?_ ?_ ?_) <;> first | with_reducible assumption | exact rfl) | with_reducible apply State.gate_bound | with_reducible apply State.mergeEntry_bound | ((try lift_lets); intro z; try (refine (have hz : SameBoundary s₀ z := ?_; ?_))) | split | dsimp -zeta only | refine SameBoundary.pair (by with_reducible assumption) ?_ | subst z)

theorem State.serveRead_bound {s₀ s : State} (h₀ : SameBoundary s₀ s) (i : Nat) (line : Nat) (x : Xfer) : SameBoundary s₀ (State.serveRead s i line x).1 := by
  unfold State.serveRead
  repeat' (first | with_reducible assumption | ((with_reducible refine SameBoundary.update ?_ ?_ ?_ ?_ ?_) <;> first | with_reducible assumption | exact rfl) | with_reducible apply State.open_bound | with_reducible apply State.fetchLine_bound | with_reducible apply State.modSite_bound | with_reducible apply State.send_bound | ((try lift_lets); intro z; try (refine (have hz : SameBoundary s₀ z := ?_; ?_))) | split | dsimp -zeta only | refine SameBoundary.pair (by with_reducible assumption) ?_ | subst z)

theorem State.serveFull_bound {s₀ s : State} (h₀ : SameBoundary s₀ s) (i : Nat) (line : Nat) (d : BitVec 2048) (marks : BitVec 8) (plan : Option Nat) (x : Xfer) : SameBoundary s₀ (State.serveFull s i line d marks plan x) := by
  unfold State.serveFull
  repeat' (first | with_reducible assumption | with_reducible apply State.gate_bound | with_reducible apply State.sinkCheck_bound | with_reducible apply State.dropEntry_bound | with_reducible apply State.putData_bound | ((try lift_lets); intro z; try (refine (have hz : SameBoundary s₀ z := ?_; ?_))) | split | dsimp -zeta only | refine SameBoundary.pair (by with_reducible assumption) ?_ | subst z)

theorem State.servePart_bound {s₀ s : State} (h₀ : SameBoundary s₀ s) (i : Nat) (line : Nat) (d : BitVec 2048) (valid : BitVec 256) (marks : BitVec 8) (plan : Option Nat) : SameBoundary s₀ (State.servePart s i line d valid marks plan) := by
  unfold State.servePart
  repeat' (first | with_reducible assumption | ((with_reducible refine SameBoundary.update ?_ ?_ ?_ ?_ ?_) <;> first | with_reducible assumption | exact rfl) | with_reducible apply State.sinkCheck_bound | with_reducible apply State.modSite_bound | with_reducible apply State.merge_bound | with_reducible apply State.serveFull_bound | ((try lift_lets); intro z; try (refine (have hz : SameBoundary s₀ z := ?_; ?_))) | split | dsimp -zeta only | refine SameBoundary.pair (by with_reducible assumption) ?_ | subst z)

theorem State.checkAdd_bound {s₀ s : State} (h₀ : SameBoundary s₀ s) (area : RedArea) (sum : Int) : SameBoundary s₀ (State.checkAdd s area sum) := by
  unfold State.checkAdd
  repeat' (first | with_reducible assumption | ((with_reducible refine SameBoundary.update ?_ ?_ ?_ ?_ ?_) <;> first | with_reducible assumption | exact rfl) | with_reducible apply State.pokeSite_bound | ((try lift_lets); intro z; try (refine (have hz : SameBoundary s₀ z := ?_; ?_))) | split | subst z)

theorem State.addGood_bound {s₀ s : State} (h₀ : SameBoundary s₀ s) (p : Nat) (i : Nat) (line : Nat) (area : RedArea) (a : AddOut) (d : BitVec 2048) : SameBoundary s₀ (State.addGood s p i line area a d) := by
  unfold State.addGood
  repeat' (first | with_reducible assumption | with_reducible apply State.storeLine_bound | with_reducible apply State.checkAdd_bound | with_reducible apply State.redFault_bound | ((try lift_lets); intro z; try (refine (have hz : SameBoundary s₀ z := ?_; ?_))) | split | dsimp -zeta only | subst z)

theorem State.addInto_bound {s₀ s : State} (h₀ : SameBoundary s₀ s) (p : Nat) (i : Nat) (line : Nat) (area : RedArea) (xs : List Int) (marker : Int) (poison : Bool) (e1 : BitVec 2048) (e2 : BitVec 2048) (x : Xfer) : SameBoundary s₀ (State.addInto s p i line area xs marker poison e1 e2 x) := by
  unfold State.addInto
  repeat' (first | with_reducible assumption | ((with_reducible refine SameBoundary.update ?_ ?_ ?_ ?_ ?_) <;> first | with_reducible assumption | exact rfl) | with_reducible apply State.fetchLine_bound | with_reducible apply State.storeLine_bound | with_reducible apply State.siteFault_bound | with_reducible apply State.modRed_bound | with_reducible apply State.addGood_bound | with_reducible apply State.redFault_bound | ((try lift_lets); intro z; try (refine (have hz : SameBoundary s₀ z := ?_; ?_))) | split | dsimp -zeta only | refine SameBoundary.pair (by with_reducible assumption) ?_ | subst z)

theorem State.serveAcc16_bound {s₀ s : State} (h₀ : SameBoundary s₀ s) (p : Nat) (i : Nat) (line : Nat) (d : BitVec 2048) (poison : Bool) (a : AddIn) : SameBoundary s₀ (State.serveAcc16 s p i line d poison a) := by
  unfold State.serveAcc16
  repeat' (first | with_reducible assumption | ((with_reducible refine SameBoundary.update ?_ ?_ ?_ ?_ ?_) <;> first | with_reducible assumption | exact rfl) | with_reducible apply State.redFault_bound | with_reducible apply State.open_bound | with_reducible apply State.gates_bound | with_reducible apply State.addInto_bound | ((try lift_lets); intro z; try (refine (have hz : SameBoundary s₀ z := ?_; ?_))) | split | dsimp -zeta only | refine SameBoundary.pair (by with_reducible assumption) ?_ | subst z)

theorem State.serveAcc32_bound {s₀ s : State} (h₀ : SameBoundary s₀ s) (p : Nat) (i : Nat) (line : Nat) (d : BitVec 2048) (poison : Bool) (a : AddIn) : SameBoundary s₀ (State.serveAcc32 s p i line d poison a) := by
  unfold State.serveAcc32
  repeat' (first | with_reducible assumption | ((with_reducible refine SameBoundary.update ?_ ?_ ?_ ?_ ?_) <;> first | with_reducible assumption | exact rfl) | with_reducible apply State.redFault_bound | with_reducible apply State.open_bound | with_reducible apply State.gates_bound | with_reducible apply State.addInto_bound | ((try lift_lets); intro z; try (refine (have hz : SameBoundary s₀ z := ?_; ?_))) | split | dsimp -zeta only | refine SameBoundary.pair (by with_reducible assumption) ?_ | subst z)

theorem State.serveReq_bound {s₀ s : State} (h₀ : SameBoundary s₀ s) (i : Nat) (q : SiteReq) (a : AddIn) : SameBoundary s₀ (State.serveReq s i q a) := by
  unfold State.serveReq
  repeat' (first | with_reducible assumption | ((with_reducible refine SameBoundary.update ?_ ?_ ?_ ?_ ?_) <;> first | with_reducible assumption | exact rfl) | with_reducible apply State.serveRead_bound | with_reducible apply State.serveFull_bound | with_reducible apply State.servePart_bound | with_reducible apply State.serveAcc16_bound | with_reducible apply State.serveAcc32_bound | with_reducible apply State.merge_bound | ((try lift_lets); intro z; try (refine (have hz : SameBoundary s₀ z := ?_; ?_))) | split | dsimp -zeta only | refine SameBoundary.pair (by with_reducible assumption) ?_ | subst z)

theorem State.drain_bound {r s : State} (h : SameBoundary r s) (i n : Nat) : SameBoundary r (State.drain s i n) := by
  induction n generalizing s with
  | zero => exact h
  | succ n ih =>
    unfold State.drain
    split
    · exact h
    · split
      · exact h
      · exact ih (State.serveReq_bound (State.modSite_bound h _ _) _ _ _)

theorem State.stallEnd_bound {s₀ s : State} (h₀ : SameBoundary s₀ s) (i : Nat) : SameBoundary s₀ (State.stallEnd s i) := by
  unfold State.stallEnd
  repeat' (first | with_reducible assumption | ((with_reducible refine SameBoundary.update ?_ ?_ ?_ ?_ ?_) <;> first | with_reducible assumption | exact rfl) | with_reducible apply State.modSite_bound | ((try lift_lets); intro z; try (refine (have hz : SameBoundary s₀ z := ?_; ?_))) | split | subst z)

theorem State.stallNow_bound {s₀ s : State} (h₀ : SameBoundary s₀ s) (i : Nat) : SameBoundary s₀ (State.stallNow s i) := by
  unfold State.stallNow
  repeat' (first | with_reducible assumption | ((with_reducible refine SameBoundary.update ?_ ?_ ?_ ?_ ?_) <;> first | with_reducible assumption | exact rfl) | with_reducible apply State.stallEnd_bound | with_reducible apply State.modSite_bound | ((try lift_lets); intro z; try (refine (have hz : SameBoundary s₀ z := ?_; ?_))) | split | with_reducible refine SameBoundaryO.getD ?_ ?_ | subst z)

theorem State.drainSite_bound {s₀ s : State} (h₀ : SameBoundary s₀ s) (i : Nat) : SameBoundary s₀ (State.drainSite s i) := by
  unfold State.drainSite
  repeat' (first | with_reducible assumption | with_reducible apply State.drain_bound | with_reducible apply State.stallNow_bound)

theorem State.drainSites_bound {s₀ s : State} (h₀ : SameBoundary s₀ s) : SameBoundary s₀ (State.drainSites s) := by
  unfold State.drainSites
  repeat' (first | with_reducible assumption | with_reducible apply State.drainSite_bound | with_reducible refine SameBoundary.foldl (fun _ _ _ => ?_) _ ?_)

theorem State.enqueue_bound {s₀ s : State} (h₀ : SameBoundary s₀ s) (i : Nat) (q : SiteReq) (u : Option Nat) : SameBoundary s₀ (State.enqueue s i q u) := by
  unfold State.enqueue
  repeat' (first | with_reducible assumption | ((with_reducible refine SameBoundary.update ?_ ?_ ?_ ?_ ?_) <;> first | with_reducible assumption | exact rfl) | with_reducible apply State.modSite_bound | ((try lift_lets); intro z; try (refine (have hz : SameBoundary s₀ z := ?_; ?_))) | subst z)

theorem State.request_bound {s₀ s : State} (h₀ : SameBoundary s₀ s) (i : Nat) (q : SiteReq) (line : Nat) (plan : Option Nat) (a : AddIn) (u : Option Nat) : SameBoundary s₀ (State.request s i q line plan a u) := by
  unfold State.request
  repeat' (first | with_reducible assumption | ((with_reducible refine SameBoundary.update ?_ ?_ ?_ ?_ ?_) <;> first | with_reducible assumption | exact rfl) | with_reducible apply State.siteFault_bound | with_reducible apply State.meets_bound | with_reducible apply State.enqueue_bound | with_reducible apply State.drainSite_bound | with_reducible apply State.modSite_bound | with_reducible apply State.send_bound | with_reducible apply State.serveReq_bound | ((try lift_lets); intro z; try (refine (have hz : SameBoundary s₀ z := ?_; ?_))) | split | refine SameBoundary.pair (by with_reducible assumption) ?_ | subst z)

theorem State.modAcct_bound {s₀ s : State} (h₀ : SameBoundary s₀ s) (p : Nat) (c : Nat) (f : Acct → Acct) : SameBoundary s₀ (State.modAcct s p c f) := by
  unfold State.modAcct
  repeat' (first | with_reducible assumption | with_reducible apply State.modPort_bound)

theorem State.openAcct_bound {s₀ s : State} (h₀ : SameBoundary s₀ s) (p : Nat) (c : Nat) : SameBoundary s₀ (State.openAcct s p c) := by
  unfold State.openAcct
  repeat' (first | with_reducible assumption | ((with_reducible refine SameBoundary.update ?_ ?_ ?_ ?_ ?_) <;> first | with_reducible assumption | exact rfl) | with_reducible apply State.modPort_bound | with_reducible apply State.modAcct_bound | ((try lift_lets); intro z; try (refine (have hz : SameBoundary s₀ z := ?_; ?_))) | split | subst z)

theorem State.openAccts_bound {s₀ s : State} (h₀ : SameBoundary s₀ s) : SameBoundary s₀ (State.openAccts s) := by
  unfold State.openAccts
  repeat' (first | with_reducible assumption | with_reducible apply State.openAcct_bound | with_reducible refine SameBoundary.foldl (fun _ _ _ => ?_) _ ?_)

theorem State.closeEntry_bound {s₀ s : State} (h₀ : SameBoundary s₀ s) (p : Nat) (c : Nat) (sending : Bool) (q : Nat) (u : Nat) (n : Nat) : SameBoundary s₀ (State.closeEntry s p c sending q u n) := by
  unfold State.closeEntry
  repeat' (first | with_reducible assumption | ((with_reducible refine SameBoundary.update ?_ ?_ ?_ ?_ ?_) <;> first | with_reducible assumption | exact rfl) | with_reducible apply State.fault_bound | ((try lift_lets); intro z; try (refine (have hz : SameBoundary s₀ z := ?_; ?_))) | split | subst z)

theorem State.bookClose_bound {s₀ s : State} (h₀ : SameBoundary s₀ s) (p : Nat) (c : Nat) : SameBoundary s₀ (State.bookClose s p c) := by
  unfold State.bookClose
  repeat' (first | with_reducible assumption | with_reducible apply State.closeEntry_bound | ((try lift_lets); intro z; try (refine (have hz : SameBoundary s₀ z := ?_; ?_))) | split | subst z)

theorem State.sendLink_bound {s₀ s : State} (h₀ : SameBoundary s₀ s) (p : Nat) (f : LinkFrame) : SameBoundary s₀ (State.sendLink s p f) := by
  unfold State.sendLink
  repeat' (first | with_reducible assumption | ((with_reducible refine SameBoundary.update ?_ ?_ ?_ ?_ ?_) <;> first | with_reducible assumption | exact rfl) | with_reducible apply State.modPort_bound | with_reducible apply State.send_bound | ((try lift_lets); intro z; try (refine (have hz : SameBoundary s₀ z := ?_; ?_))) | subst z)

theorem State.hear_bound {s₀ s : State} (h₀ : SameBoundary s₀ s) (p : Nat) : SameBoundary s₀ (State.hear s p).1 := by
  unfold State.hear
  repeat' (first | with_reducible assumption | ((with_reducible refine SameBoundary.update ?_ ?_ ?_ ?_ ?_) <;> first | with_reducible assumption | exact rfl) | with_reducible apply State.modPort_bound | ((try lift_lets); intro z; try (refine (have hz : SameBoundary s₀ z := ?_; ?_))) | split | dsimp -zeta only | subst z)

theorem State.sendControl_bound {s₀ s : State} (h₀ : SameBoundary s₀ s) (p : Nat) : SameBoundary s₀ (State.sendControl s p) := by
  unfold State.sendControl
  repeat' (first | with_reducible assumption | ((with_reducible refine SameBoundary.update ?_ ?_ ?_ ?_ ?_) <;> first | with_reducible assumption | exact rfl) | with_reducible apply State.modPort_bound | with_reducible apply State.sendLink_bound | with_reducible refine SameBoundary.foldl (fun _ _ _ => ?_) _ ?_ | ((try lift_lets); intro z; try (refine (have hz : SameBoundary s₀ z := ?_; ?_))) | subst z)

theorem State.sendOther_bound {s₀ s : State} (h₀ : SameBoundary s₀ s) (p : Nat) (f : LinkFrame) : SameBoundary s₀ (State.sendOther s p f) := by
  unfold State.sendOther
  repeat' (first | with_reducible assumption | with_reducible apply State.sendControl_bound | with_reducible apply State.sendLink_bound | split)

theorem State.flood_bound {s₀ s : State} (h₀ : SameBoundary s₀ s) (but : Option Nat) (f : LinkFrame) : SameBoundary s₀ (State.flood s but f) := by
  unfold State.flood
  repeat' (first | with_reducible assumption | with_reducible apply State.sendLink_bound | with_reducible apply State.sendOther_bound | with_reducible refine SameBoundary.foldl (fun _ _ _ => ?_) _ ?_ | split)

theorem State.notify_bound {s₀ s : State} (h₀ : SameBoundary s₀ s) (m : Notice) : SameBoundary s₀ (State.notify s m) := by
  unfold State.notify
  repeat' (first | with_reducible assumption | ((with_reducible refine SameBoundary.update ?_ ?_ ?_ ?_ ?_) <;> first | with_reducible assumption | exact rfl) | with_reducible apply State.flood_bound | ((try lift_lets); intro z; try (refine (have hz : SameBoundary s₀ z := ?_; ?_))) | subst z)

theorem State.writeStore_bound {r s : State} (h : SameBoundary r s) (t off : Nat) (d : BitVec 2048) (marks : BitVec 8) :
    SameBoundary r (State.writeStore s t off d marks) := ⟨h.frame, h.phase, h.dirs, h.restart⟩

theorem State.deliver_bound {s₀ s : State} (h₀ : SameBoundary s₀ s) (p : Option Nat) (f : DataFrame) (a : AddIn) : SameBoundaryO s₀ (State.deliver s p f a) := by
  unfold State.deliver
  repeat' (first | with_reducible assumption | ((with_reducible refine SameBoundary.update ?_ ?_ ?_ ?_ ?_) <;> first | with_reducible assumption | exact rfl) | with_reducible apply State.accessRaise_bound | with_reducible apply State.issueToken_bound | with_reducible apply State.addToken_bound | with_reducible apply State.fault_bound | with_reducible apply State.writeStore_bound | with_reducible apply State.redFault_bound | with_reducible apply State.request_bound | ((try lift_lets); intro z; try (refine (have hz : SameBoundary s₀ z := ?_; ?_))) | split | dsimp -zeta only | with_reducible refine SameBoundaryO.some ?_ | with_reducible exact SameBoundaryO.none | refine SameBoundaryO.get ?_ (by with_reducible assumption) | subst z)

theorem State.relaySegment_bound {s₀ s : State} (h₀ : SameBoundary s₀ s) (p : Nat) (f : DataFrame) : SameBoundary s₀ (State.relaySegment s p f) := by
  unfold State.relaySegment
  repeat' (first | with_reducible assumption | ((with_reducible refine SameBoundary.update ?_ ?_ ?_ ?_ ?_) <;> first | with_reducible assumption | exact rfl) | with_reducible apply State.modPort_bound | ((try lift_lets); intro z; try (refine (have hz : SameBoundary s₀ z := ?_; ?_))) | split | subst z)

theorem State.acceptLine_bound {s₀ s : State} (h₀ : SameBoundary s₀ s) (p : Nat) (f : DataFrame) (a : AddIn) : SameBoundaryO s₀ (State.acceptLine s p f a) := by
  unfold State.acceptLine
  repeat' (first | with_reducible assumption | ((with_reducible refine SameBoundary.update ?_ ?_ ?_ ?_ ?_) <;> first | with_reducible assumption | exact rfl) | with_reducible apply State.relaySegment_bound | with_reducible apply State.deliver_bound | with_reducible apply State.modPort_bound | ((try lift_lets); intro z; try (refine (have hz : SameBoundary s₀ z := ?_; ?_))) | split | with_reducible refine SameBoundaryO.some ?_ | with_reducible exact SameBoundaryO.none | refine SameBoundaryO.get ?_ (by with_reducible assumption) | subst z)

theorem State.freeLine_bound {s₀ s : State} (h₀ : SameBoundary s₀ s) (p : Nat) (c : Nat) : SameBoundary s₀ (State.freeLine s p c) := by
  unfold State.freeLine
  repeat' (first | with_reducible assumption | ((with_reducible refine SameBoundary.update ?_ ?_ ?_ ?_ ?_) <;> first | with_reducible assumption | exact rfl) | with_reducible apply State.modAcct_bound | ((try lift_lets); intro z; try (refine (have hz : SameBoundary s₀ z := ?_; ?_))) | split | subst z)

theorem State.serveGust_bound {r s : State} (h : SameBoundary r s) (p : Nat) (a : AddIn) (fs kept : List DataFrame) (stuck : List Nat) :
    SameBoundary r (State.serveGust p a fs kept stuck s) := by
  induction fs generalizing s kept stuck with
  | nil => exact State.modPort_bound h _ _
  | cons f fs ih =>
    unfold State.serveGust
    split
    · exact ih h _ _
    · split
      · exact ih (State.freeLine_bound (SameBoundaryO.get (State.acceptLine_bound h _ _ _) (by assumption)) _ _) _ _
      · exact ih h _ _

theorem State.drainGust_bound {s₀ s : State} (h₀ : SameBoundary s₀ s) (p : Nat) (a : AddIn) : SameBoundary s₀ (State.drainGust s p a) := by
  unfold State.drainGust
  repeat' (first | with_reducible assumption | with_reducible apply State.serveGust_bound)

theorem State.originate_bound {s₀ s : State} (h₀ : SameBoundary s₀ s) (f : DataFrame) (a : AddIn) : SameBoundary s₀ (State.originate s f a) := by
  unfold State.originate
  repeat' (first | with_reducible assumption | ((with_reducible refine SameBoundary.update ?_ ?_ ?_ ?_ ?_) <;> first | with_reducible assumption | exact rfl) | with_reducible apply State.modPort_bound | with_reducible apply State.drainGust_bound | ((try lift_lets); intro z; try (refine (have hz : SameBoundary s₀ z := ?_; ?_))) | split | subst z)

theorem State.convey_bound {s₀ s : State} (h₀ : SameBoundary s₀ s) (v : Variant) (f : DataFrame) : SameBoundary s₀ (State.convey s v f) := by
  unfold State.convey
  repeat' (first | with_reducible assumption | ((with_reducible refine SameBoundary.update ?_ ?_ ?_ ?_ ?_) <;> first | with_reducible assumption | exact rfl) | with_reducible apply State.modPort_bound | ((try lift_lets); intro z; try (refine (have hz : SameBoundary s₀ z := ?_; ?_))) | split | subst z)

theorem State.relayOut_bound {s₀ s : State} (h₀ : SameBoundary s₀ s) (dest : Nat) (bs : List Byte) : SameBoundary s₀ (State.relayOut s dest bs) := by
  unfold State.relayOut
  repeat' (first | with_reducible assumption | with_reducible apply State.originate_bound | with_reducible refine SameBoundary.foldl (fun _ _ _ => ?_) _ ?_ | split)

theorem State.txdg_bound {s₀ s : State} (h₀ : SameBoundary s₀ s) (port : Nat) : SameBoundary s₀ (State.txdg s port) := by
  unfold State.txdg
  repeat' (first | with_reducible assumption | ((with_reducible refine SameBoundary.update ?_ ?_ ?_ ?_ ?_) <;> first | with_reducible assumption | exact rfl) | ((try lift_lets); intro z; try (refine (have hz : SameBoundary s₀ z := ?_; ?_))) | split | subst z)

theorem State.hostSend_bound {s₀ s : State} (h₀ : SameBoundary s₀ s) (o : Out) (bs : List Byte) : SameBoundary s₀ (State.hostSend s o bs) := by
  unfold State.hostSend
  repeat' (first | with_reducible assumption | with_reducible apply State.txdg_bound | with_reducible apply State.send_bound | with_reducible apply State.relayOut_bound | split)

theorem State.setIn_bound {s₀ s : State} (h₀ : SameBoundary s₀ s) (x : InStream) : SameBoundary s₀ (State.setIn s x) := by
  unfold State.setIn
  repeat' (first | with_reducible assumption | ((with_reducible refine SameBoundary.update ?_ ?_ ?_ ?_ ?_) <;> first | with_reducible assumption | exact rfl) | ((try lift_lets); intro z; try (refine (have hz : SameBoundary s₀ z := ?_; ?_))) | subst z)

theorem State.newEpoch_bound {s₀ s : State} (h₀ : SameBoundary s₀ s) (n : Nat) : SameBoundary s₀ (State.newEpoch s n) := by
  unfold State.newEpoch
  repeat' (first | with_reducible assumption | ((with_reducible refine SameBoundary.update ?_ ?_ ?_ ?_ ?_) <;> first | with_reducible assumption | exact rfl) | with_reducible apply State.setIn_bound | ((try lift_lets); intro z; try (refine (have hz : SameBoundary s₀ z := ?_; ?_))) | subst z)

theorem State.modOut_bound {s₀ s : State} (h₀ : SameBoundary s₀ s) (n : Nat) (f : OutStream → OutStream) : SameBoundary s₀ (State.modOut s n f) := by
  unfold State.modOut
  repeat' (first | with_reducible assumption | ((with_reducible refine SameBoundary.update ?_ ?_ ?_ ?_ ?_) <;> first | with_reducible assumption | exact rfl) | ((try lift_lets); intro z; try (refine (have hz : SameBoundary s₀ z := ?_; ?_))) | subst z)

theorem State.pump_bound {r s : State} (h : SameBoundary r s) (n k : Nat) : SameBoundary r (State.pump s n k) := by
  induction k generalizing s with
  | zero => exact h
  | succ k ih =>
    unfold State.pump
    split
    · split
      · exact h
      · split
        · exact h
        · exact ih (State.hostSend_bound (State.modOut_bound h _ _) _ _)
    · exact h

theorem State.sinkFault_bound {s₀ s : State} (h₀ : SameBoundary s₀ s) (p : Nat) (a : Nat) : SameBoundary s₀ (State.sinkFault s p a) := by
  unfold State.sinkFault
  repeat' (first | with_reducible assumption | with_reducible apply State.fault_bound | split)

theorem State.outflow_bound {s₀ s : State} (h₀ : SameBoundary s₀ s) (n : Nat) (kind : Nat) (plan : Nat) (step : W48) (bs : List Byte) : SameBoundary s₀ (State.outflow s n kind plan step bs) := by
  unfold State.outflow
  repeat' (first | with_reducible assumption | ((with_reducible refine SameBoundary.update ?_ ?_ ?_ ?_ ?_) <;> first | with_reducible assumption | exact rfl) | with_reducible apply State.modOut_bound | with_reducible apply State.pump_bound | ((try lift_lets); intro z; try (refine (have hz : SameBoundary s₀ z := ?_; ?_))) | subst z)

theorem State.newOutEpoch_bound {s₀ s : State} (h₀ : SameBoundary s₀ s) (n : Nat) : SameBoundary s₀ (State.newOutEpoch s n) := by
  unfold State.newOutEpoch
  repeat' (first | with_reducible assumption | ((with_reducible refine SameBoundary.update ?_ ?_ ?_ ?_ ?_) <;> first | with_reducible assumption | exact rfl) | with_reducible apply State.modOut_bound | with_reducible apply State.pump_bound | ((try lift_lets); intro z; try (refine (have hz : SameBoundary s₀ z := ?_; ?_))) | split | subst z)

/-- Every state that the outcome carries. -/
structure SameBoundaryA (r : State) (a : Access) : Prop where
  all : ∀ t, (a = .wait t ∨ a = .ok t) → SameBoundary r t

theorem SameBoundaryA.ofFault {r : State} {c a : Nat} : SameBoundaryA r (.fault c a) := ⟨fun t e => by simp at e⟩
theorem SameBoundaryA.ofWait {r t : State} (h : SameBoundary r t) : SameBoundaryA r (.wait t) := ⟨fun u e => by simp at e; exact e ▸ h⟩
theorem SameBoundaryA.ofOk {r t : State} (h : SameBoundary r t) : SameBoundaryA r (.ok t) := ⟨fun u e => by simp at e; exact e ▸ h⟩
theorem SameBoundaryA.wait {r t : State} {a : Access} (h : SameBoundaryA r a) (e : a = .wait t) : SameBoundary r t := h.all t (.inl e)
theorem SameBoundaryA.ok {r t : State} {a : Access} (h : SameBoundaryA r a) (e : a = .ok t) : SameBoundary r t := h.all t (.inr e)

/-- Every state that the outcome carries. -/
structure SameBoundaryB (r : State) (a : BlockRead) : Prop where
  all : ∀ t, (a = .wait t ∨ ∃ b, a = .ok t b) → SameBoundary r t

theorem SameBoundaryB.ofFault {r : State} {c a : Nat} : SameBoundaryB r (.fault c a) := ⟨fun t e => by simp at e⟩
theorem SameBoundaryB.ofWait {r t : State} (h : SameBoundary r t) : SameBoundaryB r (.wait t) := ⟨fun u e => by simp at e; exact e ▸ h⟩
theorem SameBoundaryB.ofOk {r t : State} {b : BlockIn} (h : SameBoundary r t) : SameBoundaryB r (.ok t b) := ⟨fun u e => by simp at e; exact e ▸ h⟩
theorem SameBoundaryB.wait {r t : State} {a : BlockRead} (h : SameBoundaryB r a) (e : a = .wait t) : SameBoundary r t := h.all t (.inl e)
theorem SameBoundaryB.ok {r t : State} {b : BlockIn} {a : BlockRead} (h : SameBoundaryB r a) (e : a = .ok t b) : SameBoundary r t := h.all t (.inr ⟨b, e⟩)

theorem State.takeLine_bound {s₀ s : State} (h₀ : SameBoundary s₀ s) (n : Nat) : SameBoundary s₀ (State.takeLine s n).1 := by
  unfold State.takeLine
  repeat' (first | with_reducible assumption | ((with_reducible refine SameBoundary.update ?_ ?_ ?_ ?_ ?_) <;> first | with_reducible assumption | exact rfl) | with_reducible apply State.open_bound | with_reducible apply State.fetchLine_bound | with_reducible apply State.modSite_bound | with_reducible refine SameBoundary.foldl (fun _ _ _ => ?_) _ ?_ | ((try lift_lets); intro z; try (refine (have hz : SameBoundary s₀ z := ?_; ?_))) | split | dsimp -zeta only | refine SameBoundary.pair (by with_reducible assumption) ?_ | subst z)

theorem State.takeLines_bound {r s : State} (h : SameBoundary r s) (ns : List Nat) : SameBoundary r (State.takeLines s ns).1 := by
  have k : ∀ (x : State × Lines), SameBoundary r x.1 →
      SameBoundary r (ns.foldl (fun x n => let r := x.1.takeLine n; (r.1, x.2 ++ [r.2])) x).1 := by
    induction ns with
    | nil => exact fun x hx => hx
    | cons n ns ih => exact fun x hx => ih _ (State.takeLine_bound hx n)
  exact k (s, []) h

theorem State.takePlace_bound {s₀ s : State} (h₀ : SameBoundary s₀ s) (u : Nat) (p : Nat) (ns : List Nat) : SameBoundary s₀ (State.takePlace s u p ns) := by
  unfold State.takePlace
  repeat' (first | with_reducible assumption | ((with_reducible refine SameBoundary.update ?_ ?_ ?_ ?_ ?_) <;> first | with_reducible assumption | exact rfl) | with_reducible apply State.modSite_bound | with_reducible refine SameBoundary.foldl (fun _ _ _ => ?_) _ ?_ | ((try lift_lets); intro z; try (refine (have hz : SameBoundary s₀ z := ?_; ?_))) | split | subst z)

theorem State.leavePlace_bound {s₀ s : State} (h₀ : SameBoundary s₀ s) (u : Nat) : SameBoundary s₀ (State.leavePlace s u) := by
  unfold State.leavePlace
  repeat' (first | with_reducible assumption | ((with_reducible refine SameBoundary.update ?_ ?_ ?_ ?_ ?_) <;> first | with_reducible assumption | exact rfl) | with_reducible apply State.modSite_bound | with_reducible refine SameBoundary.foldl (fun _ _ _ => ?_) _ ?_ | ((try lift_lets); intro z; try (refine (have hz : SameBoundary s₀ z := ?_; ?_))) | split | subst z)

theorem State.edcLines_bound {s₀ s : State} (h₀ : SameBoundary s₀ s) (ns : List Nat) (more : Nat) : SameBoundary s₀ (State.edcLines s ns more) := by
  unfold State.edcLines
  repeat' (first | with_reducible assumption | ((with_reducible refine SameBoundary.update ?_ ?_ ?_ ?_ ?_) <;> first | with_reducible assumption | exact rfl) | with_reducible apply State.modSite_bound | with_reducible apply State.edcRetries_bound | with_reducible apply State.holdSite_bound | with_reducible refine SameBoundary.foldl (fun _ _ _ => ?_) _ ?_ | ((try lift_lets); intro z; try (refine (have hz : SameBoundary s₀ z := ?_; ?_))) | split | dsimp -zeta only | subst z)

theorem State.access_bound {s₀ s : State} (h₀ : SameBoundary s₀ s) (u : Nat) (plan : Nat) (ns : List Nat) (es : List Nat) : SameBoundaryA s₀ (State.access s u plan ns es) := by
  unfold State.access
  repeat' (first | with_reducible assumption | ((with_reducible refine SameBoundary.update ?_ ?_ ?_ ?_ ?_) <;> first | with_reducible assumption | exact rfl) | with_reducible apply State.fault_bound | with_reducible apply State.takePlace_bound | with_reducible apply State.edcLines_bound | ((try lift_lets); intro z; try (refine (have hz : SameBoundary s₀ z := ?_; ?_))) | split | dsimp -zeta only | with_reducible refine SameBoundaryA.ofOk ?_ | with_reducible refine SameBoundaryA.ofWait ?_ | with_reducible exact SameBoundaryA.ofFault | subst z)

theorem State.readBlock_bound {s₀ s : State} (h₀ : SameBoundary s₀ s) (u : Nat) (plan : Nat) (p : Plan) (d : Desc) (ps : List (Option (List Nat))) (ss : List (Option (List Nat))) : SameBoundaryB s₀ (State.readBlock s u plan p d ps ss) := by
  unfold State.readBlock
  repeat' (first | with_reducible assumption | ((with_reducible refine SameBoundary.update ?_ ?_ ?_ ?_ ?_) <;> first | with_reducible assumption | exact rfl) | with_reducible apply State.access_bound | with_reducible apply State.fault_bound | with_reducible apply State.takeLines_bound | ((try lift_lets); intro z; try (refine (have hz : SameBoundary s₀ z := ?_; ?_))) | split | dsimp -zeta only | refine SameBoundary.pair (by with_reducible assumption) ?_ | with_reducible refine SameBoundaryA.ok ?_ (by with_reducible assumption) | with_reducible refine SameBoundaryA.wait ?_ (by with_reducible assumption) | with_reducible refine SameBoundaryB.ofOk ?_ | with_reducible refine SameBoundaryB.ofWait ?_ | with_reducible exact SameBoundaryB.ofFault | subst z)

theorem State.putLine_bound {r s : State} (h : SameBoundary r s) (u : Option Nat) (plan : Nat) (l : LineOut) : SameBoundary r (State.putLine s u plan l) := by
  unfold State.putLine
  split
  · refine SameBoundary.foldl (fun z w hz => ?_) _ h
    dsimp only
    split
    · exact hz
    · exact ⟨hz.frame, hz.phase, hz.dirs, hz.restart⟩
  · exact State.request_bound h _ _ _ _ _ _
  · exact h

theorem State.putBytes_bound {s₀ s : State} (h₀ : SameBoundary s₀ s) (u : Option Nat) (plan : Nat) (bs : List ByteOut) : SameBoundary s₀ (State.putBytes s u plan bs) := by
  unfold State.putBytes
  repeat' (first | with_reducible assumption | with_reducible apply State.putLine_bound | with_reducible refine SameBoundary.foldl (fun _ _ _ => ?_) _ ?_)

theorem State.writable_bound {s₀ s : State} (h₀ : SameBoundary s₀ s) (u : Nat) (plan : Nat) (bs : List ByteOut) : SameBoundaryA s₀ (State.writable s u plan bs) := by
  unfold State.writable
  repeat' (first | with_reducible assumption | with_reducible apply State.access_bound | ((try lift_lets); intro z; try (refine (have hz : SameBoundary s₀ z := ?_; ?_))) | with_reducible refine SameBoundaryA.ok ?_ (by with_reducible assumption) | with_reducible refine SameBoundaryA.wait ?_ (by with_reducible assumption) | with_reducible refine SameBoundaryA.ofOk ?_ | with_reducible refine SameBoundaryA.ofWait ?_ | with_reducible exact SameBoundaryA.ofFault | subst z)

theorem State.finishXfer_bound {s₀ s : State} (h₀ : SameBoundary s₀ s) (u : Nat) (plan : Nat) (bs : List ByteOut) : SameBoundary s₀ (State.finishXfer s u plan bs) := by
  unfold State.finishXfer
  repeat' (first | with_reducible assumption | with_reducible apply State.putBytes_bound | with_reducible apply State.leavePlace_bound | with_reducible apply State.drainSites_bound)

theorem State.laneUpdate_bound {s₀ s : State} (h₀ : SameBoundary s₀ s) (l : Nat) : SameBoundary s₀ (State.laneUpdate s l) := by
  unfold State.laneUpdate
  repeat' (first | with_reducible assumption | ((with_reducible refine SameBoundary.update ?_ ?_ ?_ ?_ ?_) <;> first | with_reducible assumption | exact rfl) | with_reducible apply idle_bound | with_reducible apply State.setLane_bound | with_reducible refine SameBoundary.foldl (fun _ _ _ => ?_) _ ?_ | ((try lift_lets); intro z; try (refine (have hz : SameBoundary s₀ z := ?_; ?_))) | split | subst z)

theorem State.inkFault_bound {s₀ s : State} (h₀ : SameBoundary s₀ s) (code : Nat) (l : Nat) (seq : W48) : SameBoundary s₀ (State.inkFault s code l seq) := by
  unfold State.inkFault
  repeat' (first | with_reducible assumption | with_reducible apply State.fault_bound)

theorem State.emptyLane_bound {s₀ s : State} (h₀ : SameBoundary s₀ s) (l : Nat) : SameBoundary s₀ (State.emptyLane s l) := by
  unfold State.emptyLane
  repeat' (first | with_reducible assumption | ((with_reducible refine SameBoundary.update ?_ ?_ ?_ ?_ ?_) <;> first | with_reducible assumption | exact rfl) | with_reducible apply State.modLane_bound | with_reducible apply State.laneUpdate_bound | ((try lift_lets); intro z; try (refine (have hz : SameBoundary s₀ z := ?_; ?_))) | subst z)

theorem State.emptyLanes_bound {s₀ s : State} (h₀ : SameBoundary s₀ s) (p : Nat) : SameBoundary s₀ (State.emptyLanes s p) := by
  unfold State.emptyLanes
  repeat' (first | with_reducible assumption | with_reducible apply State.emptyLane_bound | with_reducible refine SameBoundary.foldl (fun _ _ _ => ?_) _ ?_)

theorem State.stageWrite_bound {s₀ s : State} (h₀ : SameBoundary s₀ s) (plan : Nat) (a : Nat) (bs : List Byte) : SameBoundary s₀ (State.stageWrite s plan a bs) := by
  unfold State.stageWrite
  repeat' (first | with_reducible assumption | with_reducible apply State.putBytes_bound | dsimp -zeta only)

theorem State.readyToken_bound {s₀ s : State} (h₀ : SameBoundary s₀ s) (l : Nat) : SameBoundary s₀ (State.readyToken s l) := by
  unfold State.readyToken
  repeat' (first | with_reducible assumption | ((with_reducible refine SameBoundary.update ?_ ?_ ?_ ?_ ?_) <;> first | with_reducible assumption | exact rfl) | with_reducible apply State.modTile_bound | with_reducible refine SameBoundary.foldl (fun _ _ _ => ?_) _ ?_ | ((try lift_lets); intro z; try (refine (have hz : SameBoundary s₀ z := ?_; ?_))) | split | subst z)

theorem State.batchDone_bound {s₀ s : State} (h₀ : SameBoundary s₀ s) (l : Nat) : SameBoundary s₀ (State.batchDone s l) := by
  unfold State.batchDone
  repeat' (first | with_reducible assumption | ((with_reducible refine SameBoundary.update ?_ ?_ ?_ ?_ ?_) <;> first | with_reducible assumption | exact rfl) | with_reducible apply State.modLane_bound | with_reducible apply State.send_bound | with_reducible apply State.outflow_bound | with_reducible apply State.readyToken_bound | ((try lift_lets); intro z; try (refine (have hz : SameBoundary s₀ z := ?_; ?_))) | dsimp -zeta only | subst z)

theorem State.stagePos_bound {s₀ s : State} (h₀ : SameBoundary s₀ s) (l : Nat) (flags : Nat) (e0 : Nat) (e1 : Nat) (data : List Byte) (m : ManEntry) : SameBoundary s₀ (State.stagePos s l flags e0 e1 data m) := by
  unfold State.stagePos
  repeat' (first | with_reducible assumption | ((with_reducible refine SameBoundary.update ?_ ?_ ?_ ?_ ?_) <;> first | with_reducible assumption | exact rfl) | with_reducible apply State.stageWrite_bound | with_reducible apply State.modLane_bound | with_reducible apply State.batchDone_bound | ((try lift_lets); intro z; try (refine (have hz : SameBoundary s₀ z := ?_; ?_))) | split | dsimp -zeta only | subst z)

theorem State.placeRecord_bound {s₀ s : State} (h₀ : SameBoundary s₀ s) (l : Nat) (flags : Nat) (x : Pending) (m : ManEntry) : SameBoundary s₀ (State.placeRecord s l flags x m) := by
  unfold State.placeRecord
  repeat' (first | with_reducible assumption | ((with_reducible refine SameBoundary.update ?_ ?_ ?_ ?_ ?_) <;> first | with_reducible assumption | exact rfl) | with_reducible apply State.modLane_bound | with_reducible apply State.stagePos_bound | ((try lift_lets); intro z; try (refine (have hz : SameBoundary s₀ z := ?_; ?_))) | dsimp -zeta only | subst z)

theorem State.dropFrames_bound {s₀ s : State} (h₀ : SameBoundary s₀ s) (l : Nat) (n : Nat) : SameBoundary s₀ (State.dropFrames s l n) := by
  unfold State.dropFrames
  repeat' (first | with_reducible assumption | ((with_reducible refine SameBoundary.update ?_ ?_ ?_ ?_ ?_) <;> first | with_reducible assumption | exact rfl) | with_reducible apply State.modLane_bound | ((try lift_lets); intro z; try (refine (have hz : SameBoundary s₀ z := ?_; ?_))) | subst z)

theorem State.setSensor_bound {s₀ s : State} (h₀ : SameBoundary s₀ s) (l : Nat) (k : Nat) (q : List Pending) : SameBoundary s₀ (State.setSensor s l k q) := by
  unfold State.setSensor
  repeat' (first | with_reducible assumption | ((with_reducible refine SameBoundary.update ?_ ?_ ?_ ?_ ?_) <;> first | with_reducible assumption | exact rfl) | with_reducible apply State.modLane_bound | ((try lift_lets); intro z; try (refine (have hz : SameBoundary s₀ z := ?_; ?_))) | subst z)

theorem State.sensorAbsent_bound {s₀ s : State} (h₀ : SameBoundary s₀ s) (l : Nat) : SameBoundary s₀ (State.sensorAbsent s l) := by
  unfold State.sensorAbsent
  repeat' (first | with_reducible assumption | ((with_reducible refine SameBoundary.update ?_ ?_ ?_ ?_ ?_) <;> first | with_reducible assumption | exact rfl) | with_reducible apply State.modLane_bound | with_reducible apply State.inkFault_bound | with_reducible apply State.stagePos_bound | ((try lift_lets); intro z; try (refine (have hz : SameBoundary s₀ z := ?_; ?_))) | subst z)

theorem State.placeSensor_bound {s₀ s : State} (h₀ : SameBoundary s₀ s) (l : Nat) (src : Nat) (reason : Nat) (flags : Nat) (y : Pending) : SameBoundary s₀ (State.placeSensor s l src reason flags y) := by
  unfold State.placeSensor
  repeat' (first | with_reducible assumption | ((with_reducible refine SameBoundary.update ?_ ?_ ?_ ?_ ?_) <;> first | with_reducible assumption | exact rfl) | with_reducible apply State.modLane_bound | with_reducible apply State.stagePos_bound | with_reducible apply State.placeRecord_bound | ((try lift_lets); intro z; try (refine (have hz : SameBoundary s₀ z := ?_; ?_))) | split | subst z)

theorem State.decideSensor_bound {s₀ s : State} (h₀ : SameBoundary s₀ s) (l : Nat) : SameBoundary s₀ (State.decideSensor s l) := by
  unfold State.decideSensor
  dsimp only
  repeat' (first | with_reducible assumption | ((with_reducible refine SameBoundary.update ?_ ?_ ?_ ?_ ?_) <;> first | with_reducible assumption | exact rfl) | with_reducible apply State.sensorAbsent_bound | with_reducible apply State.setSensor_bound | with_reducible apply State.placeSensor_bound | with_reducible apply State.inkFault_bound | with_reducible apply State.dropFrames_bound | ((try lift_lets); intro z; try (refine (have hz : SameBoundary s₀ z := ?_; ?_))) | split | dsimp -zeta only | subst z)

theorem State.sensorTick_bound {s₀ s : State} (h₀ : SameBoundary s₀ s) (l : Nat) : SameBoundary s₀ (State.sensorTick s l) := by
  unfold State.sensorTick
  repeat' (first | with_reducible assumption | with_reducible apply State.decideSensor_bound | with_reducible apply State.laneUpdate_bound | with_reducible refine SameBoundary.foldl (fun _ _ _ => ?_) _ ?_ | ((try lift_lets); intro z; try (refine (have hz : SameBoundary s₀ z := ?_; ?_))) | split | subst z)

theorem State.intakeTick_bound {s₀ s : State} (h₀ : SameBoundary s₀ s) : SameBoundary s₀ (State.intakeTick s) := by
  unfold State.intakeTick
  repeat' (first | with_reducible assumption | with_reducible apply State.sensorTick_bound | with_reducible apply State.readyToken_bound | with_reducible refine SameBoundary.foldl (fun _ _ _ => ?_) _ ?_ | split)

theorem State.stepLanes_bound {s₀ s : State} (h₀ : SameBoundary s₀ s) (p : Nat) : SameBoundary s₀ (State.stepLanes s p) := by
  unfold State.stepLanes
  repeat' (first | with_reducible assumption | ((with_reducible refine SameBoundary.update ?_ ?_ ?_ ?_ ?_) <;> first | with_reducible assumption | exact rfl) | with_reducible apply State.modLane_bound | with_reducible refine SameBoundary.foldl (fun _ _ _ => ?_) _ ?_ | ((try lift_lets); intro z; try (refine (have hz : SameBoundary s₀ z := ?_; ?_))) | subst z)

theorem State.discardLines_bound {s₀ s : State} (h₀ : SameBoundary s₀ s) (p : Nat) (c : Nat) : SameBoundary s₀ (State.discardLines s p c) := by
  unfold State.discardLines
  repeat' (first | with_reducible assumption | ((with_reducible refine SameBoundary.update ?_ ?_ ?_ ?_ ?_) <;> first | with_reducible assumption | exact rfl) | with_reducible apply State.modPort_bound | with_reducible apply State.modAcct_bound | ((try lift_lets); intro z; try (refine (have hz : SameBoundary s₀ z := ?_; ?_))) | split | subst z)

theorem State.closePlan_bound {s₀ s : State} (h₀ : SameBoundary s₀ s) (c : Nat) : SameBoundary s₀ (State.closePlan s c) := by
  unfold State.closePlan
  repeat' (first | with_reducible assumption | with_reducible apply State.bookClose_bound | with_reducible apply State.discardLines_bound | with_reducible apply State.sendControl_bound | with_reducible apply State.modAcct_bound | with_reducible refine SameBoundary.foldl (fun _ _ _ => ?_) _ ?_ | ((try lift_lets); intro z; try (refine (have hz : SameBoundary s₀ z := ?_; ?_))) | split | subst z)

theorem State.undoGrants_bound {r s : State} (h : SameBoundary r s) (p : Nat) : SameBoundary r (State.undoGrants s p) := by
  unfold State.undoGrants
  refine State.modFrm_bound h _ ?_ ?_ ?_ <;> (dsimp only; split <;> rfl)

theorem State.modFrm_bounds {r s : State} (h : SameBoundary r s) {g : Frm → Frm}
    (hg : ∀ f, (g f).frame = f.frame ∧ (g f).phase = f.phase ∧ (g f).agreedDirs = f.agreedDirs) : SameBoundary r (s.modFrm g) :=
  State.modFrm_bound h g (hg _).1 (hg _).2.1 (hg _).2.2

theorem State.withdraw_bound {r s : State} (h : SameBoundary r s) (p : Nat) : SameBoundary r (State.withdraw s p) := by
  unfold State.withdraw
  dsimp only
  split
  · refine State.modFrm_bounds (State.undoGrants_bound (State.emptyLanes_bound (State.closePlan_bound
      (State.modPlan_bound (State.stopPlan_bound h p) p _) p) p) p) fun f => ?_
    split <;> exact ⟨rfl, rfl, rfl⟩
  · exact h

theorem State.adopt_bound {s₀ s : State} (h₀ : SameBoundary s₀ s) (ranks : List Presence) (links : List Nat) (variants : List Nat) : SameBoundary s₀ (State.adopt s ranks links variants) := by
  unfold State.adopt
  repeat' (first | with_reducible assumption | ((with_reducible refine SameBoundary.update ?_ ?_ ?_ ?_ ?_) <;> first | with_reducible assumption | exact rfl) | with_reducible apply State.modPlan_bound | with_reducible refine State.modFrm_bound ?_ _ rfl rfl rfl | with_reducible refine SameBoundary.foldl (fun _ _ _ => ?_) _ ?_ | ((try lift_lets); intro z; try (refine (have hz : SameBoundary s₀ z := ?_; ?_))) | split | subst z)

theorem State.split_bound {s₀ s : State} (h₀ : SameBoundary s₀ s) : SameBoundary s₀ (State.split s) := by
  unfold State.split
  repeat' (first | with_reducible assumption | with_reducible apply State.fault_bound)

theorem roster_bound {s₀ s : State} (h₀ : SameBoundary s₀ s) (p : Nat) (r : RosterIn) : SameBoundary s₀ (roster p r s) := by
  unfold roster
  repeat' (first | with_reducible assumption | with_reducible apply State.hear_bound | with_reducible apply State.adopt_bound | with_reducible apply State.flood_bound | with_reducible apply State.split_bound | ((try lift_lets); intro z; try (refine (have hz : SameBoundary s₀ z := ?_; ?_))) | split | dsimp -zeta only | refine SameBoundary.pair (by with_reducible assumption) ?_ | subst z)

theorem State.setCw_bound {s₀ s : State} (h₀ : SameBoundary s₀ s) (q : Plan) (i : Nat) (v : W32) : SameBoundary s₀ (State.setCw s q i v) := by
  unfold State.setCw
  repeat' (first | with_reducible assumption | ((with_reducible refine SameBoundary.update ?_ ?_ ?_ ?_ ?_) <;> first | with_reducible assumption | exact rfl) | with_reducible apply State.modTile_bound | with_reducible refine SameBoundary.foldl (fun _ _ _ => ?_) _ ?_ | ((try lift_lets); intro z; try (refine (have hz : SameBoundary s₀ z := ?_; ?_))) | split | subst z)

theorem State.commitLayer_bound {s₀ s : State} (h₀ : SameBoundary s₀ s) (p : Nat) (q : Plan) (v : Variant) (r : Rec) : SameBoundary s₀ (State.commitLayer s p q v r) := by
  unfold State.commitLayer
  repeat' (first | with_reducible assumption | ((with_reducible refine SameBoundary.update ?_ ?_ ?_ ?_ ?_) <;> first | with_reducible assumption | exact rfl) | with_reducible apply State.setCw_bound | with_reducible apply State.modLayer_bound | with_reducible apply State.modRed_bound | ((try lift_lets); intro z; try (refine (have hz : SameBoundary s₀ z := ?_; ?_))) | split | subst z)

theorem State.startRound_bound {s₀ s : State} (h₀ : SameBoundary s₀ s) (p : Nat) (q : Plan) (r : Rec) : SameBoundary s₀ (State.startRound s p q r) := by
  unfold State.startRound
  repeat' (first | with_reducible assumption | ((with_reducible refine SameBoundary.update ?_ ?_ ?_ ?_ ?_) <;> first | with_reducible assumption | exact rfl) | with_reducible apply State.setCw_bound | with_reducible apply State.modLayer_bound | with_reducible apply State.modRed_bound | with_reducible apply State.redFault_bound | ((try lift_lets); intro z; try (refine (have hz : SameBoundary s₀ z := ?_; ?_))) | split | subst z)

theorem State.tickReductions_bound {s₀ s : State} (h₀ : SameBoundary s₀ s) : SameBoundary s₀ (State.tickReductions s) := by
  unfold State.tickReductions
  repeat' (first | with_reducible assumption | ((with_reducible refine SameBoundary.update ?_ ?_ ?_ ?_ ?_) <;> first | with_reducible assumption | exact rfl) | with_reducible apply State.commitLayer_bound | with_reducible apply State.startRound_bound | with_reducible refine SameBoundary.foldl (fun _ _ _ => ?_) _ ?_ | ((try lift_lets); intro z; try (refine (have hz : SameBoundary s₀ z := ?_; ?_))) | split | subst z)

theorem State.clearStep_bound {s₀ s : State} (h₀ : SameBoundary s₀ s) (p : Nat) (q : Plan) : SameBoundary s₀ (State.clearStep s p q) := by
  unfold State.clearStep
  repeat' (first | with_reducible assumption | ((with_reducible refine SameBoundary.update ?_ ?_ ?_ ?_ ?_) <;> first | with_reducible assumption | exact rfl) | with_reducible apply State.setCw_bound | with_reducible apply State.modPlan_bound | with_reducible refine SameBoundary.foldl (fun _ _ _ => ?_) _ ?_ | ((try lift_lets); intro z; try (refine (have hz : SameBoundary s₀ z := ?_; ?_))) | subst z)

theorem State.ckptOut_bound {s₀ s : State} (h₀ : SameBoundary s₀ s) (p : Nat) (step : W48) (part : List Byte) (streams : List Nat) : SameBoundary s₀ (State.ckptOut s p step part streams) := by
  unfold State.ckptOut
  repeat' (first | with_reducible assumption | with_reducible apply State.outflow_bound | with_reducible refine SameBoundary.foldl (fun _ _ _ => ?_) _ ?_)

theorem State.conveyLine_bound {s₀ s : State} (h₀ : SameBoundary s₀ s) (v : Variant) (p : Nat) (dest : Nat) (n : Nat) (bs : List ByteOut) : SameBoundary s₀ (State.conveyLine s v p dest n bs) := by
  unfold State.conveyLine
  repeat' (first | with_reducible assumption | ((with_reducible refine SameBoundary.update ?_ ?_ ?_ ?_ ?_) <;> first | with_reducible assumption | exact rfl) | with_reducible apply State.convey_bound | with_reducible refine SameBoundary.foldl (fun _ _ _ => ?_) _ ?_ | ((try lift_lets); intro z; try (refine (have hz : SameBoundary s₀ z := ?_; ?_))) | split | dsimp -zeta only | subst z)

theorem State.bring_bound {s₀ s : State} (h₀ : SameBoundary s₀ s) (v : Variant) (p : Nat) (dest : Nat) (bs : List ByteOut) : SameBoundary s₀ (State.bring s v p dest bs) := by
  unfold State.bring
  repeat' (first | with_reducible assumption | with_reducible apply State.putBytes_bound | with_reducible apply State.conveyLine_bound | with_reducible refine SameBoundary.foldl (fun _ _ _ => ?_) _ ?_ | split)

theorem State.layPart_bound {r s : State} (h : SameBoundary r s) (v : Variant) (p k : Nat) (x : Rec) (part : List Byte) :
    SameBoundary r (State.layPart s v p k x part) := by
  unfold State.layPart
  dsimp only
  split
  · exact State.accessRaise_bound h _ _ _ _ _
  · exact State.bring_bound (State.bring_bound h _ _ _ _) _ _ _ _

theorem State.startCkpt_bound {s₀ s : State} (h₀ : SameBoundary s₀ s) (p : Nat) : SameBoundary s₀ (State.startCkpt s p) := by
  unfold State.startCkpt
  repeat' (first | with_reducible assumption | ((with_reducible refine SameBoundary.update ?_ ?_ ?_ ?_ ?_) <;> first | with_reducible assumption | exact rfl) | with_reducible apply State.modPlan_bound | with_reducible apply State.sinkFault_bound | with_reducible apply State.layPart_bound | with_reducible apply State.ckptOut_bound | ((try lift_lets); intro z; try (refine (have hz : SameBoundary s₀ z := ?_; ?_))) | split | subst z)

theorem State.partnerCkpt_bound {s₀ s : State} (h₀ : SameBoundary s₀ s) (p : Nat) : SameBoundary s₀ (State.partnerCkpt s p) := by
  unfold State.partnerCkpt
  repeat' (first | with_reducible assumption | ((with_reducible refine SameBoundary.update ?_ ?_ ?_ ?_ ?_) <;> first | with_reducible assumption | exact rfl) | with_reducible apply State.modPlan_bound | with_reducible apply State.startCkpt_bound | ((try lift_lets); intro z; try (refine (have hz : SameBoundary s₀ z := ?_; ?_))) | split | subst z)

theorem State.dropCkpt_bound {s₀ s : State} (h₀ : SameBoundary s₀ s) (p : Nat) : SameBoundary s₀ (State.dropCkpt s p) := by
  unfold State.dropCkpt
  repeat' (first | with_reducible assumption | ((with_reducible refine SameBoundary.update ?_ ?_ ?_ ?_ ?_) <;> first | with_reducible assumption | exact rfl) | with_reducible apply State.modPlan_bound | ((try lift_lets); intro z; try (refine (have hz : SameBoundary s₀ z := ?_; ?_))) | subst z)

theorem State.finishCkpt_bound {r s : State} (h : SameBoundary r s) (p : Nat) : SameBoundary r (State.finishCkpt s p) := by
  unfold State.finishCkpt
  dsimp only
  repeat' (first | exact h | exact State.modPlan_bound h _ _ | exact State.startCkpt_bound (State.modPlan_bound h _ _) _ | split)

theorem State.clearCarried_bound {s₀ s : State} (h₀ : SameBoundary s₀ s) (q : Plan) : SameBoundary s₀ (State.clearCarried s q) := by
  unfold State.clearCarried
  repeat' (first | with_reducible assumption | ((with_reducible refine SameBoundary.update ?_ ?_ ?_ ?_ ?_) <;> first | with_reducible assumption | exact rfl) | with_reducible apply State.modTile_bound | with_reducible refine SameBoundary.foldl (fun _ _ _ => ?_) _ ?_ | ((try lift_lets); intro z; try (refine (have hz : SameBoundary s₀ z := ?_; ?_))) | split | subst z)

theorem State.restoreData_bound {s₀ s : State} (h₀ : SameBoundary s₀ s) (p : Nat) (q : Plan) (r : Rec) (old : Variant) (new : Variant) (k : Nat) (hs : List PartHeld) : SameBoundary s₀ (State.restoreData s p q r old new k hs) := by
  unfold State.restoreData
  repeat' (first | with_reducible assumption | ((with_reducible refine SameBoundary.update ?_ ?_ ?_ ?_ ?_) <;> first | with_reducible assumption | exact rfl) | with_reducible apply State.bring_bound | with_reducible refine SameBoundary.foldl (fun _ _ _ => ?_) _ ?_ | ((try lift_lets); intro z; try (refine (have hz : SameBoundary s₀ z := ?_; ?_))) | split | subst z)

theorem State.restoreLanes_bound {s₀ s : State} (h₀ : SameBoundary s₀ s) (p : Nat) (g : Gen) : SameBoundary s₀ (State.restoreLanes s p g) := by
  unfold State.restoreLanes
  repeat' (first | with_reducible assumption | ((with_reducible refine SameBoundary.update ?_ ?_ ?_ ?_ ?_) <;> first | with_reducible assumption | exact rfl) | with_reducible apply State.emptyLanes_bound | with_reducible apply State.modLane_bound | with_reducible refine SameBoundary.foldl (fun _ _ _ => ?_) _ ?_ | ((try lift_lets); intro z; try (refine (have hz : SameBoundary s₀ z := ?_; ?_))) | split | dsimp -zeta only | subst z)

theorem State.planEpochs_bound {s₀ s : State} (h₀ : SameBoundary s₀ s) (p : Nat) (q : Plan) : SameBoundary s₀ (State.planEpochs s p q) := by
  unfold State.planEpochs
  repeat' (first | with_reducible assumption | with_reducible apply State.newOutEpoch_bound | with_reducible apply State.newEpoch_bound | with_reducible refine SameBoundary.foldl (fun _ _ _ => ?_) _ ?_ | ((try lift_lets); intro z; try (refine (have hz : SameBoundary s₀ z := ?_; ?_))) | subst z)

theorem State.rewindNone_bound {s₀ s : State} (h₀ : SameBoundary s₀ s) (p : Nat) : SameBoundary s₀ (State.rewindNone s p) := by
  unfold State.rewindNone
  repeat' (first | with_reducible assumption | ((with_reducible refine SameBoundary.update ?_ ?_ ?_ ?_ ?_) <;> first | with_reducible assumption | exact rfl) | with_reducible apply State.fault_bound | ((try lift_lets); intro z; try (refine (have hz : SameBoundary s₀ z := ?_; ?_))) | split | subst z)

theorem State.restoreState_bound {s₀ s : State} (h₀ : SameBoundary s₀ s) (p : Nat) (q : Plan) (g : Gen) : SameBoundary s₀ (State.restoreState s p q g) := by
  unfold State.restoreState
  repeat' (first | with_reducible assumption | ((with_reducible refine SameBoundary.update ?_ ?_ ?_ ?_ ?_) <;> first | with_reducible assumption | exact rfl) | with_reducible apply State.clearCarried_bound | with_reducible apply State.modPlan_bound | with_reducible apply State.restoreLanes_bound | with_reducible apply State.planEpochs_bound | with_reducible apply State.openAccts_bound | ((try lift_lets); intro z; try (refine (have hz : SameBoundary s₀ z := ?_; ?_))) | subst z)

theorem State.beginRestore_bound {s₀ s : State} (h₀ : SameBoundary s₀ s) (p : Nat) (limit : Option W48) (note : Bool) : SameBoundary s₀ (State.beginRestore s p limit note) := by
  unfold State.beginRestore
  repeat' (first | with_reducible assumption | ((with_reducible refine SameBoundary.update ?_ ?_ ?_ ?_ ?_) <;> first | with_reducible assumption | exact rfl) | with_reducible apply State.dropCkpt_bound | with_reducible apply State.rewindNone_bound | with_reducible apply State.restoreState_bound | with_reducible apply State.restoreData_bound | with_reducible apply State.resumePoint_bound | ((try lift_lets); intro z; try (refine (have hz : SameBoundary s₀ z := ?_; ?_))) | split | subst z)

theorem State.joinRestore_bound {s₀ s : State} (h₀ : SameBoundary s₀ s) (p : Nat) : SameBoundary s₀ (State.joinRestore s p) := by
  unfold State.joinRestore
  repeat' (first | with_reducible assumption | ((with_reducible refine SameBoundary.update ?_ ?_ ?_ ?_ ?_) <;> first | with_reducible assumption | exact rfl) | with_reducible apply State.restoreState_bound | with_reducible apply State.modPlan_bound | ((try lift_lets); intro z; try (refine (have hz : SameBoundary s₀ z := ?_; ?_))) | split | subst z)

theorem State.takeFront_bound {r s : State} (h : SameBoundary r s) (p : Nat) : SameBoundary r (State.takeFront s p) := by
  unfold State.takeFront
  dsimp only
  repeat' (first | exact h | exact State.restoreLanes_bound (State.modPlan_bound h _ _) _ _ | split)

theorem State.stepConstants_bound {s₀ s : State} (h₀ : SameBoundary s₀ s) (p : Nat) (step : W48) (first : W48) : SameBoundary s₀ (State.stepConstants s p step first) := by
  unfold State.stepConstants
  repeat' (first | with_reducible assumption | ((with_reducible refine SameBoundary.update ?_ ?_ ?_ ?_ ?_) <;> first | with_reducible assumption | exact rfl) | with_reducible apply State.putStore_bound | with_reducible apply State.modPlan_bound | with_reducible refine SameBoundary.foldl (fun _ _ _ => ?_) _ ?_ | ((try lift_lets); intro z; try (refine (have hz : SameBoundary s₀ z := ?_; ?_))) | split | subst z)

/-- Every state that the outcome carries. -/
structure SameBoundaryM (r : State) (a : MoveOut) : Prop where
  all : ∀ t, (a = .wait t ∨ a = .ok t) → SameBoundary r t

theorem SameBoundaryM.ofFault {r : State} {c a : Nat} : SameBoundaryM r (.fault c a) := ⟨fun t e => by simp at e⟩
theorem SameBoundaryM.ofWait {r t : State} (h : SameBoundary r t) : SameBoundaryM r (.wait t) := ⟨fun u e => by simp at e; exact e ▸ h⟩
theorem SameBoundaryM.ofOk {r t : State} (h : SameBoundary r t) : SameBoundaryM r (.ok t) := ⟨fun u e => by simp at e; exact e ▸ h⟩
theorem SameBoundaryM.wait {r t : State} {a : MoveOut} (h : SameBoundaryM r a) (e : a = .wait t) : SameBoundary r t := h.all t (.inl e)
theorem SameBoundaryM.ok {r t : State} {a : MoveOut} (h : SameBoundaryM r a) (e : a = .ok t) : SameBoundary r t := h.all t (.inr e)

theorem State.move_bound {s₀ s : State} (h₀ : SameBoundary s₀ s) (u : Nat) (plan : Nat) (p : Plan) (w : BitVec 256) : SameBoundaryM s₀ (State.move s u plan p w) := by
  unfold State.move
  repeat' (first | with_reducible assumption | ((with_reducible refine SameBoundary.update ?_ ?_ ?_ ?_ ?_) <;> first | with_reducible assumption | exact rfl) | with_reducible apply State.readBlock_bound | with_reducible apply State.fault_bound | with_reducible apply State.writable_bound | with_reducible apply State.finishXfer_bound | ((try lift_lets); intro z; try (refine (have hz : SameBoundary s₀ z := ?_; ?_))) | split | dsimp -zeta only | with_reducible refine SameBoundaryB.ok ?_ (by with_reducible assumption) | with_reducible refine SameBoundaryB.wait ?_ (by with_reducible assumption) | with_reducible refine SameBoundaryA.ok ?_ (by with_reducible assumption) | with_reducible refine SameBoundaryA.wait ?_ (by with_reducible assumption) | with_reducible refine SameBoundaryM.ofOk ?_ | with_reducible refine SameBoundaryM.ofWait ?_ | with_reducible exact SameBoundaryM.ofFault | subst z)

theorem State.applyGrant_bound {s₀ s : State} (h₀ : SameBoundary s₀ s) (p : Nat) (d : Nat) (g : Nat) : SameBoundary s₀ (State.applyGrant s p d g) := by
  unfold State.applyGrant
  repeat' (first | with_reducible assumption | ((with_reducible refine SameBoundary.update ?_ ?_ ?_ ?_ ?_) <;> first | with_reducible assumption | exact rfl) | with_reducible apply State.move_bound | with_reducible refine State.modFrm_bound ?_ _ rfl rfl rfl | with_reducible apply State.modPlan_bound | with_reducible apply State.fault_bound | ((try lift_lets); intro z; try (refine (have hz : SameBoundary s₀ z := ?_; ?_))) | split | with_reducible refine SameBoundaryM.ok ?_ (by with_reducible assumption) | with_reducible refine SameBoundaryM.wait ?_ (by with_reducible assumption) | subst z)

theorem State.applyFinish_bound {s₀ s : State} (h₀ : SameBoundary s₀ s) (p : Nat) : SameBoundary s₀ (State.applyFinish s p) := by
  unfold State.applyFinish
  repeat' (first | with_reducible assumption | ((with_reducible refine SameBoundary.update ?_ ?_ ?_ ?_ ?_) <;> first | with_reducible assumption | exact rfl) | with_reducible refine State.modFrm_bound ?_ _ rfl rfl rfl | with_reducible apply State.modPlan_bound | with_reducible apply State.raise_bound | with_reducible apply State.reportDone_bound | ((try lift_lets); intro z; try (refine (have hz : SameBoundary s₀ z := ?_; ?_))) | subst z)

theorem finish_bound {s₀ s : State} (h₀ : SameBoundary s₀ s) (p : Nat) (frame : W48) : SameBoundary s₀ (finish p frame s) := by
  unfold finish
  repeat' (first | with_reducible assumption | with_reducible apply State.applyFinish_bound | split)

theorem State.takeLate_bound {s₀ s : State} (h₀ : SameBoundary s₀ s) (p : Nat) (d : Nat) (seen : Nat) : SameBoundary s₀ (State.takeLate s p d seen) := by
  unfold State.takeLate
  repeat' (first | with_reducible assumption | with_reducible apply State.applyGrant_bound | with_reducible apply State.notify_bound | with_reducible apply State.applyFinish_bound | with_reducible apply finish_bound | ((try lift_lets); intro z; try (refine (have hz : SameBoundary s₀ z := ?_; ?_))) | split | subst z)

theorem State.endPlan_bound {s₀ s : State} (h₀ : SameBoundary s₀ s) (p : Nat) (st : PState) (code : Nat) : SameBoundary s₀ (State.endPlan s p st code) := by
  unfold State.endPlan
  repeat' (first | with_reducible assumption | ((with_reducible refine SameBoundary.update ?_ ?_ ?_ ?_ ?_) <;> first | with_reducible assumption | exact rfl) | with_reducible apply State.stopPlan_bound | with_reducible apply State.modPlan_bound | with_reducible apply State.closePlan_bound | with_reducible apply State.emptyLanes_bound | with_reducible apply State.dropCkpt_bound | ((try lift_lets); intro z; try (refine (have hz : SameBoundary s₀ z := ?_; ?_))) | ((with_reducible refine SameBoundary.update ?_ ?_ ?_ ?_ ?_) <;> first | exact rfl | with_reducible apply State.stopPlan_bound | with_reducible apply State.modPlan_bound | with_reducible apply State.closePlan_bound | with_reducible apply State.emptyLanes_bound | with_reducible apply State.dropCkpt_bound) | subst z)

theorem State.addCause_bound {s₀ s : State} (h₀ : SameBoundary s₀ s) (c : Nat) : SameBoundary s₀ (State.addCause s c) := by
  unfold State.addCause
  repeat' (first | with_reducible assumption | ((with_reducible refine SameBoundary.update ?_ ?_ ?_ ?_ ?_) <;> first | with_reducible assumption | exact rfl) | with_reducible refine State.modFrm_bound ?_ _ rfl rfl rfl | ((try lift_lets); intro z; try (refine (have hz : SameBoundary s₀ z := ?_; ?_))) | split | subst z)

theorem State.takeRoster_bound {s₀ s : State} (h₀ : SameBoundary s₀ s) : SameBoundary s₀ (State.takeRoster s) := by
  unfold State.takeRoster
  repeat' (first | with_reducible assumption | ((with_reducible refine SameBoundary.update ?_ ?_ ?_ ?_ ?_) <;> first | with_reducible assumption | exact rfl) | with_reducible apply roster_bound | with_reducible apply State.withdraw_bound | with_reducible refine SameBoundary.foldl (fun _ _ _ => ?_) _ ?_ | ((try lift_lets); intro z; try (refine (have hz : SameBoundary s₀ z := ?_; ?_))) | split | subst z)

theorem State.takePL_bound {s₀ s : State} (h₀ : SameBoundary s₀ s) : SameBoundary s₀ (State.takePL s) := by
  unfold State.takePL
  repeat' (first | with_reducible assumption | ((with_reducible refine SameBoundary.update ?_ ?_ ?_ ?_ ?_) <;> first | with_reducible assumption | exact rfl) | with_reducible refine State.modFrm_bound ?_ _ rfl rfl rfl | ((try lift_lets); intro z; try (refine (have hz : SameBoundary s₀ z := ?_; ?_))) | split | subst z)

theorem State.passLead_bound {r s : State} (h : SameBoundary r s) : SameBoundary r (State.passLead s) := by
  unfold State.passLead
  dsimp only
  refine State.modFrm_bound h _ ?_ ?_ ?_ <;> (repeat' split) <;> rfl

theorem State.terminate_bound {s₀ s : State} (h₀ : SameBoundary s₀ s) : SameBoundary s₀ (State.terminate s) := by
  unfold State.terminate
  repeat' (first | with_reducible assumption | ((with_reducible refine SameBoundary.update ?_ ?_ ?_ ?_ ?_) <;> first | with_reducible assumption | exact rfl) | with_reducible apply State.endPlan_bound | with_reducible refine State.modFrm_bound ?_ _ rfl rfl rfl | with_reducible refine SameBoundary.foldl (fun _ _ _ => ?_) _ ?_ | ((try lift_lets); intro z; try (refine (have hz : SameBoundary s₀ z := ?_; ?_))) | split | subst z)

theorem State.noPlan_bound {s₀ s : State} (h₀ : SameBoundary s₀ s) : SameBoundary s₀ (State.noPlan s) := by
  unfold State.noPlan
  repeat' (first | with_reducible assumption | with_reducible apply State.addCause_bound | split)

theorem State.endRestore_bound {s₀ s : State} (h₀ : SameBoundary s₀ s) (p : Nat) : SameBoundary s₀ (State.endRestore s p) := by
  unfold State.endRestore
  repeat' (first | with_reducible assumption | ((with_reducible refine SameBoundary.update ?_ ?_ ?_ ?_ ?_) <;> first | with_reducible assumption | exact rfl) | with_reducible apply State.modPlan_bound | ((try lift_lets); intro z; try (refine (have hz : SameBoundary s₀ z := ?_; ?_))) | split | subst z)

theorem State.rematch_bound {s₀ s : State} (h₀ : SameBoundary s₀ s) (p : Nat) : SameBoundary s₀ (State.rematch s p) := by
  unfold State.rematch
  repeat' (first | with_reducible assumption | ((with_reducible refine SameBoundary.update ?_ ?_ ?_ ?_ ?_) <;> first | with_reducible assumption | exact rfl) | with_reducible apply State.modPlan_bound | with_reducible apply State.beginRestore_bound | with_reducible apply State.addCause_bound | with_reducible apply State.resumePoint_bound | ((try lift_lets); intro z; try (refine (have hz : SameBoundary s₀ z := ?_; ?_))) | split | subst z)

theorem State.switchPlan_bound {s₀ s : State} (h₀ : SameBoundary s₀ s) (p : Nat) : SameBoundary s₀ (State.switchPlan s p) := by
  unfold State.switchPlan
  repeat' (first | with_reducible assumption | ((with_reducible refine SameBoundary.update ?_ ?_ ?_ ?_ ?_) <;> first | with_reducible assumption | exact rfl) | with_reducible apply State.modPlan_bound | with_reducible apply State.joinRestore_bound | with_reducible apply State.beginRestore_bound | ((try lift_lets); intro z; try (refine (have hz : SameBoundary s₀ z := ?_; ?_))) | split | subst z)

theorem State.boundaryEvents_bound {s₀ s : State} (h₀ : SameBoundary s₀ s) : SameBoundary s₀ (State.boundaryEvents s) := by
  unfold State.boundaryEvents
  repeat' (first | with_reducible assumption | with_reducible apply State.addCause_bound | with_reducible apply State.terminate_bound | with_reducible apply State.finishCkpt_bound | with_reducible apply State.endRestore_bound | with_reducible apply State.takeFront_bound | with_reducible apply State.rematch_bound | with_reducible apply State.switchPlan_bound | with_reducible apply State.noPlan_bound | with_reducible apply State.tickReductions_bound | with_reducible refine SameBoundary.foldl (fun _ _ _ => ?_) _ ?_ | ((try lift_lets); intro z; try (refine (have hz : SameBoundary s₀ z := ?_; ?_))) | split | subst z)

theorem State.beginSwitch_bound {s₀ s : State} (h₀ : SameBoundary s₀ s) (p : Nat) (q : Plan) : SameBoundary s₀ (State.beginSwitch s p q) := by
  unfold State.beginSwitch
  repeat' (first | with_reducible assumption | ((with_reducible refine SameBoundary.update ?_ ?_ ?_ ?_ ?_) <;> first | with_reducible assumption | exact rfl) | with_reducible apply State.addCause_bound | with_reducible apply State.modPlan_bound | ((try lift_lets); intro z; try (refine (have hz : SameBoundary s₀ z := ?_; ?_))) | split | dsimp -zeta only | subst z)

theorem State.stepBoundary_bound {s₀ s : State} (h₀ : SameBoundary s₀ s) (p : Nat) : SameBoundary s₀ (State.stepBoundary s p) := by
  unfold State.stepBoundary
  repeat' (first | with_reducible assumption | ((with_reducible refine SameBoundary.update ?_ ?_ ?_ ?_ ?_) <;> first | with_reducible assumption | exact rfl) | with_reducible apply State.addCause_bound | with_reducible apply State.modPlan_bound | with_reducible apply State.beginSwitch_bound | with_reducible apply State.startCkpt_bound | ((try lift_lets); intro z; try (refine (have hz : SameBoundary s₀ z := ?_; ?_))) | split | subst z)

theorem State.leavePartner_bound {s₀ s : State} (h₀ : SameBoundary s₀ s) : SameBoundary s₀ (State.leavePartner s) := by
  unfold State.leavePartner
  repeat' (first | with_reducible assumption | ((with_reducible refine SameBoundary.update ?_ ?_ ?_ ?_ ?_) <;> first | with_reducible assumption | exact rfl) | with_reducible refine State.modFrm_bound ?_ _ rfl rfl rfl | ((try lift_lets); intro z; try (refine (have hz : SameBoundary s₀ z := ?_; ?_))) | split | subst z)

theorem State.raiseCommitLate_bound {s₀ s : State} (h₀ : SameBoundary s₀ s) (p : Nat) : SameBoundary s₀ (State.raiseCommitLate s p) := by
  unfold State.raiseCommitLate
  repeat' (first | with_reducible assumption | ((with_reducible refine SameBoundary.update ?_ ?_ ?_ ?_ ?_) <;> first | with_reducible assumption | exact rfl) | with_reducible apply State.raise_bound | with_reducible refine State.modFrm_bound ?_ _ rfl rfl rfl | ((try lift_lets); intro z; try (refine (have hz : SameBoundary s₀ z := ?_; ?_))) | split | subst z)

theorem State.lateCommits_bound {s₀ s : State} (h₀ : SameBoundary s₀ s) : SameBoundary s₀ (State.lateCommits s) := by
  unfold State.lateCommits
  repeat' (first | with_reducible assumption | with_reducible apply State.raiseCommitLate_bound | with_reducible apply State.addCause_bound | with_reducible refine SameBoundary.foldl (fun _ _ _ => ?_) _ ?_)

theorem State.settleState_bound {s₀ s : State} (h₀ : SameBoundary s₀ s) : SameBoundary s₀ (State.settleState s) := by
  unfold State.settleState
  repeat' (first | with_reducible assumption | ((with_reducible refine SameBoundary.update ?_ ?_ ?_ ?_ ?_) <;> first | with_reducible assumption | exact rfl) | with_reducible refine State.modFrm_bound ?_ _ rfl rfl rfl | with_reducible apply State.modPlan_bound | with_reducible apply State.partnerCkpt_bound | with_reducible refine SameBoundary.foldl (fun _ _ _ => ?_) _ ?_ | ((try lift_lets); intro z; try (refine (have hz : SameBoundary s₀ z := ?_; ?_))) | split | subst z)

theorem State.loadRow_bound {s₀ s : State} (h₀ : SameBoundary s₀ s) (p : Nat) (q : Plan) (row : List Nat) : SameBoundary s₀ (State.loadRow s p q row) := by
  unfold State.loadRow
  repeat' (first | with_reducible assumption | ((with_reducible refine SameBoundary.update ?_ ?_ ?_ ?_ ?_) <;> first | with_reducible assumption | exact rfl) | with_reducible refine State.modFrm_bound ?_ _ rfl rfl rfl | ((try lift_lets); intro z; try (refine (have hz : SameBoundary s₀ z := ?_; ?_))) | split | subst z)

theorem State.openStep_bound {s₀ s : State} (h₀ : SameBoundary s₀ s) (p : Nat) (q : Plan) : SameBoundary s₀ (State.openStep s p q) := by
  unfold State.openStep
  repeat' (first | with_reducible assumption | ((with_reducible refine SameBoundary.update ?_ ?_ ?_ ?_ ?_) <;> first | with_reducible assumption | exact rfl) | with_reducible apply State.modPlan_bound | with_reducible apply State.clearStep_bound | ((try lift_lets); intro z; try (refine (have hz : SameBoundary s₀ z := ?_; ?_))) | subst z)

theorem State.openRunning_bound {s₀ s : State} (h₀ : SameBoundary s₀ s) (p : Nat) (q : Plan) : SameBoundary s₀ (State.openRunning s p q) := by
  unfold State.openRunning
  repeat' (first | with_reducible assumption | ((with_reducible refine SameBoundary.update ?_ ?_ ?_ ?_ ?_) <;> first | with_reducible assumption | exact rfl) | with_reducible apply State.modPlan_bound | with_reducible apply State.loadRow_bound | with_reducible apply State.openStep_bound | with_reducible apply State.stepLanes_bound | ((try lift_lets); intro z; try (refine (have hz : SameBoundary s₀ z := ?_; ?_))) | split | subst z)

theorem State.openRestoring_bound {s₀ s : State} (h₀ : SameBoundary s₀ s) (p : Nat) (q : Plan) : SameBoundary s₀ (State.openRestoring s p q) := by
  unfold State.openRestoring
  repeat' (first | with_reducible assumption | ((with_reducible refine SameBoundary.update ?_ ?_ ?_ ?_ ?_) <;> first | with_reducible assumption | exact rfl) | with_reducible apply State.modPlan_bound | with_reducible apply State.loadRow_bound | ((try lift_lets); intro z; try (refine (have hz : SameBoundary s₀ z := ?_; ?_))) | split | subst z)

theorem State.openPlan_bound {s₀ s : State} (h₀ : SameBoundary s₀ s) (p : Nat) : SameBoundary s₀ (State.openPlan s p) := by
  unfold State.openPlan
  repeat' (first | with_reducible assumption | ((with_reducible refine SameBoundary.update ?_ ?_ ?_ ?_ ?_) <;> first | with_reducible assumption | exact rfl) | with_reducible apply State.openRunning_bound | with_reducible apply State.openRestoring_bound | ((try lift_lets); intro z; try (refine (have hz : SameBoundary s₀ z := ?_; ?_))) | split | subst z)

theorem State.countIdle_bound {s₀ s : State} (h₀ : SameBoundary s₀ s) : SameBoundary s₀ (State.countIdle s) := by
  unfold State.countIdle
  repeat' (first | with_reducible assumption | ((with_reducible refine SameBoundary.update ?_ ?_ ?_ ?_ ?_) <;> first | with_reducible assumption | exact rfl) | with_reducible refine State.modFrm_bound ?_ _ rfl rfl rfl | with_reducible apply idle_bound | ((try lift_lets); intro z; try (refine (have hz : SameBoundary s₀ z := ?_; ?_))) | split | subst z)

theorem State.oweNow_bound {s₀ s : State} (h₀ : SameBoundary s₀ s) : SameBoundary s₀ (State.oweNow s) := by
  unfold State.oweNow
  repeat' (first | with_reducible assumption | ((with_reducible refine SameBoundary.update ?_ ?_ ?_ ?_ ?_) <;> first | with_reducible assumption | exact rfl) | with_reducible refine State.modFrm_bound ?_ _ rfl rfl rfl | with_reducible apply State.takeLate_bound | with_reducible apply State.notify_bound | with_reducible refine SameBoundary.foldl (fun _ _ _ => ?_) _ ?_ | ((try lift_lets); intro z; try (refine (have hz : SameBoundary s₀ z := ?_; ?_))) | split | dsimp -zeta only | subst z)

theorem State.openFrames_bound {s₀ s : State} (h₀ : SameBoundary s₀ s) : SameBoundary s₀ (State.openFrames s) := by
  unfold State.openFrames
  repeat' (first | with_reducible assumption | ((with_reducible refine SameBoundary.update ?_ ?_ ?_ ?_ ?_) <;> first | with_reducible assumption | exact rfl) | with_reducible apply State.settleState_bound | with_reducible apply State.openPlan_bound | with_reducible apply State.passLead_bound | with_reducible apply State.intakeTick_bound | with_reducible apply State.countIdle_bound | with_reducible refine State.modFrm_bound ?_ _ rfl rfl rfl | with_reducible apply State.oweNow_bound | with_reducible refine SameBoundary.foldl (fun _ _ _ => ?_) _ ?_ | ((try lift_lets); intro z; try (refine (have hz : SameBoundary s₀ z := ?_; ?_))) | subst z)

theorem State.noteTick_bound {s₀ s : State} (h₀ : SameBoundary s₀ s) (o : TickIn) : SameBoundary s₀ (State.noteTick s o) := by
  unfold State.noteTick
  repeat' (first | with_reducible assumption | ((with_reducible refine SameBoundary.update ?_ ?_ ?_ ?_ ?_) <;> first | with_reducible assumption | exact rfl) | with_reducible refine State.modFrm_bound ?_ _ rfl rfl rfl | ((try lift_lets); intro z; try (refine (have hz : SameBoundary s₀ z := ?_; ?_))) | subst z)

theorem State.passTick_bound {s₀ s : State} (h₀ : SameBoundary s₀ s) (o : TickIn) : SameBoundary s₀ (State.passTick s o) := by
  unfold State.passTick
  repeat' (first | with_reducible assumption | ((with_reducible refine SameBoundary.update ?_ ?_ ?_ ?_ ?_) <;> first | with_reducible assumption | exact rfl) | with_reducible apply State.sendLink_bound | with_reducible refine SameBoundary.foldl (fun _ _ _ => ?_) _ ?_ | ((try lift_lets); intro z; try (refine (have hz : SameBoundary s₀ z := ?_; ?_))) | split | subst z)

theorem State.startPlan_bound {s₀ s : State} (h₀ : SameBoundary s₀ s) (p : Nat) : SameBoundary s₀ (State.startPlan s p) := by
  unfold State.startPlan
  repeat' (first | with_reducible assumption | ((with_reducible refine SameBoundary.update ?_ ?_ ?_ ?_ ?_) <;> first | with_reducible assumption | exact rfl) | with_reducible apply roster_bound | with_reducible apply State.modPlan_bound | with_reducible apply State.addCause_bound | with_reducible apply State.beginRestore_bound | with_reducible apply State.stepConstants_bound | ((try lift_lets); intro z; try (refine (have hz : SameBoundary s₀ z := ?_; ?_))) | split | subst z)

end Sys2Proof.Machine
end

