-- ==== Sys2Proof/Laws/Directory.lean ====
section
/-! SUPPORT. What a directory copy holds once it has been written (15 R412). -/

namespace Sys2Proof.Machine

theorem crc32Bit_lt (c : Nat) (h : c < 2 ^ 32) : crc32Bit c < 2 ^ 32 := by
  unfold crc32Bit
  split
  · exact Nat.xor_lt_two_pow (by omega) (by decide)
  · omega

theorem crc32Byte_lt (c b : Nat) (h : c < 2 ^ 32) (hb : b < 2 ^ 32) : crc32Byte c b < 2 ^ 32 := by
  unfold crc32Byte
  iterate 8 apply crc32Bit_lt
  exact Nat.xor_lt_two_pow h hb

/-- A CRC-32 has 32 bits. -/
theorem crc32_lt (bs : List Byte) : crc32 bs < 2 ^ 32 := by
  have h : ∀ (l : List Byte) c, c < 2 ^ 32 → l.foldl (fun c b => crc32Byte c b.toNat) c < 2 ^ 32 := by
    intro l
    induction l with
    | nil => intro c hc; exact hc
    | cons b l ih => intro c hc; exact ih _ (crc32Byte_lt _ _ hc (by have := b.isLt; omega))
  exact Nat.xor_lt_two_pow (h bs _ (by decide)) (by decide)

/-- A copy written with its TAG and CRC is good (15 R412). -/
theorem DirCopy.sealed_good (d : DirCopy) : d.sealed.good = true := by
  have h : d.sealed.toBytes = ({ d with tag := dirTag } : DirCopy).toBytes := by unfold DirCopy.sealed DirCopy.toBytes; rfl
  have t : d.sealed.tag = dirTag := rfl
  have c : d.sealed.crc = BitVec.ofNat 32 (crc32 ({ d with tag := dirTag } : DirCopy).toBytes) := rfl
  rw [DirCopy.good, h, t, c, BitVec.toNat_ofNat, Nat.mod_eq_of_lt (crc32_lt _), beq_self_eq_true, beq_self_eq_true, Bool.and_self]
/-- Copy 1 is the directory in use where it is good and copy 2 is not. -/
theorem Emmc.dir_one (e : Emmc) (h : e.dir1.good = true) (k : e.dir2.good = false) : e.dir = some e.dir1 := by
  simp only [Emmc.dir, h, k]

/-- A copy without the tag is not good. -/
theorem DirCopy.bad_good : DirCopy.bad.good = false := rfl

end Sys2Proof.Machine
end

