-- ==== Sys2Proof/Laws/ValidateKept.lean ====
section
/-! SUPPORT. Each operation of Machine/Validate.lean leaves what `Kept` says as it is. -/

namespace Sys2Proof.Machine

theorem State.rejectPlan_kept {s₀ s : State} (h₀ : Kept s₀ s) (p : Nat) (code : Nat) (rank : Nat) : Kept s₀ (State.rejectPlan s p code rank) := by
  unfold State.rejectPlan
  repeat' (first | with_reducible assumption | ((with_reducible refine Kept.update ?_ ?_ (hf := ?_)) <;> first | with_reducible assumption | exact rfl | exact ⟨fun h => h⟩) | with_reducible apply State.emptyLanes_kept | with_reducible apply State.modPlan_kept | ((try lift_lets); intro z; try (refine (have hz : Kept s₀ z := ?_; ?_))) | split | subst z)

theorem State.openLanes_kept {s₀ s : State} (h₀ : Kept s₀ s) (i : Image) (p : Nat) : Kept s₀ (State.openLanes s i p) := by
  unfold State.openLanes
  repeat' (first | with_reducible assumption | ((with_reducible refine Kept.update ?_ ?_ (hf := ?_)) <;> first | with_reducible assumption | exact rfl | exact ⟨fun h => h⟩) | with_reducible apply State.setLane_kept | with_reducible apply idle_kept | with_reducible refine Kept.foldl (fun _ _ _ => ?_) _ ?_ | ((try lift_lets); intro z; try (refine (have hz : Kept s₀ z := ?_; ?_))) | subst z)

theorem State.loadPrograms_kept {s₀ s : State} (h₀ : Kept s₀ s) (p : Nat) (q : Plan) : Kept s₀ (State.loadPrograms s p q) := by
  unfold State.loadPrograms
  repeat' (first | with_reducible assumption | ((with_reducible refine Kept.update ?_ ?_ (hf := ?_)) <;> first | with_reducible assumption | exact rfl | exact ⟨fun h => h⟩) | exact ⟨fun _ hy => hy⟩ | exact ⟨fun a _ => State.canonical_tile (Kept.canon ‹_› a) _⟩ | exact ⟨fun _ c => State.canonical_tile c _⟩ | refine TileStep.mk fun _ hy => ?_ | refine CanonTile.mk fun ha hy => ?_ | with_reducible exact hy | with_reducible apply Tile.tok_set | with_reducible apply Tile.tok_keep | with_reducible apply Tile.cw_set | exact hy | exact State.canonical_tile hy _ | exact State.canonical_tile (Kept.canon ‹_› ha) _ | with_reducible apply State.modTile_kept | with_reducible refine Kept.foldl (fun _ _ _ => ?_) _ ?_ | ((try lift_lets); intro z; try (refine (have hz : Kept s₀ z := ?_; ?_))) | split | dsimp -zeta only | subst z)

theorem State.loadPlan_kept {s₀ s : State} (h₀ : Kept s₀ s) (i : Image) (p : Nat) (q : Plan) : Kept s₀ (State.loadPlan s i p q) := by
  unfold State.loadPlan
  repeat' (first | with_reducible assumption | ((with_reducible refine Kept.update ?_ ?_ (hf := ?_)) <;> first | with_reducible assumption | exact rfl | exact ⟨fun h => h⟩) | with_reducible apply State.loadPrograms_kept | with_reducible apply State.modPlan_kept | with_reducible apply State.openLanes_kept | with_reducible apply State.planEpochs_kept | ((try lift_lets); intro z; try (refine (have hz : Kept s₀ z := ?_; ?_))) | split | subst z)

theorem State.validatePlan_kept {s₀ s : State} (h₀ : Kept s₀ s) (i : Image) (p : Nat) : Kept s₀ (State.validatePlan s i p) := by
  unfold State.validatePlan
  repeat' (first | with_reducible assumption | ((with_reducible refine Kept.update ?_ ?_ (hf := ?_)) <;> first | with_reducible assumption | exact rfl | exact ⟨fun h => h⟩) | with_reducible apply State.fault_kept | with_reducible apply State.rejectPlan_kept | with_reducible apply State.loadPlan_kept | ((try lift_lets); intro z; try (refine (have hz : Kept s₀ z := ?_; ?_))) | split | subst z)

theorem State.readyWhenDone_kept {s₀ s : State} (h₀ : Kept s₀ s) : Kept s₀ (State.readyWhenDone s) := by
  unfold State.readyWhenDone
  repeat' (first | with_reducible assumption | ((with_reducible refine Kept.update ?_ ?_ (hf := ?_)) <;> first | with_reducible assumption | exact rfl | exact ⟨fun h => h⟩) | with_reducible apply State.flood_kept | ((try lift_lets); intro z; try (refine (have hz : Kept s₀ z := ?_; ?_))) | split | subst z)

theorem State.sectionFails_kept {s₀ s : State} (h₀ : Kept s₀ s) : Kept s₀ (State.sectionFails s) := by
  unfold State.sectionFails
  repeat' (first | with_reducible assumption | ((with_reducible refine Kept.update ?_ ?_ (hf := ?_)) <;> first | with_reducible assumption | exact rfl | exact ⟨fun h => h⟩) | with_reducible apply State.slotFails_kept | with_reducible apply State.fault_kept | with_reducible apply State.internalReset_kept | ((try lift_lets); intro z; try (refine (have hz : Kept s₀ z := ?_; ?_))) | subst z)

theorem planValidation_kept {s₀ s : State} (h₀ : Kept s₀ s) : Kept s₀ (planValidation s) := by
  unfold planValidation
  repeat' (first | with_reducible assumption | ((with_reducible refine Kept.update ?_ ?_ (hf := ?_)) <;> first | with_reducible assumption | exact rfl | exact ⟨fun h => h⟩) | with_reducible apply State.sectionFails_kept | with_reducible apply State.validatePlan_kept | with_reducible apply State.readyWhenDone_kept | with_reducible refine Kept.foldl (fun _ _ _ => ?_) _ ?_ | ((try lift_lets); intro z; try (refine (have hz : Kept s₀ z := ?_; ?_))) | split | subst z)

theorem execPlanValidation_next (s : State) : ∃ s', execPlanValidation s = .next s' ∧ Kept s s' := by
  have h₀ := Kept.refl s
  refine ⟨_, rfl, ?_⟩
  repeat' (first | with_reducible assumption | with_reducible apply roster_kept | with_reducible apply planValidation_kept | split)

theorem readyFrame_kept {s₀ s : State} (h₀ : Kept s₀ s) (p : Nat) (rank : Nat) (codes : List Nat) : Kept s₀ (readyFrame p rank codes s) := by
  unfold readyFrame
  repeat' (first | with_reducible assumption | ((with_reducible refine Kept.update ?_ ?_ (hf := ?_)) <;> first | with_reducible assumption | exact rfl | exact ⟨fun h => h⟩) | with_reducible apply State.hear_kept | with_reducible apply State.flood_kept | with_reducible apply State.rejectPlan_kept | with_reducible apply rosterAssembly_kept | with_reducible refine Kept.foldl (fun _ _ _ => ?_) _ ?_ | ((try lift_lets); intro z; try (refine (have hz : Kept s₀ z := ?_; ?_))) | split | dsimp -zeta only | refine Kept.pair (by with_reducible assumption) ?_ | subst z)

theorem execReadyFrame_next (f : AtPort (Fin 64)) (codes : List Nat) (s : State) : ∃ s', execReadyFrame f codes s = .next s' ∧ Kept s s' := by
  have h₀ := Kept.refl s
  refine ⟨_, rfl, ?_⟩
  repeat' (first | with_reducible assumption | with_reducible apply readyFrame_kept | split | dsimp -zeta only)

theorem State.dataAt_kept {s₀ s : State} (h₀ : Kept s₀ s) (d : DataDg) : Kept s₀ (State.dataAt s d) := by
  unfold State.dataAt
  repeat' (first | with_reducible assumption | with_reducible apply State.dataIn_kept | with_reducible apply State.updateLanes_kept | with_reducible apply State.takeRestore_kept | with_reducible apply State.readyWhenDone_kept | ((try lift_lets); intro z; try (refine (have hz : Kept s₀ z := ?_; ?_))) | split | subst z)

theorem execData_next (d : DataDg) (s : State) : ∃ s', execData d s = .next s' ∧ Kept s s' := by
  have h₀ := Kept.refl s
  refine ⟨_, rfl, ?_⟩
  repeat' (first | with_reducible assumption | with_reducible apply State.dataAt_kept | split)

end Sys2Proof.Machine
end

