-- ==== Sys2Proof/Laws/InboxKept.lean ====
section
/-! SUPPORT. Each operation of Machine/Inbox.lean leaves what `Kept` says as it is. -/

namespace Sys2Proof.Machine

theorem State.answerDg_kept {s₀ s : State} (h₀ : Kept s₀ s) (d : Datagram) : Kept s₀ (State.answerDg s d) := by
  unfold State.answerDg
  repeat' (first | with_reducible assumption | ((with_reducible refine Kept.update ?_ ?_ (hf := ?_)) <;> first | with_reducible assumption | exact rfl | exact ⟨fun h => h⟩) | with_reducible apply State.dataAt_kept | with_reducible apply State.draw_kept | with_reducible apply ackIn_kept | with_reducible apply receiveDir_kept | with_reducible apply statusGet_kept | with_reducible apply statusPut_kept | with_reducible apply State.discardDg_kept | ((try lift_lets); intro z; try (refine (have hz : Kept s₀ z := ?_; ?_))) | split | dsimp -zeta only | refine Kept.pair (by with_reducible assumption) ?_ | subst z)

theorem State.takeDg_kept {s₀ s : State} (h₀ : Kept s₀ s) (bs : List Byte) : Kept s₀ (State.takeDg s bs) := by
  unfold State.takeDg
  repeat' (first | with_reducible assumption | with_reducible apply State.txdg_kept | with_reducible apply State.send_kept | with_reducible apply State.forward_kept | with_reducible apply State.discardDg_kept | with_reducible apply State.answerDg_kept | ((try lift_lets); intro z; try (refine (have hz : Kept s₀ z := ?_; ?_))) | split | with_reducible refine KeptJ.ok ?_ (by with_reducible assumption) | with_reducible refine KeptJ.wait ?_ (by with_reducible assumption) | subst z)

theorem State.takeInbox_kept {s₀ s : State} (h₀ : Kept s₀ s) : Kept s₀ (State.takeInbox s) := by
  unfold State.takeInbox
  repeat' (first | with_reducible assumption | ((with_reducible refine Kept.update ?_ ?_ (hf := ?_)) <;> first | with_reducible assumption | exact rfl | exact ⟨fun h => h⟩) | with_reducible apply State.takeDg_kept | with_reducible refine Kept.foldl (fun _ _ _ => ?_) _ ?_ | ((try lift_lets); intro z; try (refine (have hz : Kept s₀ z := ?_; ?_))) | subst z)

theorem execRelay_next (p : Option (Fin 6)) (f : DataFrame) (s : State) : ∃ s', execRelay p f s = .next s' ∧ Kept s s' := by
  have h₀ := Kept.refl s
  refine ⟨_, rfl, ?_⟩
  repeat' (first | with_reducible assumption | with_reducible apply dataFrame_kept | with_reducible apply State.takeInbox_kept)

theorem execControlFrame_next (p : Fin 6) (ack : Nat) (returns : List Nat) (s : State) : ∃ s', execControlFrame p ack returns s = .next s' ∧ Kept s s' := by
  have h₀ := Kept.refl s
  refine ⟨_, rfl, ?_⟩
  repeat' (first | with_reducible assumption | with_reducible apply controlFrame_kept | with_reducible apply State.comeUp_kept | with_reducible apply State.takeInbox_kept | split)

end Sys2Proof.Machine
end

