-- ==== Sys2Proof/Laws/MatrixKept.lean ====
section
/-! SUPPORT. Each operation of Machine/Matrix.lean leaves what `Kept` says as it is. -/

namespace Sys2Proof.Machine

theorem stepRetire_kept {s₀ s : State} (h₀ : Kept s₀ s) (w : W128) (keys : List Nat) (lat : Nat) : Kept s₀ (stepRetire w keys lat s) := by
  unfold stepRetire
  repeat' (first | with_reducible assumption | ((with_reducible refine Kept.update ?_ ?_ (hf := ?_)) <;> first | with_reducible assumption | exact rfl | exact ⟨fun h => h⟩) | exact ⟨fun a _ => State.canonical_core (Kept.canon ‹_› a) _⟩ | exact ⟨fun _ c => State.canonical_core c _⟩ | refine CoreStep.mk fun _ hy => ?_ | refine CanonCore.mk fun ha hy => ?_ | with_reducible exact hy | with_reducible apply Core.incAreg_canonical | with_reducible apply Core.retire_canonical | exact hy | exact State.canonical_core hy _ | exact State.canonical_core (Kept.canon ‹_› ha) _ | with_reducible apply State.modCore_kept | with_reducible apply State.retire_kept | with_reducible refine Kept.foldl (fun _ _ _ => ?_) _ ?_ | ((try lift_lets); intro z; try (refine (have hz : Kept s₀ z := ?_; ?_))) | subst z)

theorem stepRun_kept {s₀ s : State} (h₀ : Kept s₀ s) (w : W128) (keys : List Nat) (poison : Bool) (t : AccTile) : Kept s₀ (stepRun w keys poison t s) := by
  unfold stepRun
  repeat' (first | with_reducible assumption | ((with_reducible refine Kept.update ?_ ?_ (hf := ?_)) <;> first | with_reducible assumption | exact rfl | exact ⟨fun h => h⟩) | exact ⟨fun a _ => State.canonical_core (Kept.canon ‹_› a) _⟩ | exact ⟨fun _ c => State.canonical_core c _⟩ | refine CoreStep.mk fun _ hy => ?_ | refine CanonCore.mk fun ha hy => ?_ | with_reducible exact hy | with_reducible apply Core.setHandle_canonical | exact hy | exact State.canonical_core hy _ | exact State.canonical_core (Kept.canon ‹_› ha) _ | with_reducible apply stepRetire_kept | with_reducible apply State.modCore_kept | ((try lift_lets); intro z; try (refine (have hz : Kept s₀ z := ?_; ?_))) | split | subst z)

theorem stepEffect_kept {s₀ s : State} (h₀ : Kept s₀ s) (w : W128) (keys : List Nat) : Kept s₀ (stepEffect w keys s) := by
  unfold stepEffect
  repeat' (first | with_reducible assumption | ((with_reducible refine Kept.update ?_ ?_ (hf := ?_)) <;> first | with_reducible assumption | exact rfl | exact ⟨fun h => h⟩) | with_reducible apply stepRetire_kept | with_reducible apply State.coreFault_kept | with_reducible apply stepRun_kept | ((try lift_lets); intro z; try (refine (have hz : Kept s₀ z := ?_; ?_))) | split | dsimp -zeta only | subst z)

theorem mstepBody_kept {s₀ s : State} (h₀ : Kept s₀ s) (k : Nat) (w : W128) (c : Core) : Kept s₀ (mstepBody k w c s) := by
  unfold mstepBody
  repeat' (first | with_reducible assumption | ((with_reducible refine Kept.update ?_ ?_ (hf := ?_)) <;> first | with_reducible assumption | exact rfl | exact ⟨fun h => h⟩) | exact ⟨fun _ hy => hy⟩ | exact ⟨fun a _ => State.canonical_core (Kept.canon ‹_› a) _⟩ | exact ⟨fun _ c => State.canonical_core c _⟩ | refine CoreStep.mk fun _ hy => ?_ | refine CanonCore.mk fun ha hy => ?_ | with_reducible exact hy | exact hy | exact State.canonical_core hy _ | exact State.canonical_core (Kept.canon ‹_› ha) _ | with_reducible apply State.coreFault_kept | with_reducible apply State.modCore_kept | with_reducible apply stepEffect_kept | ((try lift_lets); intro z; try (refine (have hz : Kept s₀ z := ?_; ?_))) | split | subst z)

theorem execMstep_next (k : CoreId) (s : State) : ∃ s', execMstep k s = .next s' ∧ Kept s s' := by
  have h₀ := Kept.refl s
  refine ⟨_, rfl, ?_⟩
  repeat' (first | with_reducible assumption | with_reducible refine coreIssue_kept ?_ _ _ (fun _ _ _ _ => ?_) | with_reducible apply mstepBody_kept)

theorem allocBody_kept {s₀ s : State} (h₀ : Kept s₀ s) (k : Nat) (w : W128) (c : Core) : Kept s₀ (allocBody k w c s) := by
  unfold allocBody
  repeat' (first | with_reducible assumption | ((with_reducible refine Kept.update ?_ ?_ (hf := ?_)) <;> first | with_reducible assumption | exact rfl | exact ⟨fun h => h⟩) | exact ⟨fun a _ => State.canonical_core (Kept.canon ‹_› a) _⟩ | exact ⟨fun _ c => State.canonical_core c _⟩ | refine CoreStep.mk fun _ hy => ?_ | refine CanonCore.mk fun ha hy => ?_ | with_reducible exact hy | with_reducible apply Core.setHandle_canonical | with_reducible apply Core.retire_canonical | exact hy | exact State.canonical_core hy _ | exact State.canonical_core (Kept.canon ‹_› ha) _ | with_reducible apply State.retire_kept | with_reducible apply State.coreFault_kept | with_reducible apply State.modCore_kept | ((try lift_lets); intro z; try (refine (have hz : Kept s₀ z := ?_; ?_))) | split | subst z)

theorem freeBody_kept {s₀ s : State} (h₀ : Kept s₀ s) (k : Nat) (w : W128) (c : Core) : Kept s₀ (freeBody k w c s) := by
  unfold freeBody
  repeat' (first | with_reducible assumption | ((with_reducible refine Kept.update ?_ ?_ (hf := ?_)) <;> first | with_reducible assumption | exact rfl | exact ⟨fun h => h⟩) | exact ⟨fun a _ => State.canonical_core (Kept.canon ‹_› a) _⟩ | exact ⟨fun _ c => State.canonical_core c _⟩ | refine CoreStep.mk fun _ hy => ?_ | refine CanonCore.mk fun ha hy => ?_ | with_reducible exact hy | with_reducible apply Core.setHandle_canonical | with_reducible apply Core.retire_canonical | exact hy | exact State.canonical_core hy _ | exact State.canonical_core (Kept.canon ‹_› ha) _ | with_reducible apply State.coreFault_kept | with_reducible apply State.modCore_kept | with_reducible apply State.retire_kept | ((try lift_lets); intro z; try (refine (have hz : Kept s₀ z := ?_; ?_))) | split | subst z)

theorem zeroBody_kept {s₀ s : State} (h₀ : Kept s₀ s) (k : Nat) (w : W128) (c : Core) : Kept s₀ (zeroBody k w c s) := by
  unfold zeroBody
  repeat' (first | with_reducible assumption | ((with_reducible refine Kept.update ?_ ?_ (hf := ?_)) <;> first | with_reducible assumption | exact rfl | exact ⟨fun h => h⟩) | exact ⟨fun a _ => State.canonical_core (Kept.canon ‹_› a) _⟩ | exact ⟨fun _ c => State.canonical_core c _⟩ | refine CoreStep.mk fun _ hy => ?_ | refine CanonCore.mk fun ha hy => ?_ | with_reducible exact hy | with_reducible apply Core.setHandle_canonical | with_reducible apply Core.retire_canonical | exact hy | exact State.canonical_core hy _ | exact State.canonical_core (Kept.canon ‹_› ha) _ | with_reducible apply State.coreFault_kept | with_reducible apply State.modCore_kept | with_reducible apply State.retire_kept | ((try lift_lets); intro z; try (refine (have hz : Kept s₀ z := ?_; ?_))) | split | subst z)

theorem execAccAlloc_next (k : CoreId) (s : State) : ∃ s', execAccAlloc k s = .next s' ∧ Kept s s' := by
  have h₀ := Kept.refl s
  refine ⟨_, rfl, ?_⟩
  repeat' (first | with_reducible assumption | with_reducible refine coreIssue_kept ?_ _ _ (fun _ _ _ _ => ?_) | with_reducible apply allocBody_kept)

theorem execAccFree_next (k : CoreId) (s : State) : ∃ s', execAccFree k s = .next s' ∧ Kept s s' := by
  have h₀ := Kept.refl s
  refine ⟨_, rfl, ?_⟩
  repeat' (first | with_reducible assumption | with_reducible refine coreIssue_kept ?_ _ _ (fun _ _ _ _ => ?_) | with_reducible apply freeBody_kept)

theorem execAccZero_next (k : CoreId) (s : State) : ∃ s', execAccZero k s = .next s' ∧ Kept s s' := by
  have h₀ := Kept.refl s
  refine ⟨_, rfl, ?_⟩
  repeat' (first | with_reducible assumption | with_reducible refine coreIssue_kept ?_ _ _ (fun _ _ _ _ => ?_) | with_reducible apply zeroBody_kept)

theorem spillDone_kept {s₀ s : State} (h₀ : Kept s₀ s) (k : Nat) (w : W128) (lat : Nat) : Kept s₀ (spillDone k w s lat) := by
  unfold spillDone
  repeat' (first | with_reducible assumption | exact ⟨fun a _ => State.canonical_core (Kept.canon ‹_› a) _⟩ | exact ⟨fun _ c => State.canonical_core c _⟩ | refine CoreStep.mk fun _ hy => ?_ | refine CanonCore.mk fun ha hy => ?_ | with_reducible exact hy | with_reducible apply Core.incAreg_canonical | with_reducible apply Core.retire_canonical | exact hy | exact State.canonical_core hy _ | exact State.canonical_core (Kept.canon ‹_› ha) _ | with_reducible apply State.modCore_kept | with_reducible apply State.retire_kept)

theorem spillBody_kept {s₀ s : State} (h₀ : Kept s₀ s) (k : Nat) (w : W128) (c : Core) : Kept s₀ (spillBody k w c s) := by
  unfold spillBody
  repeat' (first | with_reducible assumption | ((with_reducible refine Kept.update ?_ ?_ (hf := ?_)) <;> first | with_reducible assumption | exact rfl | exact ⟨fun h => h⟩) | exact ⟨fun a _ => State.canonical_core (Kept.canon ‹_› a) _⟩ | exact ⟨fun _ c => State.canonical_core c _⟩ | refine CoreStep.mk fun _ hy => ?_ | refine CanonCore.mk fun ha hy => ?_ | with_reducible exact hy | with_reducible apply Core.setHandle_canonical | exact hy | exact State.canonical_core hy _ | exact State.canonical_core (Kept.canon ‹_› ha) _ | with_reducible apply State.coreFault_kept | with_reducible apply spillDone_kept | with_reducible apply State.modCore_kept | with_reducible apply State.spillWrite_kept | with_reducible refine Kept.foldl (fun _ _ _ => ?_) _ ?_ | ((try lift_lets); intro z; try (refine (have hz : Kept s₀ z := ?_; ?_))) | split | subst z)

theorem execSpill_next (k : CoreId) (s : State) : ∃ s', execSpill k s = .next s' ∧ Kept s s' := by
  have h₀ := Kept.refl s
  refine ⟨_, rfl, ?_⟩
  repeat' (first | with_reducible assumption | with_reducible refine coreIssue_kept ?_ _ _ (fun _ _ _ _ => ?_) | with_reducible apply spillBody_kept)

theorem chainBody_kept {s₀ s : State} (h₀ : Kept s₀ s) (k : Nat) (w : W128) (x2 : Core) : Kept s₀ (chainBody k w x2 s) := by
  unfold chainBody
  repeat' (first | with_reducible assumption | ((with_reducible refine Kept.update ?_ ?_ (hf := ?_)) <;> first | with_reducible assumption | exact rfl | exact ⟨fun h => h⟩) | exact ⟨fun a _ => State.canonical_core (Kept.canon ‹_› a) _⟩ | exact ⟨fun _ c => State.canonical_core c _⟩ | refine CoreStep.mk fun _ hy => ?_ | refine CanonCore.mk fun ha hy => ?_ | with_reducible exact hy | with_reducible apply Core.retire_canonical | exact hy | exact State.canonical_core hy _ | exact State.canonical_core (Kept.canon ‹_› ha) _ | with_reducible apply State.modCore_kept | with_reducible apply State.retire_kept | ((try lift_lets); intro z; try (refine (have hz : Kept s₀ z := ?_; ?_))) | subst z)

theorem execChain_next (k : CoreId) (s : State) : ∃ s', execChain k s = .next s' ∧ Kept s s' := by
  have h₀ := Kept.refl s
  refine ⟨_, rfl, ?_⟩
  repeat' (first | with_reducible assumption | with_reducible refine coreIssue_kept ?_ _ _ (fun _ _ _ _ => ?_) | with_reducible apply chainBody_kept)

end Sys2Proof.Machine
end

