-- ==== Sys2Proof/Laws/SeqKept.lean ====
section
/-! SUPPORT. Each operation of Machine/Seq.lean leaves what `Kept` says as it is. -/

namespace Sys2Proof.Machine

theorem twaitBody_kept {s₀ s : State} (h₀ : Kept s₀ s) (k : Nat) (w : W128) (x2 : Core) : Kept s₀ (twaitBody k w x2 s) := by
  unfold twaitBody
  repeat' (first | with_reducible assumption | ((with_reducible refine Kept.update ?_ ?_ (hf := ?_)) <;> first | with_reducible assumption | exact rfl | exact ⟨fun h => h⟩) | exact ⟨fun a _ => State.canonical_core (Kept.canon ‹_› a) _⟩ | exact ⟨fun _ c => State.canonical_core c _⟩ | refine CoreStep.mk fun _ hy => ?_ | refine CanonCore.mk fun ha hy => ?_ | with_reducible exact hy | with_reducible apply Core.retire_canonical | exact hy | exact State.canonical_core hy _ | exact State.canonical_core (Kept.canon ‹_› ha) _ | with_reducible apply State.retire_kept | with_reducible apply State.modCore_kept | ((try lift_lets); intro z; try (refine (have hz : Kept s₀ z := ?_; ?_))) | split | subst z)

theorem execTwait_next (k : CoreId) (s : State) : ∃ s', execTwait k s = .next s' ∧ Kept s s' := by
  have h₀ := Kept.refl s
  refine ⟨_, rfl, ?_⟩
  repeat' (first | with_reducible assumption | with_reducible refine coreIssue_kept ?_ _ _ (fun _ _ _ _ => ?_) | with_reducible apply twaitBody_kept)

theorem twaitRelease_kept {s₀ s : State} (h₀ : Kept s₀ s) (k : Nat) : Kept s₀ (twaitRelease k s) := by
  unfold twaitRelease
  repeat' (first | with_reducible assumption | ((with_reducible refine Kept.update ?_ ?_ (hf := ?_)) <;> first | with_reducible assumption | exact rfl | exact ⟨fun h => h⟩) | exact ⟨fun a _ => State.canonical_core (Kept.canon ‹_› a) _⟩ | exact ⟨fun _ c => State.canonical_core c _⟩ | refine CoreStep.mk fun _ hy => ?_ | refine CanonCore.mk fun ha hy => ?_ | with_reducible exact hy | with_reducible apply Core.retire_canonical | exact hy | exact State.canonical_core hy _ | exact State.canonical_core (Kept.canon ‹_› ha) _ | with_reducible apply State.modCore_kept | with_reducible apply State.retire_kept | ((try lift_lets); intro z; try (refine (have hz : Kept s₀ z := ?_; ?_))) | split | subst z)

theorem execTwaitRelease_next (k : CoreId) (s : State) : ∃ s', execTwaitRelease k s = .next s' ∧ Kept s s' := by
  have h₀ := Kept.refl s
  refine ⟨_, rfl, ?_⟩
  repeat' (first | with_reducible assumption | with_reducible apply twaitRelease_kept)

theorem tsigBody_kept {s₀ s : State} (h₀ : Kept s₀ s) (k : Nat) (w : W128) (c : Core) : Kept s₀ (tsigBody k w c s) := by
  unfold tsigBody
  repeat' (first | with_reducible assumption | ((with_reducible refine Kept.update ?_ ?_ (hf := ?_)) <;> first | with_reducible assumption | exact rfl | exact ⟨fun h => h⟩) | exact ⟨fun a _ => State.canonical_core (Kept.canon ‹_› a) _⟩ | exact ⟨fun _ c => State.canonical_core c _⟩ | refine CoreStep.mk fun _ hy => ?_ | refine CanonCore.mk fun ha hy => ?_ | with_reducible exact hy | with_reducible apply Core.retire_canonical | exact hy | exact State.canonical_core hy _ | exact State.canonical_core (Kept.canon ‹_› ha) _ | with_reducible apply State.coreFault_kept | with_reducible apply State.issueToken_kept | with_reducible apply State.modCore_kept | with_reducible apply State.retire_kept | with_reducible apply State.addToken_kept | ((try lift_lets); intro z; try (refine (have hz : Kept s₀ z := ?_; ?_))) | split | refine KeptO.get ?_ (by with_reducible assumption) | subst z)

theorem execTsig_next (k : CoreId) (s : State) : ∃ s', execTsig k s = .next s' ∧ Kept s s' := by
  have h₀ := Kept.refl s
  refine ⟨_, rfl, ?_⟩
  repeat' (first | with_reducible assumption | with_reducible refine coreIssue_kept ?_ _ _ (fun _ _ _ _ => ?_) | with_reducible apply tsigBody_kept)

theorem fencedTsig_kept {s₀ s : State} (h₀ : Kept s₀ s) (k : Nat) : Kept s₀ (fencedTsig k s) := by
  unfold fencedTsig
  repeat' (first | with_reducible assumption | ((with_reducible refine Kept.update ?_ ?_ (hf := ?_)) <;> first | with_reducible assumption | exact rfl | exact ⟨fun h => h⟩) | exact ⟨fun _ hy => hy⟩ | exact ⟨fun a _ => State.canonical_core (Kept.canon ‹_› a) _⟩ | exact ⟨fun _ c => State.canonical_core c _⟩ | refine CoreStep.mk fun _ hy => ?_ | refine CanonCore.mk fun ha hy => ?_ | with_reducible exact hy | exact hy | exact State.canonical_core hy _ | exact State.canonical_core (Kept.canon ‹_› ha) _ | with_reducible apply State.modCore_kept | with_reducible apply State.addToken_kept | with_reducible apply State.coreFaultAt_kept | ((try lift_lets); intro z; try (refine (have hz : Kept s₀ z := ?_; ?_))) | split | refine KeptO.get ?_ (by with_reducible assumption) | subst z)

theorem execFencedTsig_next (k : CoreId) (s : State) : ∃ s', execFencedTsig k s = .next s' ∧ Kept s s' := by
  have h₀ := Kept.refl s
  refine ⟨_, rfl, ?_⟩
  repeat' (first | with_reducible assumption | with_reducible apply fencedTsig_kept)

theorem loopBody_kept {s₀ s : State} (h₀ : Kept s₀ s) (k : Nat) (w : W128) (c : Core) : Kept s₀ (loopBody k w c s) := by
  unfold loopBody
  repeat' (first | with_reducible assumption | ((with_reducible refine Kept.update ?_ ?_ (hf := ?_)) <;> first | with_reducible assumption | exact rfl | exact ⟨fun h => h⟩) | exact ⟨fun _ hy => hy⟩ | exact ⟨fun a _ => State.canonical_core (Kept.canon ‹_› a) _⟩ | exact ⟨fun _ c => State.canonical_core c _⟩ | refine CoreStep.mk fun _ hy => ?_ | refine CanonCore.mk fun ha hy => ?_ | with_reducible exact hy | exact hy | exact State.canonical_core hy _ | exact State.canonical_core (Kept.canon ‹_› ha) _ | with_reducible apply State.coreFault_kept | with_reducible apply State.modCore_kept | ((try lift_lets); intro z; try (refine (have hz : Kept s₀ z := ?_; ?_))) | split | dsimp -zeta only | subst z)

theorem execLoop_next (k : CoreId) (s : State) : ∃ s', execLoop k s = .next s' ∧ Kept s s' := by
  have h₀ := Kept.refl s
  refine ⟨_, rfl, ?_⟩
  repeat' (first | with_reducible assumption | with_reducible refine coreIssue_kept ?_ _ _ (fun _ _ _ _ => ?_) | with_reducible apply loopBody_kept)

theorem addrBody_kept {s₀ s : State} (h₀ : Kept s₀ s) (k : Nat) (w : W128) (c : Core) : Kept s₀ (addrBody k w c s) := by
  unfold addrBody
  repeat' (first | with_reducible assumption | exact ⟨fun a _ => State.canonical_core (Kept.canon ‹_› a) _⟩ | exact ⟨fun _ c => State.canonical_core c _⟩ | refine CoreStep.mk fun _ hy => ?_ | refine CanonCore.mk fun ha hy => ?_ | with_reducible exact hy | with_reducible apply Core.setAreg_canonical | with_reducible apply Core.retire_canonical | exact hy | exact State.canonical_core hy _ | exact State.canonical_core (Kept.canon ‹_› ha) _ | with_reducible apply State.modCore_kept | with_reducible apply State.retire_kept | ((try lift_lets); intro z; try (refine (have hz : Kept s₀ z := ?_; ?_))) | subst z)

theorem execAddr_next (k : CoreId) (s : State) : ∃ s', execAddr k s = .next s' ∧ Kept s s' := by
  have h₀ := Kept.refl s
  refine ⟨_, rfl, ?_⟩
  repeat' (first | with_reducible assumption | with_reducible refine coreIssue_kept ?_ _ _ (fun _ _ _ _ => ?_) | with_reducible apply addrBody_kept)

theorem endBody_kept {s₀ s : State} (h₀ : Kept s₀ s) (k : Nat) (x1 : W128) (x2 : Core) : Kept s₀ (endBody k x1 x2 s) := by
  unfold endBody
  repeat' (first | with_reducible assumption | ((with_reducible refine Kept.update ?_ ?_ (hf := ?_)) <;> first | with_reducible assumption | exact rfl | exact ⟨fun h => h⟩) | exact ⟨fun a _ => State.canonical_core (Kept.canon ‹_› a) _⟩ | exact ⟨fun _ c => State.canonical_core c _⟩ | refine CoreStep.mk fun _ hy => ?_ | refine CanonCore.mk fun ha hy => ?_ | with_reducible exact hy | with_reducible apply Core.unbind_canonical | with_reducible apply Core.pocket_canonical | exact Core.unbind_canonical hy | exact hy | exact State.canonical_core hy _ | exact State.canonical_core (Kept.canon ‹_› ha) _ | with_reducible apply State.modCore_kept | ((try lift_lets); intro z; try (refine (have hz : Kept s₀ z := ?_; ?_))) | subst z)

theorem execEndProg_next (k : CoreId) (s : State) : ∃ s', execEndProg k s = .next s' ∧ Kept s s' := by
  have h₀ := Kept.refl s
  refine ⟨_, rfl, ?_⟩
  repeat' (first | with_reducible assumption | with_reducible refine coreIssue_kept ?_ _ _ (fun _ _ _ _ => ?_) | with_reducible apply endBody_kept)

end Sys2Proof.Machine
end

