-- ==== Sys2Proof/Laws/SiteEventsKept.lean ====
section
/-! SUPPORT. Each operation of Machine/SiteEvents.lean leaves what `Kept` says as it is. -/

namespace Sys2Proof.Machine

theorem execScheduledRetrainComplete_next (i : Fin 24) (s : State) : ∃ s', execScheduledRetrainComplete i s = .next s' ∧ Kept s s' := by
  have h₀ := Kept.refl s
  refine ⟨_, rfl, ?_⟩
  repeat' (first | with_reducible assumption | ((with_reducible refine Kept.update ?_ ?_ (hf := ?_)) <;> first | with_reducible assumption | exact rfl | exact ⟨fun h => h⟩) | exact ⟨fun _ hy => hy⟩ | exact ⟨fun a _ => State.canonical_site (Kept.canon ‹_› a) _⟩ | exact ⟨fun _ c => State.canonical_site c _⟩ | refine SiteStep.mk fun _ hy => ?_ | refine CanonSite.mk fun ha hy => ?_ | with_reducible exact hy | exact hy | exact State.canonical_site hy _ | exact State.canonical_site (Kept.canon ‹_› ha) _ | with_reducible apply State.modSite_kept | with_reducible apply State.drainSite_kept | with_reducible apply State.drainAllGust_kept | ((try lift_lets); intro z; try (refine (have hz : Kept s z := ?_; ?_))) | split | subst z)

theorem execRetrainComplete_next (i : Fin 24) (s : State) : ∃ s', execRetrainComplete i s = .next s' ∧ Kept s s' := by
  have h₀ := Kept.refl s
  refine ⟨_, rfl, ?_⟩
  repeat' (first | with_reducible assumption | ((with_reducible refine Kept.update ?_ ?_ (hf := ?_)) <;> first | with_reducible assumption | exact rfl | exact ⟨fun h => h⟩) | exact ⟨fun _ hy => hy⟩ | exact ⟨fun a _ => State.canonical_site (Kept.canon ‹_› a) _⟩ | exact ⟨fun _ c => State.canonical_site c _⟩ | refine SiteStep.mk fun _ hy => ?_ | refine CanonSite.mk fun ha hy => ?_ | with_reducible exact hy | exact hy | exact State.canonical_site hy _ | exact State.canonical_site (Kept.canon ‹_› ha) _ | with_reducible apply State.modSite_kept | with_reducible apply State.drainSite_kept | with_reducible apply State.drainAllGust_kept | ((try lift_lets); intro z; try (refine (have hz : Kept s z := ?_; ?_))) | split | subst z)

theorem siteFailed_kept {s₀ s : State} (h₀ : Kept s₀ s) (i : Nat) : Kept s₀ (siteFailed i s) := by
  unfold siteFailed
  repeat' (first | with_reducible assumption | ((with_reducible refine Kept.update ?_ ?_ (hf := ?_)) <;> first | with_reducible assumption | exact rfl | exact ⟨fun h => h⟩) | exact ⟨fun _ hy => hy⟩ | exact ⟨fun a _ => State.canonical_site (Kept.canon ‹_› a) _⟩ | exact ⟨fun _ c => State.canonical_site c _⟩ | refine SiteStep.mk fun _ hy => ?_ | refine CanonSite.mk fun ha hy => ?_ | with_reducible exact hy | exact hy | exact State.canonical_site hy _ | exact State.canonical_site (Kept.canon ‹_› ha) _ | with_reducible apply State.stallEnd_kept | with_reducible apply State.modSite_kept | with_reducible apply State.siteFault_kept | with_reducible apply State.request_kept | with_reducible apply State.drainAllGust_kept | with_reducible refine Kept.foldl (fun _ _ _ => ?_) _ ?_ | ((try lift_lets); intro z; try (refine (have hz : Kept s₀ z := ?_; ?_))) | split | subst z)

theorem execSiteFailed_next (i : Fin 24) (s : State) : ∃ s', execSiteFailed i s = .next s' ∧ Kept s s' := by
  have h₀ := Kept.refl s
  refine ⟨_, rfl, ?_⟩
  repeat' (first | with_reducible assumption | with_reducible apply siteFailed_kept | split)

end Sys2Proof.Machine
end

