-- ==== Sys2Proof/Laws/TickKept.lean ====
section
/-! SUPPORT. Each operation of Machine/Tick.lean leaves what `Kept` says as it is. -/

namespace Sys2Proof.Machine

theorem State.addCause_kept {s₀ s : State} (h₀ : Kept s₀ s) (c : Nat) : Kept s₀ (State.addCause s c) := by
  unfold State.addCause
  repeat' (first | with_reducible assumption | ((with_reducible refine Kept.update ?_ ?_ (hf := ?_)) <;> first | with_reducible assumption | exact rfl | exact ⟨fun h => h⟩) | with_reducible apply State.modFrm_kept | ((try lift_lets); intro z; try (refine (have hz : Kept s₀ z := ?_; ?_))) | split | subst z)

theorem State.newFrame_kept {r s : State} (h : Kept r s) : Kept r (State.newFrame s) :=
  h.update rfl ⟨fun c => FaultUnit.canonical_iff.2 ⟨rfl, (FaultUnit.canonical_iff.1 c).2⟩⟩

theorem State.takeRoster_kept {s₀ s : State} (h₀ : Kept s₀ s) : Kept s₀ (State.takeRoster s) := by
  unfold State.takeRoster
  repeat' (first | with_reducible assumption | ((with_reducible refine Kept.update ?_ ?_ (hf := ?_)) <;> first | with_reducible assumption | exact rfl | exact ⟨fun h => h⟩) | with_reducible apply roster_kept | with_reducible apply State.withdraw_kept | with_reducible refine Kept.foldl (fun _ _ _ => ?_) _ ?_ | ((try lift_lets); intro z; try (refine (have hz : Kept s₀ z := ?_; ?_))) | split | subst z)

theorem State.takePL_kept {s₀ s : State} (h₀ : Kept s₀ s) : Kept s₀ (State.takePL s) := by
  unfold State.takePL
  repeat' (first | with_reducible assumption | ((with_reducible refine Kept.update ?_ ?_ (hf := ?_)) <;> first | with_reducible assumption | exact rfl | exact ⟨fun h => h⟩) | with_reducible apply State.modFrm_kept | ((try lift_lets); intro z; try (refine (have hz : Kept s₀ z := ?_; ?_))) | split | subst z)

theorem State.passLead_kept {s₀ s : State} (h₀ : Kept s₀ s) : Kept s₀ (State.passLead s) := by
  unfold State.passLead
  repeat' (first | with_reducible assumption | ((with_reducible refine Kept.update ?_ ?_ (hf := ?_)) <;> first | with_reducible assumption | exact rfl | exact ⟨fun h => h⟩) | with_reducible apply State.modFrm_kept | ((try lift_lets); intro z; try (refine (have hz : Kept s₀ z := ?_; ?_))) | split | subst z)

theorem State.terminate_kept {s₀ s : State} (h₀ : Kept s₀ s) : Kept s₀ (State.terminate s) := by
  unfold State.terminate
  repeat' (first | with_reducible assumption | ((with_reducible refine Kept.update ?_ ?_ (hf := ?_)) <;> first | with_reducible assumption | exact rfl | exact ⟨fun h => h⟩) | with_reducible apply State.endPlan_kept | with_reducible apply State.modFrm_kept | with_reducible refine Kept.foldl (fun _ _ _ => ?_) _ ?_ | ((try lift_lets); intro z; try (refine (have hz : Kept s₀ z := ?_; ?_))) | split | subst z)

theorem State.noPlan_kept {s₀ s : State} (h₀ : Kept s₀ s) : Kept s₀ (State.noPlan s) := by
  unfold State.noPlan
  repeat' (first | with_reducible assumption | with_reducible apply State.addCause_kept | split)

theorem State.endRestore_kept {s₀ s : State} (h₀ : Kept s₀ s) (p : Nat) : Kept s₀ (State.endRestore s p) := by
  unfold State.endRestore
  repeat' (first | with_reducible assumption | ((with_reducible refine Kept.update ?_ ?_ (hf := ?_)) <;> first | with_reducible assumption | exact rfl | exact ⟨fun h => h⟩) | with_reducible apply State.modPlan_kept | ((try lift_lets); intro z; try (refine (have hz : Kept s₀ z := ?_; ?_))) | split | subst z)

theorem State.rematch_kept {s₀ s : State} (h₀ : Kept s₀ s) (p : Nat) : Kept s₀ (State.rematch s p) := by
  unfold State.rematch
  repeat' (first | with_reducible assumption | ((with_reducible refine Kept.update ?_ ?_ (hf := ?_)) <;> first | with_reducible assumption | exact rfl | exact ⟨fun h => h⟩) | with_reducible apply State.modPlan_kept | with_reducible apply State.beginRestore_kept | with_reducible apply State.addCause_kept | with_reducible apply State.resumePoint_kept | ((try lift_lets); intro z; try (refine (have hz : Kept s₀ z := ?_; ?_))) | split | subst z)

theorem State.switchPlan_kept {s₀ s : State} (h₀ : Kept s₀ s) (p : Nat) : Kept s₀ (State.switchPlan s p) := by
  unfold State.switchPlan
  repeat' (first | with_reducible assumption | ((with_reducible refine Kept.update ?_ ?_ (hf := ?_)) <;> first | with_reducible assumption | exact rfl | exact ⟨fun h => h⟩) | with_reducible apply State.modPlan_kept | with_reducible apply State.joinRestore_kept | with_reducible apply State.beginRestore_kept | ((try lift_lets); intro z; try (refine (have hz : Kept s₀ z := ?_; ?_))) | split | subst z)

theorem State.boundaryEvents_kept {s₀ s : State} (h₀ : Kept s₀ s) : Kept s₀ (State.boundaryEvents s) := by
  unfold State.boundaryEvents
  repeat' (first | with_reducible assumption | with_reducible apply State.addCause_kept | with_reducible apply State.terminate_kept | with_reducible apply State.finishCkpt_kept | with_reducible apply State.endRestore_kept | with_reducible apply State.takeFront_kept | with_reducible apply State.rematch_kept | with_reducible apply State.switchPlan_kept | with_reducible apply State.noPlan_kept | with_reducible apply State.tickReductions_kept | with_reducible refine Kept.foldl (fun _ _ _ => ?_) _ ?_ | ((try lift_lets); intro z; try (refine (have hz : Kept s₀ z := ?_; ?_))) | split | subst z)

theorem State.beginSwitch_kept {s₀ s : State} (h₀ : Kept s₀ s) (p : Nat) (q : Plan) : Kept s₀ (State.beginSwitch s p q) := by
  unfold State.beginSwitch
  repeat' (first | with_reducible assumption | ((with_reducible refine Kept.update ?_ ?_ (hf := ?_)) <;> first | with_reducible assumption | exact rfl | exact ⟨fun h => h⟩) | with_reducible apply State.addCause_kept | with_reducible apply State.modPlan_kept | ((try lift_lets); intro z; try (refine (have hz : Kept s₀ z := ?_; ?_))) | split | dsimp -zeta only | subst z)

theorem State.stepEvents_kept {s₀ s : State} (h₀ : Kept s₀ s) (p : Nat) : Kept s₀ (State.stepEvents s p) := by
  unfold State.stepEvents
  repeat' (first | with_reducible assumption | ((with_reducible refine Kept.update ?_ ?_ (hf := ?_)) <;> first | with_reducible assumption | exact rfl | exact ⟨fun h => h⟩) | with_reducible apply State.modPlan_kept | with_reducible apply State.withdraw_kept | with_reducible apply State.beginRestore_kept | with_reducible apply State.addCause_kept | with_reducible apply State.beginSwitch_kept | ((try lift_lets); intro z; try (refine (have hz : Kept s₀ z := ?_; ?_))) | split | subst z)

theorem State.stepBoundary_kept {s₀ s : State} (h₀ : Kept s₀ s) (p : Nat) : Kept s₀ (State.stepBoundary s p) := by
  unfold State.stepBoundary
  repeat' (first | with_reducible assumption | ((with_reducible refine Kept.update ?_ ?_ (hf := ?_)) <;> first | with_reducible assumption | exact rfl | exact ⟨fun h => h⟩) | with_reducible apply State.addCause_kept | with_reducible apply State.modPlan_kept | with_reducible apply State.beginSwitch_kept | with_reducible apply State.startCkpt_kept | ((try lift_lets); intro z; try (refine (have hz : Kept s₀ z := ?_; ?_))) | split | subst z)

theorem State.leavePartner_kept {s₀ s : State} (h₀ : Kept s₀ s) : Kept s₀ (State.leavePartner s) := by
  unfold State.leavePartner
  repeat' (first | with_reducible assumption | ((with_reducible refine Kept.update ?_ ?_ (hf := ?_)) <;> first | with_reducible assumption | exact rfl | exact ⟨fun h => h⟩) | with_reducible apply State.modFrm_kept | ((try lift_lets); intro z; try (refine (have hz : Kept s₀ z := ?_; ?_))) | split | subst z)

theorem State.raiseCommitLate_kept {s₀ s : State} (h₀ : Kept s₀ s) (p : Nat) : Kept s₀ (State.raiseCommitLate s p) := by
  unfold State.raiseCommitLate
  repeat' (first | with_reducible assumption | ((with_reducible refine Kept.update ?_ ?_ (hf := ?_)) <;> first | with_reducible assumption | exact rfl | exact ⟨fun h => h⟩) | with_reducible apply State.raise_kept | with_reducible apply State.modFrm_kept | ((try lift_lets); intro z; try (refine (have hz : Kept s₀ z := ?_; ?_))) | split | subst z)

theorem State.lateCommits_kept {s₀ s : State} (h₀ : Kept s₀ s) : Kept s₀ (State.lateCommits s) := by
  unfold State.lateCommits
  repeat' (first | with_reducible assumption | with_reducible apply State.raiseCommitLate_kept | with_reducible apply State.addCause_kept | with_reducible refine Kept.foldl (fun _ _ _ => ?_) _ ?_)

theorem State.settleState_kept {s₀ s : State} (h₀ : Kept s₀ s) : Kept s₀ (State.settleState s) := by
  unfold State.settleState
  repeat' (first | with_reducible assumption | ((with_reducible refine Kept.update ?_ ?_ (hf := ?_)) <;> first | with_reducible assumption | exact rfl | exact ⟨fun h => h⟩) | with_reducible apply State.modFrm_kept | with_reducible apply State.modPlan_kept | with_reducible apply State.partnerCkpt_kept | with_reducible refine Kept.foldl (fun _ _ _ => ?_) _ ?_ | ((try lift_lets); intro z; try (refine (have hz : Kept s₀ z := ?_; ?_))) | split | subst z)

theorem State.loadRow_kept {s₀ s : State} (h₀ : Kept s₀ s) (p : Nat) (q : Plan) (row : List Nat) : Kept s₀ (State.loadRow s p q row) := by
  unfold State.loadRow
  repeat' (first | with_reducible assumption | ((with_reducible refine Kept.update ?_ ?_ (hf := ?_)) <;> first | with_reducible assumption | exact rfl | exact ⟨fun h => h⟩) | with_reducible apply State.modFrm_kept | ((try lift_lets); intro z; try (refine (have hz : Kept s₀ z := ?_; ?_))) | split | subst z)

theorem State.openStep_kept {s₀ s : State} (h₀ : Kept s₀ s) (p : Nat) (q : Plan) : Kept s₀ (State.openStep s p q) := by
  unfold State.openStep
  repeat' (first | with_reducible assumption | ((with_reducible refine Kept.update ?_ ?_ (hf := ?_)) <;> first | with_reducible assumption | exact rfl | exact ⟨fun h => h⟩) | with_reducible apply State.modPlan_kept | with_reducible apply State.clearStep_kept | ((try lift_lets); intro z; try (refine (have hz : Kept s₀ z := ?_; ?_))) | subst z)

theorem State.openRunning_kept {s₀ s : State} (h₀ : Kept s₀ s) (p : Nat) (q : Plan) : Kept s₀ (State.openRunning s p q) := by
  unfold State.openRunning
  repeat' (first | with_reducible assumption | ((with_reducible refine Kept.update ?_ ?_ (hf := ?_)) <;> first | with_reducible assumption | exact rfl | exact ⟨fun h => h⟩) | with_reducible apply State.modPlan_kept | with_reducible apply State.loadRow_kept | with_reducible apply State.openStep_kept | with_reducible apply State.stepLanes_kept | ((try lift_lets); intro z; try (refine (have hz : Kept s₀ z := ?_; ?_))) | split | subst z)

theorem State.openRestoring_kept {s₀ s : State} (h₀ : Kept s₀ s) (p : Nat) (q : Plan) : Kept s₀ (State.openRestoring s p q) := by
  unfold State.openRestoring
  repeat' (first | with_reducible assumption | ((with_reducible refine Kept.update ?_ ?_ (hf := ?_)) <;> first | with_reducible assumption | exact rfl | exact ⟨fun h => h⟩) | with_reducible apply State.modPlan_kept | with_reducible apply State.loadRow_kept | ((try lift_lets); intro z; try (refine (have hz : Kept s₀ z := ?_; ?_))) | split | subst z)

theorem State.openPlan_kept {s₀ s : State} (h₀ : Kept s₀ s) (p : Nat) : Kept s₀ (State.openPlan s p) := by
  unfold State.openPlan
  repeat' (first | with_reducible assumption | ((with_reducible refine Kept.update ?_ ?_ (hf := ?_)) <;> first | with_reducible assumption | exact rfl | exact ⟨fun h => h⟩) | with_reducible apply State.openRunning_kept | with_reducible apply State.openRestoring_kept | ((try lift_lets); intro z; try (refine (have hz : Kept s₀ z := ?_; ?_))) | split | subst z)

theorem State.countIdle_kept {s₀ s : State} (h₀ : Kept s₀ s) : Kept s₀ (State.countIdle s) := by
  unfold State.countIdle
  repeat' (first | with_reducible assumption | ((with_reducible refine Kept.update ?_ ?_ (hf := ?_)) <;> first | with_reducible assumption | exact rfl | exact ⟨fun h => h⟩) | with_reducible apply State.modFrm_kept | with_reducible apply idle_kept | ((try lift_lets); intro z; try (refine (have hz : Kept s₀ z := ?_; ?_))) | split | subst z)

theorem State.oweNow_kept {s₀ s : State} (h₀ : Kept s₀ s) : Kept s₀ (State.oweNow s) := by
  unfold State.oweNow
  repeat' (first | with_reducible assumption | ((with_reducible refine Kept.update ?_ ?_ (hf := ?_)) <;> first | with_reducible assumption | exact rfl | exact ⟨fun h => h⟩) | with_reducible apply State.modFrm_kept | with_reducible apply State.takeLate_kept | with_reducible apply State.notify_kept | with_reducible refine Kept.foldl (fun _ _ _ => ?_) _ ?_ | ((try lift_lets); intro z; try (refine (have hz : Kept s₀ z := ?_; ?_))) | split | dsimp -zeta only | subst z)

theorem State.openFrames_kept {s₀ s : State} (h₀ : Kept s₀ s) : Kept s₀ (State.openFrames s) := by
  unfold State.openFrames
  repeat' (first | with_reducible assumption | ((with_reducible refine Kept.update ?_ ?_ (hf := ?_)) <;> first | with_reducible assumption | exact rfl | exact ⟨fun h => h⟩) | with_reducible apply State.settleState_kept | with_reducible apply State.openPlan_kept | with_reducible apply State.passLead_kept | with_reducible apply State.intakeTick_kept | with_reducible apply State.countIdle_kept | with_reducible apply State.modFrm_kept | with_reducible apply State.oweNow_kept | with_reducible refine Kept.foldl (fun _ _ _ => ?_) _ ?_ | ((try lift_lets); intro z; try (refine (have hz : Kept s₀ z := ?_; ?_))) | subst z)

theorem State.beforeDirs_kept {s₀ s : State} (h₀ : Kept s₀ s) : Kept s₀ (State.beforeDirs s) := by
  unfold State.beforeDirs
  repeat' (first | with_reducible assumption | ((with_reducible refine Kept.update ?_ ?_ (hf := ?_)) <;> first | with_reducible assumption | exact rfl | exact ⟨fun h => h⟩) | with_reducible apply State.modFrm_kept | with_reducible apply State.newFrame_kept | with_reducible apply State.takeRoster_kept | with_reducible apply State.takePL_kept | with_reducible apply State.stepEvents_kept | with_reducible apply State.boundaryEvents_kept | with_reducible apply State.noPlan_kept | with_reducible refine Kept.foldl (fun _ _ _ => ?_) _ ?_ | ((try lift_lets); intro z; try (refine (have hz : Kept s₀ z := ?_; ?_))) | subst z)

theorem State.boundary_kept {s₀ s : State} (h₀ : Kept s₀ s) : Kept s₀ (State.boundary s) := by
  unfold State.boundary
  repeat' (first | with_reducible assumption | with_reducible apply State.beforeDirs_kept | with_reducible apply State.applyDirs_kept)

theorem State.settleSteps_kept {s₀ s : State} (h₀ : Kept s₀ s) : Kept s₀ (State.settleSteps s) := by
  unfold State.settleSteps
  repeat' (first | with_reducible assumption | with_reducible apply State.stepBoundary_kept | with_reducible apply State.noPlan_kept | with_reducible apply State.leavePartner_kept | with_reducible refine Kept.foldl (fun _ _ _ => ?_) _ ?_)

theorem State.openFrame_kept {s₀ s : State} (h₀ : Kept s₀ s) : Kept s₀ (State.openFrame s) := by
  unfold State.openFrame
  repeat' (first | with_reducible assumption | with_reducible apply State.boundary_kept | with_reducible apply State.restart_kept | with_reducible apply State.settleSteps_kept | with_reducible apply State.lateCommits_kept | with_reducible apply State.openFrames_kept | ((try lift_lets); intro z; try (refine (have hz : Kept s₀ z := ?_; ?_))) | split | subst z)

theorem commitLate_kept {s₀ s : State} (h₀ : Kept s₀ s) (p : Nat) : Kept s₀ (commitLate p s) := by
  unfold commitLate
  repeat' (first | with_reducible assumption | with_reducible apply State.boundary_kept | with_reducible apply State.restart_kept | with_reducible apply State.settleSteps_kept | with_reducible apply State.raiseCommitLate_kept | split)

theorem execCommitLate_next (p : Fin 4) (s : State) : ∃ s', execCommitLate p s = .next s' ∧ Kept s s' := by
  have h₀ := Kept.refl s
  refine ⟨_, rfl, ?_⟩
  repeat' (first | with_reducible assumption | with_reducible apply commitLate_kept)

theorem State.noteTick_kept {s₀ s : State} (h₀ : Kept s₀ s) (o : TickIn) : Kept s₀ (State.noteTick s o) := by
  unfold State.noteTick
  repeat' (first | with_reducible assumption | ((with_reducible refine Kept.update ?_ ?_ (hf := ?_)) <;> first | with_reducible assumption | exact rfl | exact ⟨fun h => h⟩) | with_reducible apply State.modFrm_kept | ((try lift_lets); intro z; try (refine (have hz : Kept s₀ z := ?_; ?_))) | subst z)

theorem State.passTick_kept {s₀ s : State} (h₀ : Kept s₀ s) (o : TickIn) : Kept s₀ (State.passTick s o) := by
  unfold State.passTick
  repeat' (first | with_reducible assumption | ((with_reducible refine Kept.update ?_ ?_ (hf := ?_)) <;> first | with_reducible assumption | exact rfl | exact ⟨fun h => h⟩) | with_reducible apply State.sendLink_kept | with_reducible refine Kept.foldl (fun _ _ _ => ?_) _ ?_ | ((try lift_lets); intro z; try (refine (have hz : Kept s₀ z := ?_; ?_))) | split | subst z)

theorem State.passFirst_kept {s₀ s : State} (h₀ : Kept s₀ s) (o : TickIn) : Kept s₀ (State.passFirst s o) := by
  unfold State.passFirst
  repeat' (first | with_reducible assumption | ((with_reducible refine Kept.update ?_ ?_ (hf := ?_)) <;> first | with_reducible assumption | exact rfl | exact ⟨fun h => h⟩) | with_reducible apply State.passTick_kept | ((try lift_lets); intro z; try (refine (have hz : Kept s₀ z := ?_; ?_))) | split | subst z)

theorem State.timeTick_kept {s₀ s : State} (h₀ : Kept s₀ s) (o : TickIn) : Kept s₀ (State.timeTick s o) := by
  unfold State.timeTick
  repeat' (first | with_reducible assumption | with_reducible apply State.noteTick_kept | split)

theorem State.laterTick_kept {s₀ s : State} (h₀ : Kept s₀ s) (o : TickIn) : Kept s₀ (State.laterTick s o) := by
  unfold State.laterTick
  repeat' (first | with_reducible assumption | ((with_reducible refine Kept.update ?_ ?_ (hf := ?_)) <;> first | with_reducible assumption | exact rfl | exact ⟨fun h => h⟩) | with_reducible apply State.timeTick_kept | with_reducible apply State.passFirst_kept | with_reducible apply State.openFrame_kept | with_reducible apply State.modFrm_kept | with_reducible apply State.fault_kept | ((try lift_lets); intro z; try (refine (have hz : Kept s₀ z := ?_; ?_))) | split | subst z)

theorem State.startPlan_kept {s₀ s : State} (h₀ : Kept s₀ s) (p : Nat) : Kept s₀ (State.startPlan s p) := by
  unfold State.startPlan
  repeat' (first | with_reducible assumption | ((with_reducible refine Kept.update ?_ ?_ (hf := ?_)) <;> first | with_reducible assumption | exact rfl | exact ⟨fun h => h⟩) | with_reducible apply roster_kept | with_reducible apply State.modPlan_kept | with_reducible apply State.addCause_kept | with_reducible apply State.beginRestore_kept | with_reducible apply State.stepConstants_kept | ((try lift_lets); intro z; try (refine (have hz : Kept s₀ z := ?_; ?_))) | split | subst z)

theorem State.enterRun_kept {s₀ s : State} (h₀ : Kept s₀ s) (frame : W48) : Kept s₀ (State.enterRun s frame) := by
  unfold State.enterRun
  repeat' (first | with_reducible assumption | ((with_reducible refine Kept.update ?_ ?_ (hf := ?_)) <;> first | with_reducible assumption | exact rfl | exact ⟨fun h => h⟩) | with_reducible apply State.modFrm_kept | with_reducible apply State.newFrame_kept | ((try lift_lets); intro z; try (refine (have hz : Kept s₀ z := ?_; ?_))) | subst z)

theorem State.openFirst_kept {s₀ s : State} (h₀ : Kept s₀ s) : Kept s₀ (State.openFirst s) := by
  unfold State.openFirst
  repeat' (first | with_reducible assumption | ((with_reducible refine Kept.update ?_ ?_ (hf := ?_)) <;> first | with_reducible assumption | exact rfl | exact ⟨fun h => h⟩) | with_reducible apply State.enterRun_kept | with_reducible apply roster_kept | with_reducible apply State.startPlan_kept | with_reducible apply State.openAccts_kept | with_reducible apply State.modFrm_kept | with_reducible apply State.addCause_kept | with_reducible apply State.noPlan_kept | with_reducible apply State.openFrames_kept | with_reducible refine Kept.foldl (fun _ _ _ => ?_) _ ?_ | ((try lift_lets); intro z; try (refine (have hz : Kept s₀ z := ?_; ?_))) | split | dsimp -zeta only | ((with_reducible refine Kept.update ?_ ?_ (hf := ?_)) <;> first | exact rfl | exact ⟨fun h => h⟩ | with_reducible apply State.enterRun_kept | with_reducible apply roster_kept | with_reducible apply State.startPlan_kept | with_reducible apply State.openAccts_kept | with_reducible apply State.modFrm_kept | with_reducible apply State.addCause_kept | with_reducible apply State.noPlan_kept | with_reducible apply State.openFrames_kept | with_reducible refine Kept.foldl (fun _ _ _ => ?_) _ ?_) | subst z)

theorem State.joinLate_kept {s₀ s : State} (h₀ : Kept s₀ s) (o : TickIn) : Kept s₀ (State.joinLate s o) := by
  unfold State.joinLate
  repeat' (first | with_reducible assumption | ((with_reducible refine Kept.update ?_ ?_ (hf := ?_)) <;> first | with_reducible assumption | exact rfl | exact ⟨fun h => h⟩) | with_reducible apply State.enterRun_kept | with_reducible apply State.modPlan_kept | with_reducible apply State.addCause_kept | with_reducible apply State.modFrm_kept | with_reducible apply State.noPlan_kept | with_reducible apply State.settleState_kept | with_reducible apply State.countIdle_kept | with_reducible refine Kept.foldl (fun _ _ _ => ?_) _ ?_ | ((try lift_lets); intro z; try (refine (have hz : Kept s₀ z := ?_; ?_))) | split | dsimp -zeta only | subst z)

theorem State.earliestTick_kept {s₀ s : State} (h₀ : Kept s₀ s) (o : TickIn) : Kept s₀ (State.earliestTick s o) := by
  unfold State.earliestTick
  repeat' (first | with_reducible assumption | with_reducible apply State.noteTick_kept | with_reducible apply State.passFirst_kept | with_reducible apply State.openFirst_kept | with_reducible apply State.joinLate_kept | ((try lift_lets); intro z; try (refine (have hz : Kept s₀ z := ?_; ?_))) | split | subst z)

theorem tick_kept {s₀ s : State} (h₀ : Kept s₀ s) (o : TickIn) : Kept s₀ (tick o s) := by
  unfold tick
  repeat' (first | with_reducible assumption | ((with_reducible refine Kept.update ?_ ?_ (hf := ?_)) <;> first | with_reducible assumption | exact rfl | exact ⟨fun h => h⟩) | with_reducible apply State.laterTick_kept | with_reducible apply State.hear_kept | with_reducible apply State.earliestTick_kept | with_reducible apply State.passFirst_kept | ((try lift_lets); intro z; try (refine (have hz : Kept s₀ z := ?_; ?_))) | split | dsimp -zeta only | refine Kept.pair (by with_reducible assumption) ?_ | subst z)

theorem execTick_next (o : TickIn) (s : State) : ∃ s', execTick o s = .next s' ∧ Kept s s' := by
  have h₀ := Kept.refl s
  refine ⟨_, rfl, ?_⟩
  repeat' (first | with_reducible assumption | with_reducible apply tick_kept | split)

theorem tickLost_kept {s₀ s : State} (h₀ : Kept s₀ s) : Kept s₀ (tickLost s) := by
  unfold tickLost
  repeat' (first | with_reducible assumption | ((with_reducible refine Kept.update ?_ ?_ (hf := ?_)) <;> first | with_reducible assumption | exact rfl | exact ⟨fun h => h⟩) | with_reducible apply State.openFrame_kept | with_reducible apply State.modFrm_kept | with_reducible apply State.fault_kept | ((try lift_lets); intro z; try (refine (have hz : Kept s₀ z := ?_; ?_))) | split | subst z)

theorem execTickLost_next (s : State) : ∃ s', execTickLost s = .next s' ∧ Kept s s' := by
  have h₀ := Kept.refl s
  refine ⟨_, rfl, ?_⟩
  repeat' (first | with_reducible assumption | with_reducible apply tickLost_kept | split)

theorem firstTick_kept {s₀ s : State} (h₀ : Kept s₀ s) : Kept s₀ (firstTick s) := by
  unfold firstTick
  repeat' (first | with_reducible assumption | ((with_reducible refine Kept.update ?_ ?_ (hf := ?_)) <;> first | with_reducible assumption | exact rfl | exact ⟨fun h => h⟩) | with_reducible apply State.modFrm_kept | with_reducible apply State.passFirst_kept | with_reducible apply State.openFirst_kept | ((try lift_lets); intro z; try (refine (have hz : Kept s₀ z := ?_; ?_))) | split | subst z)

theorem execFirstTick_next (s : State) : ∃ s', execFirstTick s = .next s' ∧ Kept s s' := by
  have h₀ := Kept.refl s
  refine ⟨_, rfl, ?_⟩
  repeat' (first | with_reducible assumption | with_reducible apply firstTick_kept | split | dsimp -zeta only)

end Sys2Proof.Machine
end

