-- ==== Sys2Proof/Laws/TransferKept.lean ====
section
/-! SUPPORT. Each operation of Machine/Transfer.lean leaves what `Kept` says as it is. -/

namespace Sys2Proof.Machine

theorem xferDone_kept {s₀ s : State} (h₀ : Kept s₀ s) (k : Nat) (w : W128) (lat : Nat) : Kept s₀ (xferDone k w lat s) := by
  unfold xferDone
  repeat' (first | with_reducible assumption | exact ⟨fun a _ => State.canonical_core (Kept.canon ‹_› a) _⟩ | exact ⟨fun _ c => State.canonical_core c _⟩ | refine CoreStep.mk fun _ hy => ?_ | refine CanonCore.mk fun ha hy => ?_ | with_reducible exact hy | with_reducible apply Core.incAreg_canonical | with_reducible apply Core.retire_canonical | exact hy | exact State.canonical_core hy _ | exact State.canonical_core (Kept.canon ‹_› ha) _ | with_reducible apply State.modCore_kept | with_reducible apply State.retire_kept)

theorem xferDirect_kept {r s : State} (h : Kept r s) (k : Nat) (load : Bool) (w : W128) (c : Core) : Kept r (xferDirect k load w c s) := by
  unfold xferDirect
  dsimp only
  split
  · exact xferDone_kept h _ _ _
  · split
    · exact State.coreFault_kept h _ _
    · split
      · exact State.coreFault_kept h _ _
      · split
        · refine xferDone_kept (State.modCore_kept h k _ ⟨fun x hx => ?_⟩) _ _ _
          generalize List.range (bfld w 70 9) = l
          induction l generalizing x with
          | nil => exact hx
          | cons i l ih => exact ih _ (Core.putPocket_canonical hx _ _)
        · exact xferDone_kept (Kept.foldl (fun _ _ hz => State.coreWrite_kept hz _ _ _) _ h) _ _ _

theorem descDone_kept {s₀ s : State} (h₀ : Kept s₀ s) (k : Nat) (w : W128) (lat : Nat) : Kept s₀ (descDone k w lat s) := by
  unfold descDone
  repeat' (first | with_reducible assumption | exact ⟨fun a _ => State.canonical_core (Kept.canon ‹_› a) _⟩ | exact ⟨fun _ c => State.canonical_core c _⟩ | refine CoreStep.mk fun _ hy => ?_ | refine CanonCore.mk fun ha hy => ?_ | with_reducible exact hy | with_reducible apply Core.incAreg_canonical | with_reducible apply Core.retire_canonical | exact hy | exact State.canonical_core hy _ | exact State.canonical_core (Kept.canon ‹_› ha) _ | with_reducible apply State.modCore_kept | with_reducible apply State.retire_kept)

theorem descLoad_kept {s₀ s : State} (h₀ : Kept s₀ s) (k : Nat) (w : W128) (c : Core) (p : Plan) (n : Nat) (d : Desc) (base : Nat) : Kept s₀ (descLoad k w c p n d base s) := by
  unfold descLoad
  repeat' (first | with_reducible assumption | ((with_reducible refine Kept.update ?_ ?_ (hf := ?_)) <;> first | with_reducible assumption | exact rfl | exact ⟨fun h => h⟩) | exact ⟨fun a _ => State.canonical_core (Kept.canon ‹_› a) _⟩ | exact ⟨fun _ c => State.canonical_core c _⟩ | refine CoreStep.mk fun _ hy => ?_ | refine CanonCore.mk fun ha hy => ?_ | with_reducible exact hy | with_reducible apply Core.putPocket_canonical | exact hy | exact State.canonical_core hy _ | exact State.canonical_core (Kept.canon ‹_› ha) _ | with_reducible apply descDone_kept | with_reducible apply State.coreFault_kept | with_reducible apply State.readBlock_kept | with_reducible apply State.fault_kept | with_reducible apply State.coreAccess_kept | with_reducible apply State.finishXfer_kept | with_reducible apply State.modCore_kept | ((try lift_lets); intro z; try (refine (have hz : Kept s₀ z := ?_; ?_))) | split | with_reducible refine KeptB.ok ?_ (by with_reducible assumption) | with_reducible refine KeptB.wait ?_ (by with_reducible assumption) | subst z)

theorem State.coreBytes_kept {s₀ s : State} (h₀ : Kept s₀ s) (k : Nat) (plan : Nat) (bs : List ByteOut) : Kept s₀ (State.coreBytes s k plan bs) := by
  unfold State.coreBytes
  repeat' (first | with_reducible assumption | ((with_reducible refine Kept.update ?_ ?_ (hf := ?_)) <;> first | with_reducible assumption | exact rfl | exact ⟨fun h => h⟩) | exact ⟨fun _ hy => hy⟩ | exact ⟨fun a _ => State.canonical_core (Kept.canon ‹_› a) _⟩ | exact ⟨fun _ c => State.canonical_core c _⟩ | refine CoreStep.mk fun _ hy => ?_ | refine CanonCore.mk fun ha hy => ?_ | with_reducible exact hy | exact hy | exact State.canonical_core hy _ | exact State.canonical_core (Kept.canon ‹_› ha) _ | with_reducible apply State.finishXfer_kept | with_reducible apply State.modCore_kept | ((try lift_lets); intro z; try (refine (have hz : Kept s₀ z := ?_; ?_))) | split | dsimp -zeta only | subst z)

theorem descStore_kept {s₀ s : State} (h₀ : Kept s₀ s) (k : Nat) (w : W128) (c : Core) (p : Plan) (n : Nat) (d : Desc) (base : Nat) : Kept s₀ (descStore k w c p n d base s) := by
  unfold descStore
  repeat' (first | with_reducible assumption | ((with_reducible refine Kept.update ?_ ?_ (hf := ?_)) <;> first | with_reducible assumption | exact rfl | exact ⟨fun h => h⟩) | with_reducible apply descDone_kept | with_reducible apply State.coreFault_kept | with_reducible apply State.writable_kept | with_reducible apply State.fault_kept | with_reducible apply State.coreAccess_kept | with_reducible apply State.coreBytes_kept | ((try lift_lets); intro z; try (refine (have hz : Kept s₀ z := ?_; ?_))) | split | dsimp -zeta only | with_reducible refine KeptA.ok ?_ (by with_reducible assumption) | with_reducible refine KeptA.wait ?_ (by with_reducible assumption) | subst z)

theorem xferDesc_kept {s₀ s : State} (h₀ : Kept s₀ s) (k : Nat) (load : Bool) (w : W128) (c : Core) : Kept s₀ (xferDesc k load w c s) := by
  unfold xferDesc
  repeat' (first | with_reducible assumption | ((with_reducible refine Kept.update ?_ ?_ (hf := ?_)) <;> first | with_reducible assumption | exact rfl | exact ⟨fun h => h⟩) | with_reducible apply descDone_kept | with_reducible apply descLoad_kept | with_reducible apply descStore_kept | ((try lift_lets); intro z; try (refine (have hz : Kept s₀ z := ?_; ?_))) | split | subst z)

theorem pldBody_kept {s₀ s : State} (h₀ : Kept s₀ s) (k : Nat) (w : W128) (c : Core) : Kept s₀ (pldBody k w c s) := by
  unfold pldBody
  repeat' (first | with_reducible assumption | with_reducible apply xferDirect_kept | with_reducible apply xferDesc_kept | split)

theorem pstBody_kept {s₀ s : State} (h₀ : Kept s₀ s) (k : Nat) (w : W128) (c : Core) : Kept s₀ (pstBody k w c s) := by
  unfold pstBody
  repeat' (first | with_reducible assumption | with_reducible apply xferDirect_kept | with_reducible apply xferDesc_kept | split)

theorem execPld_next (k : CoreId) (s : State) : ∃ s', execPld k s = .next s' ∧ Kept s s' := by
  have h₀ := Kept.refl s
  refine ⟨_, rfl, ?_⟩
  repeat' (first | with_reducible assumption | with_reducible refine coreIssue_kept ?_ _ _ (fun _ _ _ _ => ?_) | with_reducible apply pldBody_kept)

theorem execPst_next (k : CoreId) (s : State) : ∃ s', execPst k s = .next s' ∧ Kept s s' := by
  have h₀ := Kept.refl s
  refine ⟨_, rfl, ?_⟩
  repeat' (first | with_reducible assumption | with_reducible refine coreIssue_kept ?_ _ _ (fun _ _ _ _ => ?_) | with_reducible apply pstBody_kept)

end Sys2Proof.Machine
end

