-- ==== Sys2Proof/Laws/VectorKept.lean ====
section
/-! SUPPORT. Each operation of Machine/Vector.lean leaves what `Kept` says as it is. -/

namespace Sys2Proof.Machine

theorem vldBody_kept {s₀ s : State} (h₀ : Kept s₀ s) (k : Nat) (w : W128) (c : Core) : Kept s₀ (vldBody k w c s) := by
  unfold vldBody
  repeat' (first | with_reducible assumption | ((with_reducible refine Kept.update ?_ ?_ (hf := ?_)) <;> first | with_reducible assumption | exact rfl | exact ⟨fun h => h⟩) | exact ⟨fun a _ => State.canonical_core (Kept.canon ‹_› a) _⟩ | exact ⟨fun _ c => State.canonical_core c _⟩ | refine CoreStep.mk fun _ hy => ?_ | refine CanonCore.mk fun ha hy => ?_ | with_reducible exact hy | with_reducible apply Core.incAreg_canonical | with_reducible apply Core.setVreg_canonical | with_reducible apply Core.markV_canonical | with_reducible apply Core.retire_canonical | with_reducible apply Core.pocket_canonical | exact hy | exact State.canonical_core hy _ | exact State.canonical_core (Kept.canon ‹_› ha) _ | with_reducible apply State.coreFault_kept | with_reducible apply State.modCore_kept | with_reducible apply State.retire_kept | ((try lift_lets); intro z; try (refine (have hz : Kept s₀ z := ?_; ?_))) | split | subst z)

theorem execVld_next (k : CoreId) (s : State) : ∃ s', execVld k s = .next s' ∧ Kept s s' := by
  have h₀ := Kept.refl s
  refine ⟨_, rfl, ?_⟩
  repeat' (first | with_reducible assumption | with_reducible refine coreIssue_kept ?_ _ _ (fun _ _ _ _ => ?_) | with_reducible apply vldBody_kept)

theorem State.watchAdd_kept {s₀ s : State} (h₀ : Kept s₀ s) (p : Nat) (wid : Nat) (n : Counts) : Kept s₀ (State.watchAdd s p wid n) := by
  unfold State.watchAdd
  repeat' (first | with_reducible assumption | ((with_reducible refine Kept.update ?_ ?_ (hf := ?_)) <;> first | with_reducible assumption | exact rfl | exact ⟨fun h => h⟩) | with_reducible apply State.modPlan_kept | with_reducible refine Kept.foldl (fun _ _ _ => ?_) _ ?_ | ((try lift_lets); intro z; try (refine (have hz : Kept s₀ z := ?_; ?_))) | dsimp -zeta only | subst z)

theorem vstDone_kept {s₀ s : State} (h₀ : Kept s₀ s) (k : Nat) (w : W128) : Kept s₀ (vstDone k w s) := by
  unfold vstDone
  repeat' (first | with_reducible assumption | exact ⟨fun a _ => State.canonical_core (Kept.canon ‹_› a) _⟩ | exact ⟨fun _ c => State.canonical_core c _⟩ | refine CoreStep.mk fun _ hy => ?_ | refine CanonCore.mk fun ha hy => ?_ | with_reducible exact hy | with_reducible apply Core.incAreg_canonical | with_reducible apply Core.retire_canonical | exact hy | exact State.canonical_core hy _ | exact State.canonical_core (Kept.canon ‹_› ha) _ | with_reducible apply State.modCore_kept | with_reducible apply State.retire_kept)

theorem putPocketElem_wf {m : Mem} (h : Mem.wf m = true) (a wd i c : Nat) : Mem.wf (putPocketElem m a wd i c) = true := by
  unfold putPocketElem
  dsimp only
  repeat' (first | exact Sparse.wf_set _ _ h | exact Mem.wf_put _ _ h | split)

theorem Core.putElems_canonical {c : Core} (h : c.canonical = true) (a wd n : Nat) (cs : List Nat) (p : Bool) :
    (c.putElems a wd n cs p).canonical = true := by
  have k := Core.canonical_iff.1 h
  exact Core.pocket_canonical h (Sparse.wf_foldl _ _ (fun _ _ hm => putPocketElem_wf hm _ _ _ _) k.1) (putMark_wf _ _ _ k.2.1)

theorem Core.putScale_canonical {c : Core} (h : c.canonical = true) (a sc : Nat) (p : Bool) : (c.putScale a sc p).canonical = true := by
  have k := Core.canonical_iff.1 h
  exact Core.pocket_canonical h (Sparse.wf_set _ _ k.1) (putMark_wf _ _ _ k.2.1)

theorem vstPocket_kept {r s : State} (h : Kept r s) (k : Nat) (w : W128) (c : Core) : Kept r (vstPocket k w c s) := by
  unfold vstPocket
  generalize vstConvert w (vstLanes w c) = q
  dsimp only
  have g (a b n e : Nat) (p : Bool) : CoreStep fun c : Core => match q.1 with
      | some sc => (c.putElems a b n (q.2.map (·.code)) p).putScale e sc p
      | none => c.putElems a b n (q.2.map (·.code)) p := ⟨fun x hx => by
    split
    · exact Core.putScale_canonical (Core.putElems_canonical hx _ _ _ _ _) _ _ _
    · exact Core.putElems_canonical hx _ _ _ _ _⟩
  split
  · exact vstDone_kept h _ _
  · split
    · exact State.coreFault_kept h _ _
    · refine vstDone_kept ?_ _ _
      split
      · exact State.watchAdd_kept (State.modCore_kept h k _ (g _ _ _ _ _)) _ _ _
      · exact State.modCore_kept h k _ (g _ _ _ _ _)

theorem vstAcc_kept {s₀ s : State} (h₀ : Kept s₀ s) (k : Nat) (w : W128) (c : Core) : Kept s₀ (vstAcc k w c s) := by
  unfold vstAcc
  repeat' (first | with_reducible assumption | ((with_reducible refine Kept.update ?_ ?_ (hf := ?_)) <;> first | with_reducible assumption | exact rfl | exact ⟨fun h => h⟩) | exact ⟨fun a _ => State.canonical_core (Kept.canon ‹_› a) _⟩ | exact ⟨fun _ c => State.canonical_core c _⟩ | refine CoreStep.mk fun _ hy => ?_ | refine CanonCore.mk fun ha hy => ?_ | with_reducible exact hy | with_reducible apply Core.setHandle_canonical | with_reducible apply Core.retire_canonical | exact hy | exact State.canonical_core hy _ | exact State.canonical_core (Kept.canon ‹_› ha) _ | with_reducible apply State.coreFault_kept | with_reducible apply State.modCore_kept | with_reducible apply State.retire_kept | with_reducible refine Kept.foldl (fun _ _ _ => ?_) _ ?_ | ((try lift_lets); intro z; try (refine (have hz : Kept s₀ z := ?_; ?_))) | split | dsimp -zeta only | subst z)

theorem vstBody_kept {s₀ s : State} (h₀ : Kept s₀ s) (k : Nat) (w : W128) (c : Core) : Kept s₀ (vstBody k w c s) := by
  unfold vstBody
  repeat' (first | with_reducible assumption | with_reducible apply vstAcc_kept | with_reducible apply vstPocket_kept | split)

theorem execVst_next (k : CoreId) (s : State) : ∃ s', execVst k s = .next s' ∧ Kept s s' := by
  have h₀ := Kept.refl s
  refine ⟨_, rfl, ?_⟩
  repeat' (first | with_reducible assumption | with_reducible refine coreIssue_kept ?_ _ _ (fun _ _ _ _ => ?_) | with_reducible apply vstBody_kept)

theorem vopBody_kept {r s : State} (h : Kept r s) (k : Nat) (w : W128) (c : Core) : Kept r (vopBody k w c s) := by
  unfold vopBody
  refine State.retire_kept (State.modCore_kept h k _ ⟨fun x hx => ?_⟩) _ _
  dsimp only
  split
  · exact Core.setKreg_canonical hx _ _
  · exact Core.markV_canonical (Core.setVreg_canonical hx _ _) _ _

theorem execVop_next (k : CoreId) (s : State) : ∃ s', execVop k s = .next s' ∧ Kept s s' := by
  have h₀ := Kept.refl s
  refine ⟨_, rfl, ?_⟩
  repeat' (first | with_reducible assumption | with_reducible refine coreIssue_kept ?_ _ _ (fun _ _ _ _ => ?_) | with_reducible apply vopBody_kept)

end Sys2Proof.Machine
end

