-- ==== Sys2Proof/Laws/Exec.lean ====
section
/-! SUPPORT. Every command answers a next state, and it leaves what `Kept` says as it is. -/

namespace Sys2Proof.Machine

theorem exec_next (c : Instr) (s : State) : ∃ t, exec c s = .next t ∧ Kept s t := by
  cases c with
  | tick o => exact execTick_next o s
  | tickLost => exact execTickLost_next s
  | endOfWorkWindow => exact execEndOfWorkWindow_next s
  | auditPhase => exact execAuditPhase_next s
  | votePhase votes => exact execVotePhase_next votes s
  | patrolPhase outs => exact execPatrolPhase_next outs s
  | recordPhase => exact execRecordPhase_next s
  | guardPhase => exact execGuardPhase_next s
  | slotStart n => exact execSlotStart_next n s
  | slotComplete n => exact execSlotComplete_next n s
  | lateSlot n => exact execLateSlot_next n s
  | lateReport o => exact execLateReport_next o s
  | graceGrant plan frame d g => exact execGraceGrant_next plan frame d g s
  | finish plan frame => exact execFinish_next plan frame s
  | finishLullAnnounce done => exact execFinishLullAnnounce_next done s
  | hungSlot n => exact execHungSlot_next n s
  | mstep k => exact execMstep_next k s
  | pld k => exact execPld_next k s
  | pst k => exact execPst_next k s
  | vld k => exact execVld_next k s
  | vst k => exact execVst_next k s
  | vop k => exact execVop_next k s
  | twait k => exact execTwait_next k s
  | twaitRelease k => exact execTwaitRelease_next k s
  | tsig k => exact execTsig_next k s
  | fencedTsig k => exact execFencedTsig_next k s
  | spill k => exact execSpill_next k s
  | accAlloc k => exact execAccAlloc_next k s
  | accFree k => exact execAccFree_next k s
  | accZero k => exact execAccZero_next k s
  | loop k => exact execLoop_next k s
  | addr k => exact execAddr_next k s
  | chain k => exact execChain_next k s
  | endProg k => exact execEndProg_next k s
  | moverCommand n => exact execMoverCommand_next n s
  | moverCommandComplete n => exact execMoverCommandComplete_next n s
  | lineRead j line x => exact execLineRead_next j line x s
  | fullLineWrite j line data marks plan x => exact execFullLineWrite_next j line data marks plan x s
  | partialWrite j line data valid marks plan => exact execPartialWrite_next j line data valid marks plan s
  | wcbMerge j line x => exact execWcbMerge_next j line x s
  | pacedRefresh u => exact execPacedRefresh_next u s
  | scheduledRetrainOverrun j => exact execScheduledRetrainOverrun_next j s
  | retrainComplete j => exact execRetrainComplete_next j s
  | siteFailed j => exact execSiteFailed_next j s
  | write p f => exact execWrite_next p f s
  | acc16 p f a => exact execAcc16_next p f a s
  | acc32 p f a => exact execAcc32_next p f a s
  | tsigFrame p f => exact execTsigFrame_next p f s
  | relay p f => exact execRelay_next p f s
  | crcFail f => exact execCrcFail_next f s
  | nack p count => exact execNack_next p count s
  | controlFrame p ack returns => exact execControlFrame_next p ack returns s
  | dataFrameSend p => exact execDataFrameSend_next p s
  | idleControlFrame p => exact execIdleControlFrame_next p s
  | identityFrame p b acked => exact execIdentityFrame_next p b acked s
  | identityRepeat p => exact execIdentityRepeat_next p s
  | portTrainTimeout p => exact execPortTrainTimeout_next p s
  | probeFrame p rttNs => exact execProbeFrame_next p rttNs s
  | linkReport p r => exact execLinkReport_next p r s
  | rosterAssembly => exact execRosterAssembly_next s
  | roster f => exact execRoster_next f s
  | laneFailing p lane symbols corrected uncorrectable => exact execLaneFailing_next p lane symbols corrected uncorrectable s
  | laneDead p lane => exact execLaneDead_next p lane s
  | laneSpared p => exact execLaneSpared_next p s
  | linkDown p => exact execLinkDown_next p s
  | planWithdrawal plan => exact execPlanWithdrawal_next plan s
  | relayDrop p => exact execRelayDrop_next p s
  | rootWatchDeadline plan recs => exact execRootWatchDeadline_next plan recs s
  | commitLate plan => exact execCommitLate_next plan s
  | segmentClose plan g => exact execSegmentClose_next plan g s
  | sampleRecord l lead rest payload => exact execSampleRecord_next l lead rest payload s
  | decodeComplete l seq e => exact execDecodeComplete_next l seq e s
  | data d => exact execData_next d s
  | ack a => exact execAck_next a s
  | ackTimer stream => exact execAckTimer_next stream s
  | retransmissionTimeout stream seq => exact execRetransmissionTimeout_next stream seq s
  | keepAlive stream => exact execKeepAlive_next stream s
  | stop d => exact execStop_next d s
  | restart d => exact execRestart_next d s
  | hold d => exact execHold_next d s
  | checkpoint d => exact execCheckpoint_next d s
  | resume d => exact execResume_next d s
  | lrEdit d => exact execLrEdit_next d s
  | patrol d => exact execPatrol_next d s
  | redundancy d => exact execRedundancy_next d s
  | variant d => exact execVariant_next d s
  | imageWrite d => exact execImageWrite_next d s
  | imageWriteComplete => exact execImageWriteComplete_next s
  | sread r count => exact execSread_next r count s
  | swrite r value => exact execSwrite_next r value s
  | rcRead r => exact execRcRead_next r s
  | jrnSel p value => exact execJrnSel_next p value s
  | itgFsel p value => exact execItgFsel_next p value s
  | botAttreq p value => exact execBotAttreq_next p value s
  | tilFaultValidClear t => exact execTilFaultValidClear_next t s
  | ptpSync offset calibrated => exact execPtpSync_next offset calibrated s
  | ptpHoldover => exact execPtpHoldover_next s
  | hostLinkDown => exact execHostLinkDown_next s
  | journalRecordWrite ok => exact execJournalRecordWrite_next ok s
  | reportResend collector seq => exact execReportResend_next collector seq s
  | rack collector cum => exact execRack_next collector cum s
  | heartbeat => exact execHeartbeat_next s
  | packSeg packId offset body => exact execPackSeg_next packId offset body s
  | imgSeg offset body => exact execImgSeg_next offset body s
  | mgmtLinkDown => exact execMgmtLinkDown_next s
  | twinCompare primary copy => exact execTwinCompare_next primary copy s
  | deltaRecordWrite ok => exact execDeltaRecordWrite_next ok s
  | resetRelease r => exact execResetRelease_next r s
  | emmcFail => exact execEmmcFail_next s
  | siteTrainingComplete j ok => exact execSiteTrainingComplete_next j ok s
  | selfTestComplete r => exact execSelfTestComplete_next r s
  | spareMapApply => exact execSpareMapApply_next s
  | planValidation => exact execPlanValidation_next s
  | readyFrame f codes => exact execReadyFrame_next f codes s
  | firstTick => exact execFirstTick_next s
  | ckptLate plan => exact execCkptLate_next plan s
  | restoreLate plan => exact execRestoreLate_next plan s
  | resetAssertion => exact execResetAssertion_next s
  | pllLock t => exact execPllLock_next t s
  | refclkFailover => exact execRefclkFailover_next s
  | refclkLost => exact execRefclkLost_next s
  | refclkHoldoverEnd => exact execRefclkHoldoverEnd_next s
  | refclk156Loss input => exact execRefclk156Loss_next input s
  | temperatureSample die sensors => exact execTemperatureSample_next die sensors s
  | thermalHoldAnnouncement => exact execThermalHoldAnnouncement_next s
  | thermalClear => exact execThermalClear_next s
  | scheduledRetrainComplete j => exact execScheduledRetrainComplete_next j s
  | portTrained p => exact execPortTrained_next p s
  | hostLinkUp => exact execHostLinkUp_next s
  | mgmtLinkUp => exact execMgmtLinkUp_next s
  | refclk156Return input => exact execRefclk156Return_next input s
  | refclkStandbyRestored => exact execRefclkStandbyRestored_next s
  | jrnFetchComplete p => exact execJrnFetchComplete_next p s
  | frecFetchComplete p => exact execFrecFetchComplete_next p s
  | attestationReportFormed p => exact execAttestationReportFormed_next p s
  | neighborDiscoveryArpEcho f => exact execNeighborDiscoveryArpEcho_next f s
  | thermalHoldReport rank => exact execThermalHoldReport_next rank s
  | twinMismatchReport rank plan => exact execTwinMismatchReport_next rank plan s

end Sys2Proof.Machine
end

