-- ==== Sys2Proof/Laws/Phase.lean ====
section
/-! SUPPORT. Which operations leave the frame counter and the phase as they are. -/

namespace Sys2Proof.Machine

/-- The frame counter and the phase are the same. -/
structure SamePhase (s t : State) : Prop where
  frame : t.frm.frame = s.frm.frame
  phase : t.frm.phase = s.frm.phase

theorem SamePhase.refl (s : State) : SamePhase s s := ⟨rfl, rfl⟩
theorem SamePhase.trans {r s t : State} (h : SamePhase r s) (k : SamePhase s t) : SamePhase r t :=
  ⟨k.frame.trans h.frame, k.phase.trans h.phase⟩
theorem SamePhase.update {r t : State} (h : SamePhase r t) {clk pwr dev flt frm plans tiles store storePoison cores sites ports dom lanes
    host dir jrn img win0 win1 itg emmc otp boot tx draws} (hf : frm.frame = t.frm.frame) (hp : frm.phase = t.frm.phase) :
    SamePhase r (State.mk t.pending clk pwr dev flt frm plans tiles store storePoison cores sites ports dom lanes host dir jrn
      img win0 win1 itg emmc otp boot tx draws) := ⟨hf.trans h.frame, hp.trans h.phase⟩
theorem SamePhase.foldl {α : Type} {r : State} {f : State → α → State} (hf : ∀ s a, SamePhase r s → SamePhase r (f s a)) (l : List α)
    {s : State} (h : SamePhase r s) : SamePhase r (l.foldl f s) := by
  induction l generalizing s with
  | nil => exact h
  | cons a l ih => exact ih (hf s a h)
theorem SamePhase.pair {β : Type} {r t : State} {p : State × β} {y : β} (e : p = (t, y)) (h : SamePhase r p.1) : SamePhase r t := by
  cases e; exact h
structure SamePhaseO (r : State) (o : Option State) : Prop where
  all : ∀ t, o = some t → SamePhase r t
theorem SamePhaseO.some {r t : State} (h : SamePhase r t) : SamePhaseO r (some t) := ⟨fun _ e => by cases e; exact h⟩
theorem SamePhaseO.none {r : State} : SamePhaseO r none := ⟨fun _ e => by cases e⟩
theorem SamePhaseO.get {r t : State} {o : Option State} (h : SamePhaseO r o) (e : o = .some t) : SamePhase r t := h.all t e
theorem SamePhaseO.getD {r s : State} {o : Option State} (h : SamePhaseO r o) (k : SamePhase r s) : SamePhase r (o.getD s) := by
  cases o with
  | none => exact k
  | some t => exact h.all t rfl

section
variable {r s : State} (h : SamePhase r s)
include h
theorem State.setPlan_phase (p : Nat) (x : PlanSt) : SamePhase r (s.setPlan p x) := ⟨h.frame, h.phase⟩
theorem State.modPlan_phase (p : Nat) (f : PlanSt → PlanSt) : SamePhase r (s.modPlan p f) := ⟨h.frame, h.phase⟩
theorem State.setTile_phase (p : Nat) (x : Tile) : SamePhase r (s.setTile p x) := ⟨h.frame, h.phase⟩
theorem State.modTile_phase (p : Nat) (f : Tile → Tile) : SamePhase r (s.modTile p f) := ⟨h.frame, h.phase⟩
theorem State.setCore_phase (p : Nat) (x : Core) : SamePhase r (s.setCore p x) := ⟨h.frame, h.phase⟩
theorem State.modCore_phase (p : Nat) (f : Core → Core) : SamePhase r (s.modCore p f) := ⟨h.frame, h.phase⟩
theorem State.setSite_phase (p : Nat) (x : Site) : SamePhase r (s.setSite p x) := ⟨h.frame, h.phase⟩
theorem State.modSite_phase (p : Nat) (f : Site → Site) : SamePhase r (s.modSite p f) := ⟨h.frame, h.phase⟩
theorem State.setPort_phase (p : Nat) (x : Port) : SamePhase r (s.setPort p x) := ⟨h.frame, h.phase⟩
theorem State.modPort_phase (p : Nat) (f : Port → Port) : SamePhase r (s.modPort p f) := ⟨h.frame, h.phase⟩
theorem State.setLane_phase (p : Nat) (x : Lane) : SamePhase r (s.setLane p x) := ⟨h.frame, h.phase⟩
theorem State.modLane_phase (p : Nat) (f : Lane → Lane) : SamePhase r (s.modLane p f) := ⟨h.frame, h.phase⟩
theorem State.send_phase (o : Out) : SamePhase r (s.send o) := ⟨h.frame, h.phase⟩
theorem State.setWin_phase (p : Nat) (w : Window) : SamePhase r (s.setWin p w) :=
  ⟨by rw [State.setWin_frm]; exact h.frame, by rw [State.setWin_frm]; exact h.phase⟩
theorem State.modFrm_phase (f : Frm → Frm) (hf : (f s.frm).frame = s.frm.frame) (hp : (f s.frm).phase = s.frm.phase) :
    SamePhase r (s.modFrm f) := ⟨hf.trans h.frame, hp.trans h.phase⟩
end

theorem State.raise_phase {r s : State} (h : SamePhase r s) (a : FaultArg) : SamePhase r (State.raise s a) :=
  ⟨by rw [← State.raise_with]; exact h.frame, by rw [← State.raise_with]; exact h.phase⟩

theorem State.reportDone_phase {s₀ s : State} (h₀ : SamePhase s₀ s) : SamePhase s₀ (State.reportDone s) := by
  unfold State.reportDone
  repeat' (first | with_reducible assumption | ((with_reducible refine SamePhase.update ?_ ?_ ?_) <;> first | with_reducible assumption | exact rfl) | with_reducible refine State.modFrm_phase ?_ _ rfl rfl | with_reducible apply State.send_phase | ((try lift_lets); intro z; try (refine (have hz : SamePhase s₀ z := ?_; ?_))) | split | subst z)

theorem State.stopCores_phase {r s : State} (h : SamePhase r s) (p : Nat) : SamePhase r (State.stopCores s p) := ⟨h.frame, h.phase⟩

theorem State.stopPlan_phase {s₀ s : State} (h₀ : SamePhase s₀ s) (p : Nat) : SamePhase s₀ (State.stopPlan s p) := by
  unfold State.stopPlan
  repeat' (first | with_reducible assumption | ((with_reducible refine SamePhase.update ?_ ?_ ?_) <;> first | with_reducible assumption | exact rfl) | with_reducible apply State.modPlan_phase | with_reducible apply State.stopCores_phase | with_reducible refine State.modFrm_phase ?_ _ rfl rfl | with_reducible apply State.reportDone_phase | ((try lift_lets); intro z; try (refine (have hz : SamePhase s₀ z := ?_; ?_))) | split | subst z)

theorem State.contain_phase {s₀ s : State} (h₀ : SamePhase s₀ s) (p : Nat) (code : Nat) : SamePhase s₀ (State.contain s p code) := by
  unfold State.contain
  repeat' (first | with_reducible assumption | ((with_reducible refine SamePhase.update ?_ ?_ ?_) <;> first | with_reducible assumption | exact rfl) | with_reducible apply State.stopPlan_phase | with_reducible apply State.modPlan_phase | ((try lift_lets); intro z; try (refine (have hz : SamePhase s₀ z := ?_; ?_))) | subst z)

theorem State.halting_phase {s₀ s : State} (h₀ : SamePhase s₀ s) (cause : Nat) : SamePhase s₀ (State.halting s cause) := by
  unfold State.halting
  repeat' (first | with_reducible assumption | ((with_reducible refine SamePhase.update ?_ ?_ ?_) <;> first | with_reducible assumption | exact rfl) | ((try lift_lets); intro z; try (refine (have hz : SamePhase s₀ z := ?_; ?_))) | subst z)

theorem State.fatal_phase {s₀ s : State} (h₀ : SamePhase s₀ s) : SamePhase s₀ (State.fatal s) := by
  unfold State.fatal
  repeat' (first | with_reducible assumption | ((with_reducible refine SamePhase.update ?_ ?_ ?_) <;> first | with_reducible assumption | exact rfl) | with_reducible apply State.stopPlan_phase | with_reducible refine SamePhase.foldl (fun _ _ _ => ?_) _ ?_ | ((try lift_lets); intro z; try (refine (have hz : SamePhase s₀ z := ?_; ?_))) | subst z)

theorem State.fault_phase {s₀ s : State} (h₀ : SamePhase s₀ s) (a : FaultArg) : SamePhase s₀ (State.fault s a) := by
  unfold State.fault
  repeat' (first | with_reducible assumption | ((with_reducible refine SamePhase.update ?_ ?_ ?_) <;> first | with_reducible assumption | exact rfl) | with_reducible apply State.raise_phase | with_reducible apply State.contain_phase | with_reducible apply State.halting_phase | with_reducible apply State.fatal_phase | ((try lift_lets); intro z; try (refine (have hz : SamePhase s₀ z := ?_; ?_))) | split | subst z)

theorem State.putStore_phase {r s : State} (h : SamePhase r s) (a : Nat) (bs : List Byte) (poison : Bool) : SamePhase r (State.putStore s a bs poison) := ⟨h.frame, h.phase⟩

theorem State.siteRange_phase {s₀ s : State} (h₀ : SamePhase s₀ s) (p : Nat) (a : Nat) : SamePhase s₀ (State.siteRange s p a) := by
  unfold State.siteRange
  repeat' (first | with_reducible assumption | with_reducible apply State.fault_phase | ((try lift_lets); intro z; try (refine (have hz : SamePhase s₀ z := ?_; ?_))) | split | subst z)

theorem State.accessRaise_phase {s₀ s : State} (h₀ : SamePhase s₀ s) (p : Nat) (code : Nat) (a : Nat) (unitk : Nat) (unit : Nat) : SamePhase s₀ (State.accessRaise s p code a unitk unit) := by
  unfold State.accessRaise
  repeat' (first | with_reducible assumption | with_reducible apply State.siteRange_phase | with_reducible apply State.fault_phase | split)

theorem State.addToken_phase {r s : State} (h : SamePhase r s) (p t tok inc : Nat) : SamePhaseO r (State.addToken s p t tok inc) := by
  unfold State.addToken
  dsimp only
  split
  · exact SamePhaseO.some (State.modPlan_phase (State.modTile_phase h t _) p _)
  · exact SamePhaseO.none

theorem State.issueToken_phase {s₀ s : State} (h₀ : SamePhase s₀ s) (p : Nat) (inc : Nat) : SamePhase s₀ (State.issueToken s p inc) := by
  unfold State.issueToken
  repeat' (first | with_reducible assumption | ((with_reducible refine SamePhase.update ?_ ?_ ?_) <;> first | with_reducible assumption | exact rfl) | with_reducible apply State.modPlan_phase | ((try lift_lets); intro z; try (refine (have hz : SamePhase s₀ z := ?_; ?_))) | subst z)

theorem State.queueDelta_phase {s₀ s : State} (h₀ : SamePhase s₀ s) (d : Delta) : SamePhase s₀ (State.queueDelta s d) := by
  unfold State.queueDelta
  repeat' (first | with_reducible assumption | ((with_reducible refine SamePhase.update ?_ ?_ ?_) <;> first | with_reducible assumption | exact rfl) | ((try lift_lets); intro z; try (refine (have hz : SamePhase s₀ z := ?_; ?_))) | subst z)

theorem State.siteFault_phase {s₀ s : State} (h₀ : SamePhase s₀ s) (code : Nat) (i : Nat) (line : Nat) (plan : Option Nat) (cls : Option Nat) : SamePhase s₀ (State.siteFault s code i line plan cls) := by
  unfold State.siteFault
  repeat' (first | with_reducible assumption | with_reducible apply State.fault_phase)

theorem State.holdSite_phase {s₀ s : State} (h₀ : SamePhase s₀ s) (i : Nat) : SamePhase s₀ (State.holdSite s i) := by
  unfold State.holdSite
  repeat' (first | with_reducible assumption | ((with_reducible refine SamePhase.update ?_ ?_ ?_) <;> first | with_reducible assumption | exact rfl) | with_reducible apply State.modSite_phase | with_reducible apply State.siteFault_phase | ((try lift_lets); intro z; try (refine (have hz : SamePhase s₀ z := ?_; ?_))) | split | subst z)

theorem State.edcRetries_phase {s₀ s : State} (h₀ : SamePhase s₀ s) (i : Nat) (line : Nat) (n : Nat) : SamePhase s₀ (State.edcRetries s i line n) := by
  unfold State.edcRetries
  repeat' (first | with_reducible assumption | ((with_reducible refine SamePhase.update ?_ ?_ ?_) <;> first | with_reducible assumption | exact rfl) | with_reducible apply State.modSite_phase | with_reducible apply State.siteFault_phase | with_reducible apply State.holdSite_phase | with_reducible refine SamePhase.foldl (fun _ _ _ => ?_) _ ?_ | ((try lift_lets); intro z; try (refine (have hz : SamePhase s₀ z := ?_; ?_))) | split | subst z)

theorem State.edc_phase {s₀ s : State} (h₀ : SamePhase s₀ s) (i : Nat) (line : Nat) (x : Xfer) (req : SiteReq) : SamePhase s₀ (State.edc s i line x req).1 := by
  unfold State.edc
  repeat' (first | with_reducible assumption | ((with_reducible refine SamePhase.update ?_ ?_ ?_) <;> first | with_reducible assumption | exact rfl) | with_reducible apply State.edcRetries_phase | with_reducible apply State.holdSite_phase | with_reducible apply State.modSite_phase | ((try lift_lets); intro z; try (refine (have hz : SamePhase s₀ z := ?_; ?_))) | split | dsimp -zeta only | subst z)

theorem State.meets_phase {s₀ s : State} (h₀ : SamePhase s₀ s) (i : Nat) (line : Nat) (x : Xfer) : SamePhase s₀ (State.meets s i line x).1 := by
  unfold State.meets
  repeat' (first | with_reducible assumption | ((with_reducible refine SamePhase.update ?_ ?_ ?_) <;> first | with_reducible assumption | exact rfl) | with_reducible apply State.modSite_phase | ((try lift_lets); intro z; try (refine (have hz : SamePhase s₀ z := ?_; ?_))) | dsimp -zeta only | subst z)

theorem State.gate_phase {s₀ s : State} (h₀ : SamePhase s₀ s) (i : Nat) (line : Nat) (x : Xfer) (req : SiteReq) : SamePhase s₀ (State.gate s i line x req).1 := by
  unfold State.gate
  repeat' (first | with_reducible assumption | with_reducible apply State.meets_phase | with_reducible apply State.edc_phase | ((try lift_lets); intro z; try (refine (have hz : SamePhase s₀ z := ?_; ?_))) | split | dsimp -zeta only | refine SamePhase.pair (by with_reducible assumption) ?_ | subst z)

theorem State.gates_phase {r s : State} (h : SamePhase r s) (i : Nat) (req : SiteReq) (ls : List Nat) : SamePhase r (State.gates s i req ls).1 := by
  induction ls generalizing s with
  | nil => exact h
  | cons l ls ih =>
    unfold State.gates
    dsimp only
    split
    · exact State.gate_phase h _ _ _ _
    · exact ih (State.gate_phase h _ _ _ _)

theorem State.candidate_phase {s₀ s : State} (h₀ : SamePhase s₀ s) (i : Nat) (grp : Nat) : SamePhase s₀ (State.candidate s i grp) := by
  unfold State.candidate
  repeat' (first | with_reducible assumption | ((with_reducible refine SamePhase.update ?_ ?_ ?_) <;> first | with_reducible assumption | exact rfl) | with_reducible apply State.modSite_phase | ((try lift_lets); intro z; try (refine (have hz : SamePhase s₀ z := ?_; ?_))) | split | subst z)

theorem State.corrected_phase {s₀ s : State} (h₀ : SamePhase s₀ s) (i : Nat) (line : Nat) : SamePhase s₀ (State.corrected s i line) := by
  unfold State.corrected
  repeat' (first | with_reducible assumption | ((with_reducible refine SamePhase.update ?_ ?_ ?_) <;> first | with_reducible assumption | exact rfl) | with_reducible apply State.modSite_phase | with_reducible apply State.candidate_phase | ((try lift_lets); intro z; try (refine (have hz : SamePhase s₀ z := ?_; ?_))) | split | dsimp -zeta only | subst z)

theorem State.storeLine_phase {s₀ s : State} (h₀ : SamePhase s₀ s) (i : Nat) (line : Nat) (l : Line) : SamePhase s₀ (State.storeLine s i line l) := by
  unfold State.storeLine
  repeat' (first | with_reducible assumption | ((with_reducible refine SamePhase.update ?_ ?_ ?_) <;> first | with_reducible assumption | exact rfl) | with_reducible apply State.modSite_phase | ((try lift_lets); intro z; try (refine (have hz : SamePhase s₀ z := ?_; ?_))) | split | subst z)

theorem State.fetchLine_phase {r s : State} (h : SamePhase r s) (i line : Nat) (x : Xfer) : SamePhase r (State.fetchLine s i line x).1 := by
  unfold State.fetchLine
  generalize readLine ((s.site i).line line) x = q
  dsimp only
  have c : ∀ z, SamePhase r z → SamePhase r (if q.corrected then
      (((z.modSite i fun z => z.putLine line q.line)).siteFault 0x0302 i line none none).corrected i line else z) := fun z hz => by
    split
    · exact State.corrected_phase (State.siteFault_phase (State.modSite_phase hz i _) _ _ _ _ _) _ _
    · exact hz
  split
  · refine State.candidate_phase ?_ _ _
    have k := State.siteFault_phase (State.storeLine_phase (c s h) i line q.line) 0x0303 i line none none
    split
    · exact State.siteFault_phase k _ _ _ _ _
    · exact k
  · exact c s h

theorem State.pokeSite_phase {s₀ s : State} (h₀ : SamePhase s₀ s) (a : Nat) (v : W64) : SamePhase s₀ (State.pokeSite s a v) := by
  unfold State.pokeSite
  repeat' (first | with_reducible assumption | ((with_reducible refine SamePhase.update ?_ ?_ ?_) <;> first | with_reducible assumption | exact rfl) | with_reducible apply State.storeLine_phase | ((try lift_lets); intro z; try (refine (have hz : SamePhase s₀ z := ?_; ?_))) | split | subst z)

theorem State.modLayer_phase {s₀ s : State} (h₀ : SamePhase s₀ s) (p : Nat) (l : Nat) (f : RedLayer → RedLayer) : SamePhase s₀ (State.modLayer s p l f) := by
  unfold State.modLayer
  repeat' (first | with_reducible assumption | ((with_reducible refine SamePhase.update ?_ ?_ ?_) <;> first | with_reducible assumption | exact rfl) | with_reducible apply State.modPlan_phase | ((try lift_lets); intro z; try (refine (have hz : SamePhase s₀ z := ?_; ?_))) | subst z)

theorem State.modRed_phase {s₀ s : State} (h₀ : SamePhase s₀ s) (p : Nat) (f : RedWords → RedWords) : SamePhase s₀ (State.modRed s p f) := by
  unfold State.modRed
  repeat' (first | with_reducible assumption | ((with_reducible refine SamePhase.update ?_ ?_ ?_) <;> first | with_reducible assumption | exact rfl) | with_reducible apply State.modPlan_phase | ((try lift_lets); intro z; try (refine (have hz : SamePhase s₀ z := ?_; ?_))) | subst z)

theorem State.redFault_phase {s₀ s : State} (h₀ : SamePhase s₀ s) (code : Nat) (p : Nat) (layer : Nat) (round : Nat) (d1 : W64) : SamePhase s₀ (State.redFault s code p layer round d1) := by
  unfold State.redFault
  repeat' (first | with_reducible assumption | with_reducible apply State.fault_phase)

theorem State.sealStands_phase {s₀ s : State} (h₀ : SamePhase s₀ s) (p : Nat) (r : Rec) (k : Nat) (d : BitVec 2048) : SamePhase s₀ (State.sealStands s p r k d) := by
  unfold State.sealStands
  repeat' (first | with_reducible assumption | ((with_reducible refine SamePhase.update ?_ ?_ ?_) <;> first | with_reducible assumption | exact rfl) | with_reducible refine State.modFrm_phase ?_ _ rfl rfl | with_reducible apply State.modLayer_phase | with_reducible apply State.modRed_phase | with_reducible apply State.redFault_phase | ((try lift_lets); intro z; try (refine (have hz : SamePhase s₀ z := ?_; ?_))) | split | subst z)

theorem State.sealCheck_phase {s₀ s : State} (h₀ : SamePhase s₀ s) (a : Nat) (d : BitVec 2048) : SamePhase s₀ (State.sealCheck s a d) := by
  unfold State.sealCheck
  repeat' (first | with_reducible assumption | ((with_reducible refine SamePhase.update ?_ ?_ ?_) <;> first | with_reducible assumption | exact rfl) | with_reducible apply State.modRed_phase | with_reducible apply State.sealStands_phase | with_reducible apply State.redFault_phase | ((try lift_lets); intro z; try (refine (have hz : SamePhase s₀ z := ?_; ?_))) | split | subst z)

theorem State.sinkCheck_phase {s₀ s : State} (h₀ : SamePhase s₀ s) (i : Nat) (line : Nat) (marks : BitVec 8) : SamePhase s₀ (State.sinkCheck s i line marks).1 := by
  unfold State.sinkCheck
  repeat' (first | with_reducible assumption | ((with_reducible refine SamePhase.update ?_ ?_ ?_) <;> first | with_reducible assumption | exact rfl) | with_reducible apply State.siteFault_phase | ((try lift_lets); intro z; try (refine (have hz : SamePhase s₀ z := ?_; ?_))) | split | dsimp -zeta only | subst z)

theorem State.putData_phase {s₀ s : State} (h₀ : SamePhase s₀ s) (i : Nat) (line : Nat) (d : BitVec 2048) (poison : Bool) : SamePhase s₀ (State.putData s i line d poison) := by
  unfold State.putData
  repeat' (first | with_reducible assumption | with_reducible apply State.storeLine_phase | with_reducible apply State.sealCheck_phase | split)

theorem State.dropEntry_phase {s₀ s : State} (h₀ : SamePhase s₀ s) (i : Nat) (line : Nat) : SamePhase s₀ (State.dropEntry s i line) := by
  unfold State.dropEntry
  repeat' (first | with_reducible assumption | ((with_reducible refine SamePhase.update ?_ ?_ ?_) <;> first | with_reducible assumption | exact rfl) | with_reducible apply State.modSite_phase | ((try lift_lets); intro z; try (refine (have hz : SamePhase s₀ z := ?_; ?_))) | subst z)

theorem State.mergeEntry_phase {s₀ s : State} (h₀ : SamePhase s₀ s) (i : Nat) (e : WcbEntry) (x : Xfer) (req : SiteReq) : SamePhase s₀ (State.mergeEntry s i e x req).1 := by
  unfold State.mergeEntry
  repeat' (first | with_reducible assumption | with_reducible apply State.dropEntry_phase | with_reducible apply State.putData_phase | with_reducible apply State.fetchLine_phase | with_reducible apply State.gates_phase | ((try lift_lets); intro z; try (refine (have hz : SamePhase s₀ z := ?_; ?_))) | split | dsimp -zeta only | refine SamePhase.pair (by with_reducible assumption) ?_ | subst z)

theorem State.open_phase {s₀ s : State} (h₀ : SamePhase s₀ s) (i : Nat) (line : Nat) (x : Xfer) (req : SiteReq) : SamePhase s₀ (State.open s i line x req).1 := by
  unfold State.open
  repeat' (first | with_reducible assumption | ((with_reducible refine SamePhase.update ?_ ?_ ?_) <;> first | with_reducible assumption | exact rfl) | with_reducible apply State.gate_phase | with_reducible apply State.mergeEntry_phase | ((try lift_lets); intro z; try (refine (have hz : SamePhase s₀ z := ?_; ?_))) | split | dsimp -zeta only | refine SamePhase.pair (by with_reducible assumption) ?_ | subst z)

theorem State.merge_phase {s₀ s : State} (h₀ : SamePhase s₀ s) (i : Nat) (line : Nat) (x : Xfer) : SamePhase s₀ (State.merge s i line x) := by
  unfold State.merge
  repeat' (first | with_reducible assumption | ((with_reducible refine SamePhase.update ?_ ?_ ?_) <;> first | with_reducible assumption | exact rfl) | with_reducible apply State.gate_phase | with_reducible apply State.mergeEntry_phase | ((try lift_lets); intro z; try (refine (have hz : SamePhase s₀ z := ?_; ?_))) | split | dsimp -zeta only | refine SamePhase.pair (by with_reducible assumption) ?_ | subst z)

theorem State.serveRead_phase {s₀ s : State} (h₀ : SamePhase s₀ s) (i : Nat) (line : Nat) (x : Xfer) : SamePhase s₀ (State.serveRead s i line x).1 := by
  unfold State.serveRead
  repeat' (first | with_reducible assumption | ((with_reducible refine SamePhase.update ?_ ?_ ?_) <;> first | with_reducible assumption | exact rfl) | with_reducible apply State.open_phase | with_reducible apply State.fetchLine_phase | with_reducible apply State.modSite_phase | with_reducible apply State.send_phase | ((try lift_lets); intro z; try (refine (have hz : SamePhase s₀ z := ?_; ?_))) | split | dsimp -zeta only | refine SamePhase.pair (by with_reducible assumption) ?_ | subst z)

theorem State.serveFull_phase {s₀ s : State} (h₀ : SamePhase s₀ s) (i : Nat) (line : Nat) (d : BitVec 2048) (marks : BitVec 8) (plan : Option Nat) (x : Xfer) : SamePhase s₀ (State.serveFull s i line d marks plan x) := by
  unfold State.serveFull
  repeat' (first | with_reducible assumption | with_reducible apply State.gate_phase | with_reducible apply State.sinkCheck_phase | with_reducible apply State.dropEntry_phase | with_reducible apply State.putData_phase | ((try lift_lets); intro z; try (refine (have hz : SamePhase s₀ z := ?_; ?_))) | split | dsimp -zeta only | refine SamePhase.pair (by with_reducible assumption) ?_ | subst z)

theorem State.servePart_phase {s₀ s : State} (h₀ : SamePhase s₀ s) (i : Nat) (line : Nat) (d : BitVec 2048) (valid : BitVec 256) (marks : BitVec 8) (plan : Option Nat) : SamePhase s₀ (State.servePart s i line d valid marks plan) := by
  unfold State.servePart
  repeat' (first | with_reducible assumption | ((with_reducible refine SamePhase.update ?_ ?_ ?_) <;> first | with_reducible assumption | exact rfl) | with_reducible apply State.sinkCheck_phase | with_reducible apply State.modSite_phase | with_reducible apply State.merge_phase | with_reducible apply State.serveFull_phase | ((try lift_lets); intro z; try (refine (have hz : SamePhase s₀ z := ?_; ?_))) | split | dsimp -zeta only | refine SamePhase.pair (by with_reducible assumption) ?_ | subst z)

theorem State.checkAdd_phase {s₀ s : State} (h₀ : SamePhase s₀ s) (area : RedArea) (sum : Int) : SamePhase s₀ (State.checkAdd s area sum) := by
  unfold State.checkAdd
  repeat' (first | with_reducible assumption | ((with_reducible refine SamePhase.update ?_ ?_ ?_) <;> first | with_reducible assumption | exact rfl) | with_reducible apply State.pokeSite_phase | ((try lift_lets); intro z; try (refine (have hz : SamePhase s₀ z := ?_; ?_))) | split | subst z)

theorem State.addGood_phase {s₀ s : State} (h₀ : SamePhase s₀ s) (p : Nat) (i : Nat) (line : Nat) (area : RedArea) (a : AddOut) (d : BitVec 2048) : SamePhase s₀ (State.addGood s p i line area a d) := by
  unfold State.addGood
  repeat' (first | with_reducible assumption | with_reducible apply State.storeLine_phase | with_reducible apply State.checkAdd_phase | with_reducible apply State.redFault_phase | ((try lift_lets); intro z; try (refine (have hz : SamePhase s₀ z := ?_; ?_))) | split | dsimp -zeta only | subst z)

theorem State.addInto_phase {s₀ s : State} (h₀ : SamePhase s₀ s) (p : Nat) (i : Nat) (line : Nat) (area : RedArea) (xs : List Int) (marker : Int) (poison : Bool) (e1 : BitVec 2048) (e2 : BitVec 2048) (x : Xfer) : SamePhase s₀ (State.addInto s p i line area xs marker poison e1 e2 x) := by
  unfold State.addInto
  repeat' (first | with_reducible assumption | ((with_reducible refine SamePhase.update ?_ ?_ ?_) <;> first | with_reducible assumption | exact rfl) | with_reducible apply State.fetchLine_phase | with_reducible apply State.storeLine_phase | with_reducible apply State.siteFault_phase | with_reducible apply State.modRed_phase | with_reducible apply State.addGood_phase | with_reducible apply State.redFault_phase | ((try lift_lets); intro z; try (refine (have hz : SamePhase s₀ z := ?_; ?_))) | split | dsimp -zeta only | refine SamePhase.pair (by with_reducible assumption) ?_ | subst z)

theorem State.serveAcc16_phase {s₀ s : State} (h₀ : SamePhase s₀ s) (p : Nat) (i : Nat) (line : Nat) (d : BitVec 2048) (poison : Bool) (a : AddIn) : SamePhase s₀ (State.serveAcc16 s p i line d poison a) := by
  unfold State.serveAcc16
  repeat' (first | with_reducible assumption | ((with_reducible refine SamePhase.update ?_ ?_ ?_) <;> first | with_reducible assumption | exact rfl) | with_reducible apply State.redFault_phase | with_reducible apply State.open_phase | with_reducible apply State.gates_phase | with_reducible apply State.addInto_phase | ((try lift_lets); intro z; try (refine (have hz : SamePhase s₀ z := ?_; ?_))) | split | dsimp -zeta only | refine SamePhase.pair (by with_reducible assumption) ?_ | subst z)

theorem State.serveAcc32_phase {s₀ s : State} (h₀ : SamePhase s₀ s) (p : Nat) (i : Nat) (line : Nat) (d : BitVec 2048) (poison : Bool) (a : AddIn) : SamePhase s₀ (State.serveAcc32 s p i line d poison a) := by
  unfold State.serveAcc32
  repeat' (first | with_reducible assumption | ((with_reducible refine SamePhase.update ?_ ?_ ?_) <;> first | with_reducible assumption | exact rfl) | with_reducible apply State.redFault_phase | with_reducible apply State.open_phase | with_reducible apply State.gates_phase | with_reducible apply State.addInto_phase | ((try lift_lets); intro z; try (refine (have hz : SamePhase s₀ z := ?_; ?_))) | split | dsimp -zeta only | refine SamePhase.pair (by with_reducible assumption) ?_ | subst z)

theorem State.serveReq_phase {s₀ s : State} (h₀ : SamePhase s₀ s) (i : Nat) (q : SiteReq) (a : AddIn) : SamePhase s₀ (State.serveReq s i q a) := by
  unfold State.serveReq
  repeat' (first | with_reducible assumption | ((with_reducible refine SamePhase.update ?_ ?_ ?_) <;> first | with_reducible assumption | exact rfl) | with_reducible apply State.serveRead_phase | with_reducible apply State.serveFull_phase | with_reducible apply State.servePart_phase | with_reducible apply State.serveAcc16_phase | with_reducible apply State.serveAcc32_phase | with_reducible apply State.merge_phase | ((try lift_lets); intro z; try (refine (have hz : SamePhase s₀ z := ?_; ?_))) | split | dsimp -zeta only | refine SamePhase.pair (by with_reducible assumption) ?_ | subst z)

theorem State.drain_phase {r s : State} (h : SamePhase r s) (i n : Nat) : SamePhase r (State.drain s i n) := by
  induction n generalizing s with
  | zero => exact h
  | succ n ih =>
    unfold State.drain
    split
    · exact h
    · split
      · exact h
      · exact ih (State.serveReq_phase (State.modSite_phase h _ _) _ _ _)

theorem State.stallEnd_phase {s₀ s : State} (h₀ : SamePhase s₀ s) (i : Nat) : SamePhase s₀ (State.stallEnd s i) := by
  unfold State.stallEnd
  repeat' (first | with_reducible assumption | ((with_reducible refine SamePhase.update ?_ ?_ ?_) <;> first | with_reducible assumption | exact rfl) | with_reducible apply State.modSite_phase | ((try lift_lets); intro z; try (refine (have hz : SamePhase s₀ z := ?_; ?_))) | split | subst z)

theorem State.stallNow_phase {s₀ s : State} (h₀ : SamePhase s₀ s) (i : Nat) : SamePhase s₀ (State.stallNow s i) := by
  unfold State.stallNow
  repeat' (first | with_reducible assumption | ((with_reducible refine SamePhase.update ?_ ?_ ?_) <;> first | with_reducible assumption | exact rfl) | with_reducible apply State.stallEnd_phase | with_reducible apply State.modSite_phase | ((try lift_lets); intro z; try (refine (have hz : SamePhase s₀ z := ?_; ?_))) | split | with_reducible refine SamePhaseO.getD ?_ ?_ | subst z)

theorem State.drainSite_phase {s₀ s : State} (h₀ : SamePhase s₀ s) (i : Nat) : SamePhase s₀ (State.drainSite s i) := by
  unfold State.drainSite
  repeat' (first | with_reducible assumption | with_reducible apply State.drain_phase | with_reducible apply State.stallNow_phase)

theorem State.enqueue_phase {s₀ s : State} (h₀ : SamePhase s₀ s) (i : Nat) (q : SiteReq) (u : Option Nat) : SamePhase s₀ (State.enqueue s i q u) := by
  unfold State.enqueue
  repeat' (first | with_reducible assumption | ((with_reducible refine SamePhase.update ?_ ?_ ?_) <;> first | with_reducible assumption | exact rfl) | with_reducible apply State.modSite_phase | ((try lift_lets); intro z; try (refine (have hz : SamePhase s₀ z := ?_; ?_))) | subst z)

theorem State.request_phase {s₀ s : State} (h₀ : SamePhase s₀ s) (i : Nat) (q : SiteReq) (line : Nat) (plan : Option Nat) (a : AddIn) (u : Option Nat) : SamePhase s₀ (State.request s i q line plan a u) := by
  unfold State.request
  repeat' (first | with_reducible assumption | ((with_reducible refine SamePhase.update ?_ ?_ ?_) <;> first | with_reducible assumption | exact rfl) | with_reducible apply State.siteFault_phase | with_reducible apply State.meets_phase | with_reducible apply State.enqueue_phase | with_reducible apply State.drainSite_phase | with_reducible apply State.modSite_phase | with_reducible apply State.send_phase | with_reducible apply State.serveReq_phase | ((try lift_lets); intro z; try (refine (have hz : SamePhase s₀ z := ?_; ?_))) | split | refine SamePhase.pair (by with_reducible assumption) ?_ | subst z)

theorem State.modAcct_phase {s₀ s : State} (h₀ : SamePhase s₀ s) (p : Nat) (c : Nat) (f : Acct → Acct) : SamePhase s₀ (State.modAcct s p c f) := by
  unfold State.modAcct
  repeat' (first | with_reducible assumption | with_reducible apply State.modPort_phase)

theorem State.sendLink_phase {s₀ s : State} (h₀ : SamePhase s₀ s) (p : Nat) (f : LinkFrame) : SamePhase s₀ (State.sendLink s p f) := by
  unfold State.sendLink
  repeat' (first | with_reducible assumption | ((with_reducible refine SamePhase.update ?_ ?_ ?_) <;> first | with_reducible assumption | exact rfl) | with_reducible apply State.modPort_phase | with_reducible apply State.send_phase | ((try lift_lets); intro z; try (refine (have hz : SamePhase s₀ z := ?_; ?_))) | subst z)

theorem State.hear_phase {s₀ s : State} (h₀ : SamePhase s₀ s) (p : Nat) : SamePhase s₀ (State.hear s p).1 := by
  unfold State.hear
  repeat' (first | with_reducible assumption | ((with_reducible refine SamePhase.update ?_ ?_ ?_) <;> first | with_reducible assumption | exact rfl) | with_reducible apply State.modPort_phase | ((try lift_lets); intro z; try (refine (have hz : SamePhase s₀ z := ?_; ?_))) | split | dsimp -zeta only | subst z)

theorem State.sendControl_phase {s₀ s : State} (h₀ : SamePhase s₀ s) (p : Nat) : SamePhase s₀ (State.sendControl s p) := by
  unfold State.sendControl
  repeat' (first | with_reducible assumption | ((with_reducible refine SamePhase.update ?_ ?_ ?_) <;> first | with_reducible assumption | exact rfl) | with_reducible apply State.modPort_phase | with_reducible apply State.sendLink_phase | with_reducible refine SamePhase.foldl (fun _ _ _ => ?_) _ ?_ | ((try lift_lets); intro z; try (refine (have hz : SamePhase s₀ z := ?_; ?_))) | subst z)

theorem State.sendOther_phase {s₀ s : State} (h₀ : SamePhase s₀ s) (p : Nat) (f : LinkFrame) : SamePhase s₀ (State.sendOther s p f) := by
  unfold State.sendOther
  repeat' (first | with_reducible assumption | with_reducible apply State.sendControl_phase | with_reducible apply State.sendLink_phase | split)

theorem State.flood_phase {s₀ s : State} (h₀ : SamePhase s₀ s) (but : Option Nat) (f : LinkFrame) : SamePhase s₀ (State.flood s but f) := by
  unfold State.flood
  repeat' (first | with_reducible assumption | with_reducible apply State.sendLink_phase | with_reducible apply State.sendOther_phase | with_reducible refine SamePhase.foldl (fun _ _ _ => ?_) _ ?_ | split)

theorem State.writeStore_phase {r s : State} (h : SamePhase r s) (t off : Nat) (d : BitVec 2048) (marks : BitVec 8) :
    SamePhase r (State.writeStore s t off d marks) := ⟨h.frame, h.phase⟩

theorem State.deliver_phase {s₀ s : State} (h₀ : SamePhase s₀ s) (p : Option Nat) (f : DataFrame) (a : AddIn) : SamePhaseO s₀ (State.deliver s p f a) := by
  unfold State.deliver
  repeat' (first | with_reducible assumption | ((with_reducible refine SamePhase.update ?_ ?_ ?_) <;> first | with_reducible assumption | exact rfl) | with_reducible apply State.accessRaise_phase | with_reducible apply State.issueToken_phase | with_reducible apply State.addToken_phase | with_reducible apply State.fault_phase | with_reducible apply State.writeStore_phase | with_reducible apply State.redFault_phase | with_reducible apply State.request_phase | ((try lift_lets); intro z; try (refine (have hz : SamePhase s₀ z := ?_; ?_))) | split | dsimp -zeta only | with_reducible refine SamePhaseO.some ?_ | with_reducible exact SamePhaseO.none | refine SamePhaseO.get ?_ (by with_reducible assumption) | subst z)

theorem State.relaySegment_phase {s₀ s : State} (h₀ : SamePhase s₀ s) (p : Nat) (f : DataFrame) : SamePhase s₀ (State.relaySegment s p f) := by
  unfold State.relaySegment
  repeat' (first | with_reducible assumption | ((with_reducible refine SamePhase.update ?_ ?_ ?_) <;> first | with_reducible assumption | exact rfl) | with_reducible apply State.modPort_phase | ((try lift_lets); intro z; try (refine (have hz : SamePhase s₀ z := ?_; ?_))) | split | subst z)

theorem State.acceptLine_phase {s₀ s : State} (h₀ : SamePhase s₀ s) (p : Nat) (f : DataFrame) (a : AddIn) : SamePhaseO s₀ (State.acceptLine s p f a) := by
  unfold State.acceptLine
  repeat' (first | with_reducible assumption | ((with_reducible refine SamePhase.update ?_ ?_ ?_) <;> first | with_reducible assumption | exact rfl) | with_reducible apply State.relaySegment_phase | with_reducible apply State.deliver_phase | with_reducible apply State.modPort_phase | ((try lift_lets); intro z; try (refine (have hz : SamePhase s₀ z := ?_; ?_))) | split | with_reducible refine SamePhaseO.some ?_ | with_reducible exact SamePhaseO.none | refine SamePhaseO.get ?_ (by with_reducible assumption) | subst z)

theorem State.freeLine_phase {s₀ s : State} (h₀ : SamePhase s₀ s) (p : Nat) (c : Nat) : SamePhase s₀ (State.freeLine s p c) := by
  unfold State.freeLine
  repeat' (first | with_reducible assumption | ((with_reducible refine SamePhase.update ?_ ?_ ?_) <;> first | with_reducible assumption | exact rfl) | with_reducible apply State.modAcct_phase | ((try lift_lets); intro z; try (refine (have hz : SamePhase s₀ z := ?_; ?_))) | split | subst z)

theorem State.serveGust_phase {r s : State} (h : SamePhase r s) (p : Nat) (a : AddIn) (fs kept : List DataFrame) (stuck : List Nat) :
    SamePhase r (State.serveGust p a fs kept stuck s) := by
  induction fs generalizing s kept stuck with
  | nil => exact State.modPort_phase h _ _
  | cons f fs ih =>
    unfold State.serveGust
    split
    · exact ih h _ _
    · split
      · exact ih (State.freeLine_phase (SamePhaseO.get (State.acceptLine_phase h _ _ _) (by assumption)) _ _) _ _
      · exact ih h _ _

theorem State.drainGust_phase {s₀ s : State} (h₀ : SamePhase s₀ s) (p : Nat) (a : AddIn) : SamePhase s₀ (State.drainGust s p a) := by
  unfold State.drainGust
  repeat' (first | with_reducible assumption | with_reducible apply State.serveGust_phase)

theorem State.originate_phase {s₀ s : State} (h₀ : SamePhase s₀ s) (f : DataFrame) (a : AddIn) : SamePhase s₀ (State.originate s f a) := by
  unfold State.originate
  repeat' (first | with_reducible assumption | ((with_reducible refine SamePhase.update ?_ ?_ ?_) <;> first | with_reducible assumption | exact rfl) | with_reducible apply State.modPort_phase | with_reducible apply State.drainGust_phase | ((try lift_lets); intro z; try (refine (have hz : SamePhase s₀ z := ?_; ?_))) | split | subst z)

theorem State.relayOut_phase {s₀ s : State} (h₀ : SamePhase s₀ s) (dest : Nat) (bs : List Byte) : SamePhase s₀ (State.relayOut s dest bs) := by
  unfold State.relayOut
  repeat' (first | with_reducible assumption | with_reducible apply State.originate_phase | with_reducible refine SamePhase.foldl (fun _ _ _ => ?_) _ ?_ | split)

theorem State.txdg_phase {s₀ s : State} (h₀ : SamePhase s₀ s) (port : Nat) : SamePhase s₀ (State.txdg s port) := by
  unfold State.txdg
  repeat' (first | with_reducible assumption | ((with_reducible refine SamePhase.update ?_ ?_ ?_) <;> first | with_reducible assumption | exact rfl) | ((try lift_lets); intro z; try (refine (have hz : SamePhase s₀ z := ?_; ?_))) | split | subst z)

theorem State.hostSend_phase {s₀ s : State} (h₀ : SamePhase s₀ s) (o : Out) (bs : List Byte) : SamePhase s₀ (State.hostSend s o bs) := by
  unfold State.hostSend
  repeat' (first | with_reducible assumption | with_reducible apply State.txdg_phase | with_reducible apply State.send_phase | with_reducible apply State.relayOut_phase | split)

theorem State.draw_phase {r s : State} (h : SamePhase r s) : SamePhase r (State.draw s).1 := ⟨h.frame, h.phase⟩

theorem State.modOut_phase {s₀ s : State} (h₀ : SamePhase s₀ s) (n : Nat) (f : OutStream → OutStream) : SamePhase s₀ (State.modOut s n f) := by
  unfold State.modOut
  repeat' (first | with_reducible assumption | ((with_reducible refine SamePhase.update ?_ ?_ ?_) <;> first | with_reducible assumption | exact rfl) | ((try lift_lets); intro z; try (refine (have hz : SamePhase s₀ z := ?_; ?_))) | subst z)

theorem State.pump_phase {r s : State} (h : SamePhase r s) (n k : Nat) : SamePhase r (State.pump s n k) := by
  induction k generalizing s with
  | zero => exact h
  | succ k ih =>
    unfold State.pump
    split
    · split
      · exact h
      · split
        · exact h
        · exact ih (State.hostSend_phase (State.modOut_phase h _ _) _ _)
    · exact h

theorem State.outflow_phase {s₀ s : State} (h₀ : SamePhase s₀ s) (n : Nat) (kind : Nat) (plan : Nat) (step : W48) (bs : List Byte) : SamePhase s₀ (State.outflow s n kind plan step bs) := by
  unfold State.outflow
  repeat' (first | with_reducible assumption | ((with_reducible refine SamePhase.update ?_ ?_ ?_) <;> first | with_reducible assumption | exact rfl) | with_reducible apply State.modOut_phase | with_reducible apply State.pump_phase | ((try lift_lets); intro z; try (refine (have hz : SamePhase s₀ z := ?_; ?_))) | subst z)

/-- Every state that the outcome carries. -/
structure SamePhaseA (r : State) (a : Access) : Prop where
  all : ∀ t, (a = .wait t ∨ a = .ok t) → SamePhase r t

theorem SamePhaseA.ofFault {r : State} {c a : Nat} : SamePhaseA r (.fault c a) := ⟨fun t e => by simp at e⟩
theorem SamePhaseA.ofWait {r t : State} (h : SamePhase r t) : SamePhaseA r (.wait t) := ⟨fun u e => by simp at e; exact e ▸ h⟩
theorem SamePhaseA.ofOk {r t : State} (h : SamePhase r t) : SamePhaseA r (.ok t) := ⟨fun u e => by simp at e; exact e ▸ h⟩
theorem SamePhaseA.wait {r t : State} {a : Access} (h : SamePhaseA r a) (e : a = .wait t) : SamePhase r t := h.all t (.inl e)
theorem SamePhaseA.ok {r t : State} {a : Access} (h : SamePhaseA r a) (e : a = .ok t) : SamePhase r t := h.all t (.inr e)

/-- Every state that the outcome carries. -/
structure SamePhaseB (r : State) (a : BlockRead) : Prop where
  all : ∀ t, (a = .wait t ∨ ∃ b, a = .ok t b) → SamePhase r t

theorem SamePhaseB.ofFault {r : State} {c a : Nat} : SamePhaseB r (.fault c a) := ⟨fun t e => by simp at e⟩
theorem SamePhaseB.ofWait {r t : State} (h : SamePhase r t) : SamePhaseB r (.wait t) := ⟨fun u e => by simp at e; exact e ▸ h⟩
theorem SamePhaseB.ofOk {r t : State} {b : BlockIn} (h : SamePhase r t) : SamePhaseB r (.ok t b) := ⟨fun u e => by simp at e; exact e ▸ h⟩
theorem SamePhaseB.wait {r t : State} {a : BlockRead} (h : SamePhaseB r a) (e : a = .wait t) : SamePhase r t := h.all t (.inl e)
theorem SamePhaseB.ok {r t : State} {b : BlockIn} {a : BlockRead} (h : SamePhaseB r a) (e : a = .ok t b) : SamePhase r t := h.all t (.inr ⟨b, e⟩)

theorem State.edcLines_phase {s₀ s : State} (h₀ : SamePhase s₀ s) (ns : List Nat) (more : Nat) : SamePhase s₀ (State.edcLines s ns more) := by
  unfold State.edcLines
  repeat' (first | with_reducible assumption | ((with_reducible refine SamePhase.update ?_ ?_ ?_) <;> first | with_reducible assumption | exact rfl) | with_reducible apply State.modSite_phase | with_reducible apply State.edcRetries_phase | with_reducible apply State.holdSite_phase | with_reducible refine SamePhase.foldl (fun _ _ _ => ?_) _ ?_ | ((try lift_lets); intro z; try (refine (have hz : SamePhase s₀ z := ?_; ?_))) | split | dsimp -zeta only | subst z)

theorem State.putLine_phase {r s : State} (h : SamePhase r s) (u : Option Nat) (plan : Nat) (l : LineOut) : SamePhase r (State.putLine s u plan l) := by
  unfold State.putLine
  split
  · refine SamePhase.foldl (fun z w hz => ?_) _ h
    dsimp only
    split
    · exact hz
    · exact ⟨hz.frame, hz.phase⟩
  · exact State.request_phase h _ _ _ _ _ _
  · exact h

theorem State.putBytes_phase {s₀ s : State} (h₀ : SamePhase s₀ s) (u : Option Nat) (plan : Nat) (bs : List ByteOut) : SamePhase s₀ (State.putBytes s u plan bs) := by
  unfold State.putBytes
  repeat' (first | with_reducible assumption | with_reducible apply State.putLine_phase | with_reducible refine SamePhase.foldl (fun _ _ _ => ?_) _ ?_)

theorem State.laneUpdate_phase {s₀ s : State} (h₀ : SamePhase s₀ s) (l : Nat) : SamePhase s₀ (State.laneUpdate s l) := by
  unfold State.laneUpdate
  repeat' (first | with_reducible assumption | ((with_reducible refine SamePhase.update ?_ ?_ ?_) <;> first | with_reducible assumption | exact rfl) | with_reducible apply idle_phase | with_reducible apply State.setLane_phase | with_reducible refine SamePhase.foldl (fun _ _ _ => ?_) _ ?_ | ((try lift_lets); intro z; try (refine (have hz : SamePhase s₀ z := ?_; ?_))) | split | subst z)

theorem State.inkFault_phase {s₀ s : State} (h₀ : SamePhase s₀ s) (code : Nat) (l : Nat) (seq : W48) : SamePhase s₀ (State.inkFault s code l seq) := by
  unfold State.inkFault
  repeat' (first | with_reducible assumption | with_reducible apply State.fault_phase)

theorem State.stageWrite_phase {s₀ s : State} (h₀ : SamePhase s₀ s) (plan : Nat) (a : Nat) (bs : List Byte) : SamePhase s₀ (State.stageWrite s plan a bs) := by
  unfold State.stageWrite
  repeat' (first | with_reducible assumption | with_reducible apply State.putBytes_phase | dsimp -zeta only)

theorem State.readyToken_phase {s₀ s : State} (h₀ : SamePhase s₀ s) (l : Nat) : SamePhase s₀ (State.readyToken s l) := by
  unfold State.readyToken
  repeat' (first | with_reducible assumption | ((with_reducible refine SamePhase.update ?_ ?_ ?_) <;> first | with_reducible assumption | exact rfl) | with_reducible apply State.modTile_phase | with_reducible refine SamePhase.foldl (fun _ _ _ => ?_) _ ?_ | ((try lift_lets); intro z; try (refine (have hz : SamePhase s₀ z := ?_; ?_))) | split | subst z)

theorem State.batchDone_phase {s₀ s : State} (h₀ : SamePhase s₀ s) (l : Nat) : SamePhase s₀ (State.batchDone s l) := by
  unfold State.batchDone
  repeat' (first | with_reducible assumption | ((with_reducible refine SamePhase.update ?_ ?_ ?_) <;> first | with_reducible assumption | exact rfl) | with_reducible apply State.modLane_phase | with_reducible apply State.send_phase | with_reducible apply State.outflow_phase | with_reducible apply State.readyToken_phase | ((try lift_lets); intro z; try (refine (have hz : SamePhase s₀ z := ?_; ?_))) | dsimp -zeta only | subst z)

theorem State.stagePos_phase {s₀ s : State} (h₀ : SamePhase s₀ s) (l : Nat) (flags : Nat) (e0 : Nat) (e1 : Nat) (data : List Byte) (m : ManEntry) : SamePhase s₀ (State.stagePos s l flags e0 e1 data m) := by
  unfold State.stagePos
  repeat' (first | with_reducible assumption | ((with_reducible refine SamePhase.update ?_ ?_ ?_) <;> first | with_reducible assumption | exact rfl) | with_reducible apply State.stageWrite_phase | with_reducible apply State.modLane_phase | with_reducible apply State.batchDone_phase | ((try lift_lets); intro z; try (refine (have hz : SamePhase s₀ z := ?_; ?_))) | split | dsimp -zeta only | subst z)

theorem State.reject_phase {s₀ s : State} (h₀ : SamePhase s₀ s) (l : Nat) (x : Pending) : SamePhase s₀ (State.reject s l x) := by
  unfold State.reject
  repeat' (first | with_reducible assumption | ((with_reducible refine SamePhase.update ?_ ?_ ?_) <;> first | with_reducible assumption | exact rfl) | with_reducible apply State.modLane_phase | with_reducible apply State.inkFault_phase | ((try lift_lets); intro z; try (refine (have hz : SamePhase s₀ z := ?_; ?_))) | split | subst z)

theorem State.placeRecord_phase {s₀ s : State} (h₀ : SamePhase s₀ s) (l : Nat) (flags : Nat) (x : Pending) (m : ManEntry) : SamePhase s₀ (State.placeRecord s l flags x m) := by
  unfold State.placeRecord
  repeat' (first | with_reducible assumption | ((with_reducible refine SamePhase.update ?_ ?_ ?_) <;> first | with_reducible assumption | exact rfl) | with_reducible apply State.modLane_phase | with_reducible apply State.stagePos_phase | ((try lift_lets); intro z; try (refine (have hz : SamePhase s₀ z := ?_; ?_))) | dsimp -zeta only | subst z)

theorem State.stageReserve_phase {s₀ s : State} (h₀ : SamePhase s₀ s) (l : Nat) (k : Nat) (x : Pending) : SamePhase s₀ (State.stageReserve s l k x) := by
  unfold State.stageReserve
  repeat' (first | with_reducible assumption | with_reducible apply State.stageWrite_phase | ((try lift_lets); intro z; try (refine (have hz : SamePhase s₀ z := ?_; ?_))) | dsimp -zeta only | subst z)

theorem State.decideReserve_phase {s₀ s : State} (h₀ : SamePhase s₀ s) (l : Nat) (x : Pending) : SamePhase s₀ (State.decideReserve s l x) := by
  unfold State.decideReserve
  repeat' (first | with_reducible assumption | ((with_reducible refine SamePhase.update ?_ ?_ ?_) <;> first | with_reducible assumption | exact rfl) | with_reducible apply State.modLane_phase | with_reducible apply State.inkFault_phase | with_reducible apply State.reject_phase | with_reducible apply State.stageReserve_phase | ((try lift_lets); intro z; try (refine (have hz : SamePhase s₀ z := ?_; ?_))) | split | subst z)

theorem State.decideRegular_phase {s₀ s : State} (h₀ : SamePhase s₀ s) (l : Nat) (x : Pending) : SamePhase s₀ (State.decideRegular s l x) := by
  unfold State.decideRegular
  repeat' (first | with_reducible assumption | ((with_reducible refine SamePhase.update ?_ ?_ ?_) <;> first | with_reducible assumption | exact rfl) | with_reducible apply State.reject_phase | with_reducible apply State.modLane_phase | with_reducible apply State.placeRecord_phase | with_reducible apply State.inkFault_phase | with_reducible apply State.stagePos_phase | ((try lift_lets); intro z; try (refine (have hz : SamePhase s₀ z := ?_; ?_))) | split | subst z)

theorem State.settle_phase {r s : State} (h : SamePhase r s) (l n : Nat) : SamePhase r (State.settle l n s) := by
  induction n generalizing s with
  | zero => exact State.laneUpdate_phase h l
  | succ n ih =>
    unfold State.settle
    split
    · exact State.laneUpdate_phase h l
    · split
      · exact State.laneUpdate_phase h l
      · split
        · exact ih (State.decideReserve_phase (State.modLane_phase h _ _) _ _)
        · split
          · exact ih (State.decideRegular_phase (State.modLane_phase h _ _) _ _)
          · exact State.laneUpdate_phase h l

theorem State.settleLane_phase {s₀ s : State} (h₀ : SamePhase s₀ s) (l : Nat) : SamePhase s₀ (State.settleLane s l) := by
  unfold State.settleLane
  repeat' (first | with_reducible assumption | with_reducible apply State.settle_phase)

theorem State.deliverBatches_phase {s₀ s : State} (h₀ : SamePhase s₀ s) : SamePhase s₀ (State.deliverBatches s) := by
  unfold State.deliverBatches
  repeat' (first | with_reducible assumption | ((with_reducible refine SamePhase.update ?_ ?_ ?_) <;> first | with_reducible assumption | exact rfl) | with_reducible apply State.modLane_phase | with_reducible apply State.settleLane_phase | with_reducible refine SamePhase.foldl (fun _ _ _ => ?_) _ ?_ | ((try lift_lets); intro z; try (refine (have hz : SamePhase s₀ z := ?_; ?_))) | split | subst z)

theorem State.sendIdentity_phase {s₀ s : State} (h₀ : SamePhase s₀ s) (p : Nat) : SamePhase s₀ (State.sendIdentity s p) := by
  unfold State.sendIdentity
  repeat' (first | with_reducible assumption | ((with_reducible refine SamePhase.update ?_ ?_ ?_) <;> first | with_reducible assumption | exact rfl) | with_reducible apply State.sendOther_phase | with_reducible apply State.modPort_phase | ((try lift_lets); intro z; try (refine (have hz : SamePhase s₀ z := ?_; ?_))) | subst z)

theorem State.adopt_phase {s₀ s : State} (h₀ : SamePhase s₀ s) (ranks : List Presence) (links : List Nat) (variants : List Nat) : SamePhase s₀ (State.adopt s ranks links variants) := by
  unfold State.adopt
  repeat' (first | with_reducible assumption | ((with_reducible refine SamePhase.update ?_ ?_ ?_) <;> first | with_reducible assumption | exact rfl) | with_reducible apply State.modPlan_phase | with_reducible refine State.modFrm_phase ?_ _ rfl rfl | with_reducible refine SamePhase.foldl (fun _ _ _ => ?_) _ ?_ | ((try lift_lets); intro z; try (refine (have hz : SamePhase s₀ z := ?_; ?_))) | split | subst z)

theorem State.split_phase {s₀ s : State} (h₀ : SamePhase s₀ s) : SamePhase s₀ (State.split s) := by
  unfold State.split
  repeat' (first | with_reducible assumption | with_reducible apply State.fault_phase)

theorem roster_phase {s₀ s : State} (h₀ : SamePhase s₀ s) (p : Nat) (r : RosterIn) : SamePhase s₀ (roster p r s) := by
  unfold roster
  repeat' (first | with_reducible assumption | with_reducible apply State.hear_phase | with_reducible apply State.adopt_phase | with_reducible apply State.flood_phase | with_reducible apply State.split_phase | ((try lift_lets); intro z; try (refine (have hz : SamePhase s₀ z := ?_; ?_))) | split | dsimp -zeta only | refine SamePhase.pair (by with_reducible assumption) ?_ | subst z)

theorem State.layerSkipped_phase {s₀ s : State} (h₀ : SamePhase s₀ s) (p : Nat) (q : Plan) (layer : Nat) (round : Nat) : SamePhase s₀ (State.layerSkipped s p q layer round) := by
  unfold State.layerSkipped
  repeat' (first | with_reducible assumption | ((with_reducible refine SamePhase.update ?_ ?_ ?_) <;> first | with_reducible assumption | exact rfl) | with_reducible apply State.redFault_phase | with_reducible apply State.modLayer_phase | with_reducible apply State.raise_phase | with_reducible apply State.modPlan_phase | ((try lift_lets); intro z; try (refine (have hz : SamePhase s₀ z := ?_; ?_))) | split | subst z)

theorem State.voteLayer_phase {s₀ s : State} (h₀ : SamePhase s₀ s) (p : Nat) (q : Plan) (v : Variant) (reps : List RootReport) (r : Rec) : SamePhase s₀ (State.voteLayer s p q v reps r) := by
  unfold State.voteLayer
  repeat' (first | with_reducible assumption | with_reducible apply State.modLayer_phase | with_reducible apply State.layerSkipped_phase | with_reducible refine SamePhase.foldl (fun _ _ _ => ?_) _ ?_ | ((try lift_lets); intro z; try (refine (have hz : SamePhase s₀ z := ?_; ?_))) | split | subst z)

theorem State.voteReports_phase {s₀ s : State} (h₀ : SamePhase s₀ s) (reps : List RootReport) : SamePhase s₀ (State.voteReports s reps) := by
  unfold State.voteReports
  repeat' (first | with_reducible assumption | ((with_reducible refine SamePhase.update ?_ ?_ ?_) <;> first | with_reducible assumption | exact rfl) | with_reducible apply State.voteLayer_phase | with_reducible refine SamePhase.foldl (fun _ _ _ => ?_) _ ?_ | ((try lift_lets); intro z; try (refine (have hz : SamePhase s₀ z := ?_; ?_))) | split | subst z)

theorem State.retireTile_phase {s₀ s : State} (h₀ : SamePhase s₀ s) (t : Nat) (cause : Nat) : SamePhase s₀ (State.retireTile s t cause) := by
  unfold State.retireTile
  repeat' (first | with_reducible assumption | with_reducible apply State.queueDelta_phase | split)

theorem State.retireCore_phase {s₀ s : State} (h₀ : SamePhase s₀ s) (t : Nat) (row : Nat) (col : Nat) (cause : Nat) : SamePhase s₀ (State.retireCore s t row col cause) := by
  unfold State.retireCore
  repeat' (first | with_reducible assumption | ((with_reducible refine SamePhase.update ?_ ?_ ?_) <;> first | with_reducible assumption | exact rfl) | with_reducible apply State.modTile_phase | with_reducible apply State.queueDelta_phase | with_reducible apply State.retireTile_phase | ((try lift_lets); intro z; try (refine (have hz : SamePhase s₀ z := ?_; ?_))) | split | subst z)

theorem State.moveCores_phase {r s : State} (h : SamePhase r s) (f : Nat → Option Nat) : SamePhase r (State.moveCores s f) := ⟨h.frame, h.phase⟩

theorem State.applySteer_phase {r s : State} (h : SamePhase r s) (t : Nat) : SamePhase r (State.applySteer s t) := by
  unfold State.applySteer
  dsimp only
  split
  · exact State.setTile_phase h t _
  · exact State.setTile_phase (State.moveCores_phase h _) t _

theorem State.applySteerOf_phase {s₀ s : State} (h₀ : SamePhase s₀ s) (q : Plan) : SamePhase s₀ (State.applySteerOf s q) := by
  unfold State.applySteerOf
  repeat' (first | with_reducible assumption | with_reducible apply State.applySteer_phase | with_reducible refine SamePhase.foldl (fun _ _ _ => ?_) _ ?_ | split)

theorem State.flagSlices_phase {s₀ s : State} (h₀ : SamePhase s₀ s) (period : Nat) (lull : Nat) (l : List Slice) : SamePhase s₀ (State.flagSlices s period lull l) := by
  unfold State.flagSlices
  repeat' (first | with_reducible assumption | with_reducible apply State.fault_phase | with_reducible refine SamePhase.foldl (fun _ _ _ => ?_) _ ?_)

theorem State.loadPatrol_phase {s₀ s : State} (h₀ : SamePhase s₀ s) : SamePhase s₀ (State.loadPatrol s) := by
  unfold State.loadPatrol
  repeat' (first | with_reducible assumption | ((with_reducible refine SamePhase.update ?_ ?_ ?_) <;> first | with_reducible assumption | exact rfl) | with_reducible apply State.modTile_phase | with_reducible refine SamePhase.foldl (fun _ _ _ => ?_) _ ?_ | ((try lift_lets); intro z; try (refine (have hz : SamePhase s₀ z := ?_; ?_))) | split | subst z)

theorem State.runSlice_phase {s₀ s : State} (h₀ : SamePhase s₀ s) (outs : List PatrolOut) (k : Nat) (x : Slice) : SamePhase s₀ (State.runSlice s outs k x) := by
  unfold State.runSlice
  repeat' (first | with_reducible assumption | ((with_reducible refine SamePhase.update ?_ ?_ ?_) <;> first | with_reducible assumption | exact rfl) | ((try lift_lets); intro z; try (refine (have hz : SamePhase s₀ z := ?_; ?_))) | subst z)

theorem State.patrolFail_phase {s₀ s : State} (h₀ : SamePhase s₀ s) (k : Nat) : SamePhase s₀ (State.patrolFail s k) := by
  unfold State.patrolFail
  repeat' (first | with_reducible assumption | ((with_reducible refine SamePhase.update ?_ ?_ ?_) <;> first | with_reducible assumption | exact rfl) | with_reducible apply State.fault_phase | with_reducible apply State.retireCore_phase | with_reducible apply State.modPlan_phase | ((try lift_lets); intro z; try (refine (have hz : SamePhase s₀ z := ?_; ?_))) | split | dsimp -zeta only | subst z)

theorem State.patrolTransient_phase {s₀ s : State} (h₀ : SamePhase s₀ s) (k : Nat) : SamePhase s₀ (State.patrolTransient s k) := by
  unfold State.patrolTransient
  repeat' (first | with_reducible assumption | ((with_reducible refine SamePhase.update ?_ ?_ ?_) <;> first | with_reducible assumption | exact rfl) | with_reducible apply State.fault_phase | with_reducible apply State.patrolFail_phase | ((try lift_lets); intro z; try (refine (have hz : SamePhase s₀ z := ?_; ?_))) | split | dsimp -zeta only | subst z)

theorem State.patrolTwins_phase {s₀ s : State} (h₀ : SamePhase s₀ s) (slices : List Slice) (outs : List PatrolOut) : SamePhase s₀ (State.patrolTwins s slices outs) := by
  unfold State.patrolTwins
  repeat' (first | with_reducible assumption | ((with_reducible refine SamePhase.update ?_ ?_ ?_) <;> first | with_reducible assumption | exact rfl) | with_reducible apply State.runSlice_phase | with_reducible apply State.retireCore_phase | with_reducible refine SamePhase.foldl (fun _ _ _ => ?_) _ ?_ | ((try lift_lets); intro z; try (refine (have hz : SamePhase s₀ z := ?_; ?_))) | split | dsimp -zeta only | subst z)

theorem State.patrolRetests_phase {s₀ s : State} (h₀ : SamePhase s₀ s) (outs : List PatrolOut) : SamePhase s₀ (State.patrolRetests s outs) := by
  unfold State.patrolRetests
  repeat' (first | with_reducible assumption | ((with_reducible refine SamePhase.update ?_ ?_ ?_) <;> first | with_reducible assumption | exact rfl) | with_reducible apply State.runSlice_phase | with_reducible apply State.patrolFail_phase | with_reducible apply State.patrolTransient_phase | with_reducible refine SamePhase.foldl (fun _ _ _ => ?_) _ ?_ | ((try lift_lets); intro z; try (refine (have hz : SamePhase s₀ z := ?_; ?_))) | split | subst z)

theorem State.patrolRotation_phase {s₀ s : State} (h₀ : SamePhase s₀ s) (slices : List Slice) (outs : List PatrolOut) : SamePhase s₀ (State.patrolRotation s slices outs) := by
  unfold State.patrolRotation
  repeat' (first | with_reducible assumption | ((with_reducible refine SamePhase.update ?_ ?_ ?_) <;> first | with_reducible assumption | exact rfl) | with_reducible apply State.runSlice_phase | with_reducible refine SamePhase.foldl (fun _ _ _ => ?_) _ ?_ | ((try lift_lets); intro z; try (refine (have hz : SamePhase s₀ z := ?_; ?_))) | split | subst z)

theorem State.captureCounts_phase {s₀ s : State} (h₀ : SamePhase s₀ s) : SamePhase s₀ (State.captureCounts s) := by
  unfold State.captureCounts
  repeat' (first | with_reducible assumption | ((with_reducible refine SamePhase.update ?_ ?_ ?_) <;> first | with_reducible assumption | exact rfl) | with_reducible refine State.modFrm_phase ?_ _ rfl rfl | ((try lift_lets); intro z; try (refine (have hz : SamePhase s₀ z := ?_; ?_))) | subst z)

theorem State.ledgerViolation_phase {s₀ s : State} (h₀ : SamePhase s₀ s) (e : Nat × Nat) : SamePhase s₀ (State.ledgerViolation s e) := by
  unfold State.ledgerViolation
  repeat' (first | with_reducible assumption | ((with_reducible refine SamePhase.update ?_ ?_ ?_) <;> first | with_reducible assumption | exact rfl) | with_reducible apply State.raise_phase | ((try lift_lets); intro z; try (refine (have hz : SamePhase s₀ z := ?_; ?_))) | split | dsimp -zeta only | subst z)

theorem State.acceptedAll_phase {s₀ s : State} (h₀ : SamePhase s₀ s) (p : Nat) (ranks : List Nat) : SamePhase s₀ (State.acceptedAll s p ranks).1 := by
  unfold State.acceptedAll
  repeat' (first | with_reducible assumption | with_reducible apply State.draw_phase | ((try lift_lets); intro z; try (refine (have hz : SamePhase s₀ z := ?_; ?_))) | split | dsimp -zeta only | refine SamePhase.pair (by with_reducible assumption) ?_ | subst z)

theorem State.sealPart_phase {s₀ s : State} (h₀ : SamePhase s₀ s) (p : Nat) : SamePhase s₀ (State.sealPart s p) := by
  unfold State.sealPart
  repeat' (first | with_reducible assumption | ((with_reducible refine SamePhase.update ?_ ?_ ?_) <;> first | with_reducible assumption | exact rfl) | with_reducible apply State.acceptedAll_phase | with_reducible apply State.draw_phase | with_reducible apply State.modPlan_phase | ((try lift_lets); intro z; try (refine (have hz : SamePhase s₀ z := ?_; ?_))) | split | dsimp -zeta only | refine SamePhase.pair (by with_reducible assumption) ?_ | subst z)

theorem State.sealedAll_phase {s₀ s : State} (h₀ : SamePhase s₀ s) (p : Nat) : SamePhase s₀ (State.sealedAll s p) := by
  unfold State.sealedAll
  repeat' (first | with_reducible assumption | ((with_reducible refine SamePhase.update ?_ ?_ ?_) <;> first | with_reducible assumption | exact rfl) | with_reducible apply State.modPlan_phase | ((try lift_lets); intro z; try (refine (have hz : SamePhase s₀ z := ?_; ?_))) | split | subst z)

theorem State.stepConstants_phase {s₀ s : State} (h₀ : SamePhase s₀ s) (p : Nat) (step : W48) (first : W48) : SamePhase s₀ (State.stepConstants s p step first) := by
  unfold State.stepConstants
  repeat' (first | with_reducible assumption | ((with_reducible refine SamePhase.update ?_ ?_ ?_) <;> first | with_reducible assumption | exact rfl) | with_reducible apply State.putStore_phase | with_reducible apply State.modPlan_phase | with_reducible refine SamePhase.foldl (fun _ _ _ => ?_) _ ?_ | ((try lift_lets); intro z; try (refine (have hz : SamePhase s₀ z := ?_; ?_))) | split | subst z)

theorem State.watchSnapshot_phase {s₀ s : State} (h₀ : SamePhase s₀ s) (p : Nat) : SamePhase s₀ (State.watchSnapshot s p) := by
  unfold State.watchSnapshot
  repeat' (first | with_reducible assumption | ((with_reducible refine SamePhase.update ?_ ?_ ?_) <;> first | with_reducible assumption | exact rfl) | with_reducible apply State.modPlan_phase | ((try lift_lets); intro z; try (refine (have hz : SamePhase s₀ z := ?_; ?_))) | subst z)

theorem State.rankWatch_phase {s₀ s : State} (h₀ : SamePhase s₀ s) (p : Nat) (q : Plan) : SamePhase s₀ (State.rankWatch s p q) := by
  unfold State.rankWatch
  repeat' (first | with_reducible assumption | ((with_reducible refine SamePhase.update ?_ ?_ ?_) <;> first | with_reducible assumption | exact rfl) | with_reducible apply State.modPlan_phase | with_reducible apply State.send_phase | ((try lift_lets); intro z; try (refine (have hz : SamePhase s₀ z := ?_; ?_))) | split | subst z)

theorem State.mergeAll_phase {s₀ s : State} (h₀ : SamePhase s₀ s) (i : Nat) : SamePhase s₀ (State.mergeAll s i) := by
  unfold State.mergeAll
  repeat' (first | with_reducible assumption | with_reducible apply State.merge_phase | with_reducible apply State.drainSite_phase | with_reducible refine SamePhase.foldl (fun _ _ _ => ?_) _ ?_ | split)

theorem State.refreshSite_phase {s₀ s : State} (h₀ : SamePhase s₀ s) (i : Nat) : SamePhase s₀ (State.refreshSite s i) := by
  unfold State.refreshSite
  repeat' (first | with_reducible assumption | ((with_reducible refine SamePhase.update ?_ ?_ ?_) <;> first | with_reducible assumption | exact rfl) | with_reducible apply State.draw_phase | with_reducible apply State.modSite_phase | ((try lift_lets); intro z; try (refine (have hz : SamePhase s₀ z := ?_; ?_))) | dsimp -zeta only | refine SamePhase.pair (by with_reducible assumption) ?_ | subst z)

theorem State.sweep_phase {s₀ s : State} (h₀ : SamePhase s₀ s) (i : Nat) (lo : Nat) (n : Nat) : SamePhase s₀ (State.sweep s i lo n) := by
  unfold State.sweep
  repeat' (first | with_reducible assumption | with_reducible apply State.meets_phase | with_reducible apply State.fetchLine_phase | with_reducible refine SamePhase.foldl (fun _ _ _ => ?_) _ ?_ | ((try lift_lets); intro z; try (refine (have hz : SamePhase s₀ z := ?_; ?_))) | dsimp -zeta only | refine SamePhase.pair (by with_reducible assumption) ?_ | subst z)

theorem State.moveGroup_phase {s₀ s : State} (h₀ : SamePhase s₀ s) (i : Nat) (e : Nat × Nat) : SamePhase s₀ (State.moveGroup s i e) := by
  unfold State.moveGroup
  repeat' (first | with_reducible assumption | ((with_reducible refine SamePhase.update ?_ ?_ ?_) <;> first | with_reducible assumption | exact rfl) | with_reducible apply State.edcLines_phase | with_reducible apply State.modSite_phase | with_reducible apply State.sweep_phase | with_reducible apply State.siteFault_phase | ((try lift_lets); intro z; try (refine (have hz : SamePhase s₀ z := ?_; ?_))) | split | dsimp -zeta only | subst z)

theorem State.moveGroups_phase {s₀ s : State} (h₀ : SamePhase s₀ s) (i : Nat) : SamePhase s₀ (State.moveGroups s i) := by
  unfold State.moveGroups
  repeat' (first | with_reducible assumption | with_reducible apply State.moveGroup_phase | with_reducible refine SamePhase.foldl (fun _ _ _ => ?_) _ ?_)

theorem State.retireGroup_phase {s₀ s : State} (h₀ : SamePhase s₀ s) (i : Nat) (g : Nat) : SamePhase s₀ (State.retireGroup s i g) := by
  unfold State.retireGroup
  repeat' (first | with_reducible assumption | ((with_reducible refine SamePhase.update ?_ ?_ ?_) <;> first | with_reducible assumption | exact rfl) | with_reducible apply State.modSite_phase | with_reducible apply State.queueDelta_phase | with_reducible apply State.siteFault_phase | ((try lift_lets); intro z; try (refine (have hz : SamePhase s₀ z := ?_; ?_))) | split | subst z)

theorem State.queueGroups_phase {r s : State} (h : SamePhase r s) (i n : Nat) : SamePhase r (State.queueGroups s i n) := by
  induction n generalizing s with
  | zero => exact h
  | succ n ih =>
    unfold State.queueGroups
    split
    · exact h
    · exact ih (State.retireGroup_phase h _ _)

theorem State.retireGroups_phase {s₀ s : State} (h₀ : SamePhase s₀ s) (i : Nat) (n : Nat) : SamePhase s₀ (State.retireGroups s i n) := by
  unfold State.retireGroups
  repeat' (first | with_reducible assumption | with_reducible apply State.moveGroups_phase | with_reducible apply State.queueGroups_phase | split)

theorem State.scrub_phase {s₀ s : State} (h₀ : SamePhase s₀ s) (i : Nat) : SamePhase s₀ (State.scrub s i) := by
  unfold State.scrub
  repeat' (first | with_reducible assumption | ((with_reducible refine SamePhase.update ?_ ?_ ?_) <;> first | with_reducible assumption | exact rfl) | with_reducible apply State.edcLines_phase | with_reducible apply State.sweep_phase | with_reducible apply State.modSite_phase | ((try lift_lets); intro z; try (refine (have hz : SamePhase s₀ z := ?_; ?_))) | split | dsimp -zeta only | subst z)

theorem State.schedule_phase {s₀ s : State} (h₀ : SamePhase s₀ s) (i : Nat) : SamePhase s₀ (State.schedule s i) := by
  unfold State.schedule
  repeat' (first | with_reducible assumption | ((with_reducible refine SamePhase.update ?_ ?_ ?_) <;> first | with_reducible assumption | exact rfl) | with_reducible apply State.modSite_phase | ((try lift_lets); intro z; try (refine (have hz : SamePhase s₀ z := ?_; ?_))) | split | subst z)

theorem State.memoryTrack_phase {s₀ s : State} (h₀ : SamePhase s₀ s) (i : Nat) : SamePhase s₀ (State.memoryTrack s i) := by
  unfold State.memoryTrack
  repeat' (first | with_reducible assumption | ((with_reducible refine SamePhase.update ?_ ?_ ?_) <;> first | with_reducible assumption | exact rfl) | with_reducible apply State.mergeAll_phase | with_reducible apply State.refreshSite_phase | with_reducible apply State.retireGroups_phase | with_reducible apply State.scrub_phase | with_reducible apply State.schedule_phase | ((try lift_lets); intro z; try (refine (have hz : SamePhase s₀ z := ?_; ?_))) | split | subst z)

theorem State.clearTokens_phase {s₀ s : State} (h₀ : SamePhase s₀ s) : SamePhase s₀ (State.clearTokens s) := by
  unfold State.clearTokens
  repeat' (first | with_reducible assumption | ((with_reducible refine SamePhase.update ?_ ?_ ?_) <;> first | with_reducible assumption | exact rfl) | with_reducible apply State.modTile_phase | with_reducible refine SamePhase.foldl (fun _ _ _ => ?_) _ ?_ | ((try lift_lets); intro z; try (refine (have hz : SamePhase s₀ z := ?_; ?_))) | subst z)

theorem State.clearCarry_phase {s₀ s : State} (h₀ : SamePhase s₀ s) (p : Nat) : SamePhase s₀ (State.clearCarry s p) := by
  unfold State.clearCarry
  repeat' (first | with_reducible assumption | ((with_reducible refine SamePhase.update ?_ ?_ ?_) <;> first | with_reducible assumption | exact rfl) | with_reducible apply State.modTile_phase | with_reducible refine SamePhase.foldl (fun _ _ _ => ?_) _ ?_ | ((try lift_lets); intro z; try (refine (have hz : SamePhase s₀ z := ?_; ?_))) | split | subst z)

theorem State.lullIdentity_phase {s₀ s : State} (h₀ : SamePhase s₀ s) : SamePhase s₀ (State.lullIdentity s) := by
  unfold State.lullIdentity
  repeat' (first | with_reducible assumption | with_reducible apply State.sendIdentity_phase | with_reducible refine SamePhase.foldl (fun _ _ _ => ?_) _ ?_ | split)

theorem State.partnersLost_phase {s₀ s : State} (h₀ : SamePhase s₀ s) (ranks : List Presence) (links : List Nat) : SamePhase s₀ (State.partnersLost s ranks links) := by
  unfold State.partnersLost
  repeat' (first | with_reducible assumption | with_reducible apply roster_phase | with_reducible apply State.raise_phase | with_reducible refine SamePhase.foldl (fun _ _ _ => ?_) _ ?_ | ((try lift_lets); intro z; try (refine (have hz : SamePhase s₀ z := ?_; ?_))) | split | subst z)

theorem State.auditLinks_phase {s₀ s : State} (h₀ : SamePhase s₀ s) (fails : List (Nat × Nat)) : SamePhase s₀ (State.auditLinks s fails) := by
  unfold State.auditLinks
  repeat' (first | with_reducible assumption | ((with_reducible refine SamePhase.update ?_ ?_ ?_) <;> first | with_reducible assumption | exact rfl) | with_reducible apply State.ledgerViolation_phase | ((try lift_lets); intro z; try (refine (have hz : SamePhase s₀ z := ?_; ?_))) | split | subst z)

theorem State.markUnresolved_phase {s₀ s : State} (h₀ : SamePhase s₀ s) (vs : List Vote) : SamePhase s₀ (State.markUnresolved s vs) := by
  unfold State.markUnresolved
  repeat' (first | with_reducible assumption | ((with_reducible refine SamePhase.update ?_ ?_ ?_) <;> first | with_reducible assumption | exact rfl) | ((try lift_lets); intro z; try (refine (have hz : SamePhase s₀ z := ?_; ?_))) | subst z)

theorem State.sealVotes_phase {s₀ s : State} (h₀ : SamePhase s₀ s) (vs : List Vote) : SamePhase s₀ (State.sealVotes s vs) := by
  unfold State.sealVotes
  repeat' (first | with_reducible assumption | ((with_reducible refine SamePhase.update ?_ ?_ ?_) <;> first | with_reducible assumption | exact rfl) | with_reducible apply State.sealedAll_phase | with_reducible apply State.modPlan_phase | with_reducible refine SamePhase.foldl (fun _ _ _ => ?_) _ ?_ | ((try lift_lets); intro z; try (refine (have hz : SamePhase s₀ z := ?_; ?_))) | split | subst z)

theorem State.exhausted_phase {s₀ s : State} (h₀ : SamePhase s₀ s) (reps : List RootReport) : SamePhase s₀ (State.exhausted s reps) := by
  unfold State.exhausted
  repeat' (first | with_reducible assumption | ((with_reducible refine SamePhase.update ?_ ?_ ?_) <;> first | with_reducible assumption | exact rfl) | with_reducible refine State.modFrm_phase ?_ _ rfl rfl | ((try lift_lets); intro z; try (refine (have hz : SamePhase s₀ z := ?_; ?_))) | subst z)

theorem State.agree_phase {s₀ s : State} (h₀ : SamePhase s₀ s) (vs : List Vote) : SamePhase s₀ (State.agree s vs) := by
  unfold State.agree
  repeat' (first | with_reducible assumption | ((with_reducible refine SamePhase.update ?_ ?_ ?_) <;> first | with_reducible assumption | exact rfl) | ((try lift_lets); intro z; try (refine (have hz : SamePhase s₀ z := ?_; ?_))) | split | dsimp -zeta only | subst z)

theorem State.recordSteering_phase {s₀ s : State} (h₀ : SamePhase s₀ s) : SamePhase s₀ (State.recordSteering s) := by
  unfold State.recordSteering
  repeat' (first | with_reducible assumption | with_reducible apply State.applySteer_phase | with_reducible refine SamePhase.foldl (fun _ _ _ => ?_) _ ?_ | split)

theorem State.recordStep_phase {s₀ s : State} (h₀ : SamePhase s₀ s) (p : Nat) : SamePhase s₀ (State.recordStep s p) := by
  unfold State.recordStep
  repeat' (first | with_reducible assumption | ((with_reducible refine SamePhase.update ?_ ?_ ?_) <;> first | with_reducible assumption | exact rfl) | with_reducible apply State.watchSnapshot_phase | with_reducible apply State.rankWatch_phase | with_reducible apply State.applySteerOf_phase | with_reducible apply State.modPlan_phase | ((try lift_lets); intro z; try (refine (have hz : SamePhase s₀ z := ?_; ?_))) | split | subst z)

theorem State.summarise_phase {r s : State} (h : SamePhase r s) : SamePhase r (State.summarise s) := ⟨h.frame, h.phase⟩

theorem State.summaries_phase {s₀ s : State} (h₀ : SamePhase s₀ s) : SamePhase s₀ (State.summaries s) := by
  unfold State.summaries
  repeat' (first | with_reducible assumption | ((with_reducible refine SamePhase.update ?_ ?_ ?_) <;> first | with_reducible assumption | exact rfl) | with_reducible apply State.summarise_phase | with_reducible apply State.raise_phase | ((try lift_lets); intro z; try (refine (have hz : SamePhase s₀ z := ?_; ?_))) | split | subst z)

theorem State.guardConstants_phase {s₀ s : State} (h₀ : SamePhase s₀ s) (p : Nat) : SamePhase s₀ (State.guardConstants s p) := by
  unfold State.guardConstants
  repeat' (first | with_reducible assumption | ((with_reducible refine SamePhase.update ?_ ?_ ?_) <;> first | with_reducible assumption | exact rfl) | with_reducible apply State.stepConstants_phase | ((try lift_lets); intro z; try (refine (have hz : SamePhase s₀ z := ?_; ?_))) | split | subst z)

theorem State.activatePacks_phase {s₀ s : State} (h₀ : SamePhase s₀ s) : SamePhase s₀ (State.activatePacks s) := by
  unfold State.activatePacks
  repeat' (first | with_reducible assumption | ((with_reducible refine SamePhase.update ?_ ?_ ?_) <;> first | with_reducible assumption | exact rfl) | with_reducible apply State.flagSlices_phase | with_reducible apply State.loadPatrol_phase | ((try lift_lets); intro z; try (refine (have hz : SamePhase s₀ z := ?_; ?_))) | split | subst z)

end Sys2Proof.Machine
end

