-- ==== Sys2Proof/WellFormed.lean ====
section
/-! DEFINITION. Well-formed commands: the operands lie in the ranges that their fields have in the spec. A meaning does not rely on
it; a command with operands out of range is a term that no sender can spell. -/

namespace Sys2Proof

open Machine

/-- A tick frame (10 R285): the leader's rank and the hops are bytes, and a rank is below 64. -/
def TickIn.wf (o : TickIn) : Bool := decide (o.leader < 64) && decide (o.hops < 256)

/-- A vote (10 R278): its sender, six port states, four validation codes. -/
def Machine.Vote.wf (v : Vote) : Bool := decide (v.rank < 64) && decide (v.ports.length = 6) && decide (v.vcodes.length = 4)

/-- A data frame (10 Table 10.2): class 0 to 4 and destination rank. -/
def Machine.DataFrame.wf (f : DataFrame) : Bool := decide (f.cls < 5) && decide (f.dest < 64)

/-- An identity frame (10 Table 10.5): port 0 to 5, four fingerprints. -/
def IdBody.wf (b : IdBody) : Bool := decide (b.port < 6) && decide (b.pfp.length = 4)

/-- A link report (10 R275): its rank, six ports, four fingerprints. -/
def Machine.LinkReport.wf (r : LinkReport) : Bool := decide (r.rank < 64) && decide (r.ports.length = 6) && decide (r.pfp.length = 4)

/-- A roster (10 R275): one entry and one link word for each of at most 64 ranks, a variant for each plan. -/
def RosterIn.wf (r : RosterIn) : Bool :=
  decide (r.ranks.length ≤ 64) && decide (r.links.length = r.ranks.length) && decide (r.variants.length = 4)

/-- How a datagram comes: a 12-bit VLAN ID and a 16-bit UDP port (13 R357, R360). -/
def Machine.Eth.wf (e : Eth) : Bool := (e.vlan.map fun v => decide (v < 4096)).getD true && decide (e.dport < 2 ^ 16)

/-- A management message's header (14 Table 14.6): VER, TYPE, RANK and LEN in their fields, and a 16-bit UDP port. -/
def Machine.GoushHdr.wf (h : GoushHdr) : Bool :=
  decide (h.ver < 256) && decide (h.typ < 256) && decide (h.rank < 64) && decide (h.len < 2 ^ 16) && decide (h.dport < 2 ^ 16)

/-- A DATA datagram (13 Table 13.3, R361): rank, STREAM and at most 8,192 bytes. -/
def DataDg.wf (d : DataDg) : Bool := decide (d.rank < 64) && decide (d.stream < 2 ^ 16) && decide (d.body.length ≤ 8192) && d.eth.wf

/-- An ACK datagram (13 R363): rank, STREAM and at most 32 ranges. -/
def AckDg.wf (a : AckDg) : Bool := decide (a.rank < 64) && decide (a.stream < 2 ^ 16) && decide (a.ranges.length ≤ 32) && a.eth.wf

/-- A directive (13 R369): rank and four body words. -/
def DirIn.wf (d : DirIn) : Bool := decide (d.rank < 64) && decide (d.words.length = 4) && d.eth.wf

/-- A status request (13 R368): rank. -/
def StatReq.wf (r : StatReq) : Bool := decide (r.rank < 64) && r.eth.wf

/-- Self-test results (15 R424): physical positions of the 16 tiles. -/
def SelfTestIn.wf (r : SelfTestIn) : Bool :=
  r.cores.all (fun e => decide (e.1 < 16 ∧ e.2.1 < 74 ∧ e.2.2 < 74)) && r.tiles.all fun t => decide (t < 16)

/-- The operands of a command are in range. -/
def Instr.wf (i : Instr) : Bool :=
  match i with
  | .tick o => o.wf
  | .tickLost => true
  | .endOfWorkWindow => true
  | .auditPhase => true
  | .votePhase votes => votes.all fun e => e.2.wf
  | .patrolPhase _ => true
  | .recordPhase => true
  | .guardPhase => true
  | .slotStart _ => true
  | .slotComplete _ => true
  | .lateSlot _ => true
  | .lateReport o => decide (o.rank < 64)
  | .graceGrant _ _ _ _ => true
  | .finish _ _ => true
  | .finishLullAnnounce _ => true
  | .hungSlot _ => true
  | .mstep _ => true
  | .pld _ => true
  | .pst _ => true
  | .vld _ => true
  | .vst _ => true
  | .vop _ => true
  | .twait _ => true
  | .twaitRelease _ => true
  | .tsig _ => true
  | .fencedTsig _ => true
  | .spill _ => true
  | .accAlloc _ => true
  | .accFree _ => true
  | .accZero _ => true
  | .loop _ => true
  | .addr _ => true
  | .chain _ => true
  | .endProg _ => true
  | .moverCommand _ => true
  | .moverCommandComplete _ => true
  | .lineRead _ line _ => decide (line < 2 ^ 30)
  | .fullLineWrite _ line _ _ _ _ => decide (line < 2 ^ 30)
  | .partialWrite _ line _ _ _ _ => decide (line < 2 ^ 30)
  | .wcbMerge _ line _ => decide (line < 2 ^ 30)
  | .pacedRefresh u => u.2.all fun e => decide (e.1 < 2 ^ 30)
  | .scheduledRetrainOverrun _ => true
  | .retrainComplete _ => true
  | .siteFailed _ => true
  | .write _ f => f.wf
  | .acc16 _ f _ => f.wf
  | .acc32 _ f _ => f.wf
  | .tsigFrame _ f => f.wf
  | .relay _ f => f.wf
  | .crcFail _ => true
  | .nack _ _ => true
  | .controlFrame _ _ returns => decide (returns.length = 5)
  | .dataFrameSend _ => true
  | .idleControlFrame _ => true
  | .identityFrame _ b _ => b.wf
  | .identityRepeat _ => true
  | .portTrainTimeout _ => true
  | .probeFrame _ _ => true
  | .linkReport _ r => r.wf
  | .rosterAssembly => true
  | .roster f => f.2.wf
  | .laneFailing _ _ _ _ _ => true
  | .laneDead _ _ => true
  | .laneSpared _ => true
  | .linkDown _ => true
  | .planWithdrawal _ => true
  | .relayDrop _ => true
  | .rootWatchDeadline _ recs => recs.all fun r => decide (r.rank < 64)
  | .commitLate _ => true
  | .segmentClose _ _ => true
  | .sampleRecord _ _ rest _ => decide (rest.length = 3)
  | .decodeComplete _ _ e => decide (e < 64)
  | .data d => d.wf
  | .ack a => a.wf
  | .ackTimer stream => decide (stream < 2 ^ 16)
  | .retransmissionTimeout stream _ => decide (stream < 2 ^ 16)
  | .keepAlive stream => decide (stream < 2 ^ 16)
  | .stop d => d.wf
  | .restart d => d.wf
  | .hold d => d.wf
  | .checkpoint d => d.wf
  | .resume d => d.wf
  | .lrEdit d => d.wf
  | .patrol d => d.wf
  | .redundancy d => d.wf
  | .variant d => d.wf
  | .imageWrite d => d.wf
  | .imageWriteComplete => true
  | .sread r count => r.wf && decide (count < 2 ^ 8)
  | .swrite r _ => r.wf
  | .rcRead r => r.wf
  | .jrnSel _ _ => true
  | .itgFsel _ _ => true
  | .botAttreq _ _ => true
  | .tilFaultValidClear _ => true
  | .ptpSync _ m => decide (m.domain < 256)
  | .ptpHoldover => true
  | .hostLinkDown => true
  | .journalRecordWrite _ => true
  | .reportResend _ _ => true
  | .rack m _ => m.1.wf
  | .heartbeat => true
  | .packSeg m _ body => m.1.wf && decide (body.length ≤ 8184)
  | .imgSeg m body => m.1.wf && decide (body.length ≤ 8184)
  | .mgmtLinkDown => true
  | .twinCompare _ _ => true
  | .deltaRecordWrite _ => true
  | .resetRelease _ => true
  | .emmcFail => true
  | .siteTrainingComplete _ _ => true
  | .selfTestComplete r => r.wf
  | .spareMapApply => true
  | .planValidation => true
  | .readyFrame _ codes => decide (codes.length = 4)
  | .firstTick => true
  | .ckptLate _ => true
  | .restoreLate _ => true
  | .resetAssertion => true
  | .pllLock _ => true
  | .refclkFailover => true
  | .refclkLost => true
  | .refclkHoldoverEnd => true
  | .refclk156Loss _ => true
  | .temperatureSample _ sensors => !sensors.isEmpty
  | .thermalHoldAnnouncement => true
  | .thermalClear => true
  | .scheduledRetrainComplete _ => true
  | .portTrained _ => true
  | .hostLinkUp => true
  | .mgmtLinkUp => true
  | .refclk156Return _ => true
  | .refclkStandbyRestored => true
  | .jrnFetchComplete _ => true
  | .frecFetchComplete _ => true
  | .attestationReportFormed _ => true
  | .neighborDiscoveryArpEcho _ => true
  | .thermalHoldReport _ => true
  | .twinMismatchReport _ _ => true

end Sys2Proof
end

