-- ==== Sys2Proof/Tests/Slice0.lean ====
section
/-! SUPPORT. Tests of the model. `smoke_` theorems: each well-formedness check refuses an ill-formed command. `test_` theorems: one step
against values worked out from the spec. `witness_` theorems: for each statement with hypotheses, states and operands that meet them, a
boundary value for each clause. -/

namespace Sys2Proof.Tests

open Sys2Proof Sys2Proof.Machine

/-! ### States -/

/-- Out of reset, started, in the work window after tick 0, shape 4 × 4 × 1. -/
def up : State :=
  { State.reset with
    pwr := { Pwr.reset with inReset := false }
    boot := { Boot.reset with stage := 11 }
    dom := { Domain.reset with tick0 := true, shape := 0x3C }
    frm := { Frm.reset with state := .work } }

def plan0 : Plan :=
  { head0 := 0, head1 := 0xFFFFFFFFFF, steps := [], tables := [], programs := [], moverLists := [], descs := [], nests := [],
    nestProgs := [], visits := [], windows := [], stripes := [], sinks := [], variants := [], training := none, layers := [],
    mbmap := [], lrtab := [], grpmul := [], experts := [], reds := [], integrity := 0, ckpt := none, persist := [], watches := [],
    portDecl := [], initTab := [], restoreTab := [], carry := [], shares := [16, 16, 16, 16, 16, 16], laneTabs := [], streams := [], pfp := 0,
    beyond := false, hosts := [], facts := { engines := [], tableBytes := 0, narrow := false } }

/-- Plan `q` runs as plan 0. -/
def running (q : Plan) (s : State) : State := { s with plans := [(0, { PlanSt.reset with pstate := .running, image := some q })] }

/-- Core 0 of tile 0. -/
def id0 : CoreId := ⟨0, 0, 0⟩

/-- Core 0 in the state `c`, about to issue `w`. -/
def coreAt (w : W128) (c : Core) : State :=
  { running { plan0 with programs := [w] } up with
    cores := [(0, { c with active := true })]
    tiles := [(0, { Tile.reset with progs := [(0, [w])] })] }

def instr (op body : Nat) : W128 := BitVec.ofNat 128 (op * 2 ^ 120 + body)

def clean : Xfer := Xfer.clean

/-! ### Well-formed commands: one ill-formed term for each check -/

def tick0 : TickIn :=
  { port := some 0, frame := 1, leader := 0, hops := 1, corr := 0, arrival := 0, predicted := 0, firstTx := 0, residence := 0 }
def vote1 : Vote :=
  { rank := 1, frame := 0, late := false, hold := false, directives := [], ports := List.replicate 6 .up, hears := 0, digest := 0,
    reports := [], faults := [], causes := [], vcodes := [0, 0, 0, 0], sealed := 0, switching := 0, period := 0, lull := 0, tickPtp := 0, unlocked := false,
    credits := [] }
def frame0 : DataFrame := { cls := 0, dest := 0, op := 0, poison := 0, line := 0, body := 0 }
def ident : IdBody := { serial := 7, rank := 1, port := 3, stepping := 0xB0, shape := 0xF0, pfp := [0, 0, 0, 0] }
def report1 : LinkReport := { rank := 1, ports := List.replicate 6 (.up, 0), pfp := [0, 0, 0, 0] }
def datagram : DataDg := { src := 1, rank := 0, stream := 3, epoch := 0, seq := 0, body := [1], formOk := true }
def ackDg : AckDg := { rank := 0, stream := 3, epoch := 0, cum := 1, window := 4, ranges := [], rttUs := 10 }
def dirIn (op a b c : Nat) : DirIn := { port := 0, rank := 0, src := 1, udp := 9, words := [BitVec.ofNat 64 (op * 2 ^ 56 + a), BitVec.ofNat 64 b, BitVec.ofNat 64 c, 0] }
/-- A good management header of TYPE `t` and LEN `n` for rank 0. -/
def goush0 (t n : Nat) : GoushHdr := { typ := t, len := n }
def watch1 : WatchRec :=
  { plan := 0, rank := 1, step := 0, first := 0, grace := 0, part := false, ranks := 1, rate0 := 0, layers := [], formats := [] }

theorem smoke_tick : (Instr.tick tick0).wf = true ∧ (Instr.tick { tick0 with leader := 64 }).wf = false ∧
    (Instr.tick { tick0 with hops := 256 }).wf = false := by decide
theorem smoke_vote : (Instr.votePhase [(0, vote1)]).wf = true ∧ (Instr.votePhase [(0, { vote1 with rank := 64 })]).wf = false ∧
    (Instr.votePhase [(0, { vote1 with ports := [] })]).wf = false ∧ (Instr.votePhase [(0, { vote1 with vcodes := [0] })]).wf = false := by decide
theorem smoke_dataFrame : (Instr.write none frame0).wf = true ∧ (Instr.write none { frame0 with cls := 5 }).wf = false ∧
    (Instr.relay none { frame0 with dest := 64 }).wf = false ∧ (Instr.acc16 none { frame0 with cls := 5 } AddIn.clean).wf = false ∧
    (Instr.acc32 none { frame0 with cls := 5 } AddIn.clean).wf = false ∧ (Instr.tsigFrame none { frame0 with dest := 64 }).wf = false := by
  decide
theorem smoke_identity : (Instr.identityFrame 0 ident true).wf = true ∧ (Instr.identityFrame 0 { ident with port := 6 } true).wf = false ∧
    (Instr.identityFrame 0 { ident with pfp := [] } true).wf = false := by decide
theorem smoke_report : (Instr.linkReport none report1).wf = true ∧ (Instr.linkReport none { report1 with rank := 64 }).wf = false ∧
    (Instr.linkReport none { report1 with ports := [] }).wf = false ∧ (Instr.linkReport none { report1 with pfp := [] }).wf = false := by decide
theorem smoke_roster : (Instr.roster (0, ⟨[.present], [0], [0, 0, 0, 0]⟩)).wf = true ∧ (Instr.roster (0, ⟨[.present], [], [0, 0, 0, 0]⟩)).wf = false ∧
    (Instr.roster (0, ⟨[.present], [0], []⟩)).wf = false ∧
    (Instr.roster (0, ⟨List.replicate 65 .present, List.replicate 65 0, [0, 0, 0, 0]⟩)).wf = false := by decide
theorem smoke_data : (Instr.data datagram).wf = true ∧ (Instr.data { datagram with rank := 64 }).wf = false ∧
    (Instr.data { datagram with stream := 0x10000 }).wf = false := by decide
theorem smoke_goush : (Instr.rack (goush0 2 8, 0) 0).wf = true ∧ (Instr.rack ({ goush0 2 8 with ver := 256 }, 0) 0).wf = false ∧
    (Instr.rack (goush0 256 8, 0) 0).wf = false ∧ (Instr.rack ({ goush0 2 8 with rank := 64 }, 0) 0).wf = false ∧
    (Instr.rack (goush0 2 65536, 0) 0).wf = false ∧ (Instr.packSeg ({ goush0 0x30 8 with dport := 65536 }, 1) 0 []).wf = false ∧
    (Instr.imgSeg ({ goush0 0x32 8 with ver := 256 }, 0) []).wf = false := by decide
theorem smoke_eth : (Instr.data { datagram with eth := { dport := 65536 } }).wf = false ∧
    (Instr.data { datagram with eth := { dport := 46880, vlan := some 4096 } }).wf = false ∧ (Instr.ack { ackDg with eth := { dport := 65536 } }).wf = false ∧
    (Instr.stop { dirIn 1 0 0 0 with eth := { dport := 65536 } }).wf = false ∧ (Instr.ptpSync 0 { domain := 256, calibrated := true }).wf = false ∧
    (Instr.sread ⟨0, 0, 0, 0, 0, { dport := 65536 }⟩ 1).wf = false := by decide
theorem smoke_lengths (b : List Byte) (h : 8192 < b.length) : (Instr.data { datagram with body := b }).wf = false ∧
    (Instr.packSeg (goush0 0x30 0, 0) 0 b).wf = false ∧ (Instr.imgSeg (goush0 0x32 0, 0) b).wf = false := by
  simp [Instr.wf, DataDg.wf]; omega
theorem smoke_length_term : ∃ b : List Byte, 8192 < b.length :=
  ⟨List.replicate 8193 0, by rw [List.length_replicate]; omega⟩
theorem smoke_ack : (Instr.ack ackDg).wf = true ∧ (Instr.ack { ackDg with stream := 0x10000 }).wf = false ∧ (Instr.ack { ackDg with rank := 64 }).wf = false ∧
    (Instr.ack { ackDg with ranges := List.replicate 33 (0, 1) }).wf = false := by decide
theorem smoke_directive : [Instr.stop, .restart, .hold, .checkpoint, .resume, .lrEdit, .patrol, .redundancy, .variant, .imageWrite].all
    (fun c => (c (dirIn 1 0 0 0)).wf && !(c { dirIn 1 0 0 0 with words := [] }).wf && !(c { dirIn 1 0 0 0 with rank := 64 }).wf) = true := by decide
theorem smoke_selfTest : (Instr.selfTestComplete ⟨[(15, 73, 73)], [15]⟩).wf = true ∧ (Instr.selfTestComplete ⟨[(16, 0, 0)], []⟩).wf = false ∧
    (Instr.selfTestComplete ⟨[(0, 74, 0)], []⟩).wf = false ∧ (Instr.selfTestComplete ⟨[(0, 0, 74)], []⟩).wf = false ∧
    (Instr.selfTestComplete ⟨[], [16]⟩).wf = false := by decide
theorem smoke_lines : (Instr.lineRead 0 (2 ^ 30 - 1) clean).wf = true ∧ (Instr.lineRead 0 (2 ^ 30) clean).wf = false ∧
    (Instr.fullLineWrite 0 (2 ^ 30) 0 0 none clean).wf = false ∧ (Instr.partialWrite 0 (2 ^ 30) 0 0 0 none).wf = false ∧
    (Instr.wcbMerge 0 (2 ^ 30) clean).wf = false ∧ (Instr.pacedRefresh (0, [(2 ^ 30, clean)])).wf = false := by decide
theorem smoke_streams : (Instr.ackTimer 0xFFFF).wf = true ∧ (Instr.ackTimer 0x10000).wf = false ∧
    (Instr.retransmissionTimeout 0x10000 0).wf = false ∧ (Instr.keepAlive 0x10000).wf = false := by decide
theorem smoke_others : (Instr.lateReport ⟨0, 64, 0, 0, 0, 0⟩).wf = false ∧ (Instr.controlFrame 0 0 []).wf = false ∧
    (Instr.rootWatchDeadline 0 [{ watch1 with rank := 64 }]).wf = false ∧ (Instr.sampleRecord 0 0 [] []).wf = false ∧ (Instr.decodeComplete 0 0 64).wf = false ∧
    (Instr.sread ⟨0, 0, 0, 0, 0, { dport := 46881 }⟩ 256).wf = false ∧ (Instr.sread ⟨0, 64, 0, 0, 0, { dport := 46881 }⟩ 1).wf = false ∧
    (Instr.swrite ⟨0, 64, 0, 0, 0, { dport := 46881 }⟩ 1).wf = false ∧ (Instr.rcRead ⟨0, 64, 0, 0, 0, { dport := 46881 }⟩).wf = false ∧ (Instr.readyFrame (0, 0) []).wf = false ∧ (Instr.temperatureSample 0 []).wf = false := by decide

/-! ### Witnesses: the machine, reset, clocks, temperature -/

theorem witness_StepRunsFrontCommand : ({ up with pending := [.tickLost, .heartbeat] } : State).pending = .tickLost :: [.heartbeat] ∧
    up.pending = [] := ⟨rfl, rfl⟩

theorem witness_EveryStepKeepsCanonicalForm : up.canonical = true ∧ ∃ t, step { up with pending := [.heartbeat] } = .next t :=
  ⟨by decide, _, rfl⟩

theorem witness_RevocationIsPermanent :
    ∃ t, step { up with otp := { Otp.reset with revoked := 1 }, pending := [.heartbeat] } = .next t ∧ (1 : BitVec 16).getLsbD 0 = true :=
  ⟨_, rfl, by decide⟩

def rel (ref100 : BitVec 2) : ResetIn :=
  { straps := 0, forceRec := false, ref100 := ref100, ref156 := 7, powerOn := false, romOk := true, emmcOk := true }

theorem witness_ReleaseSelectsReferenceClock : State.reset.pwr.inReset = true ∧ State.reset.pwr.thermTrip = false ∧ (rel 1).ref100.getLsbD 0 = true ∧
    ((rel 2).ref100.getLsbD 0 = false ∧ (rel 2).ref100.getLsbD 1 = true) ∧
    ((rel 0).ref100.getLsbD 0 = false ∧ (rel 0).ref100.getLsbD 1 = false) := by decide

/-- No standby clock. -/
def noStandby : State := { up with clk := { Clk.reset with standbyOk := false } }

theorem witness_ClockLossIsHandled : up.live = true ∧ (up.clk.standbyOk = true ∧ up.clk.lost = false) ∧
    noStandby.live = true ∧ (noStandby.clk.standbyOk = false ∧ noStandby.clk.lost = false) ∧
    ({ up with clk := { Clk.reset with lost := true } } : State).live = true ∧ up.emmc.deltaCount < deltaMax := by decide

/-- THERM is 1, every die has been cool. -/
def warm : State := { up with dev := { Dev.reset with therm := 1, coolSince := some 0 } }

theorem witness_TemperatureThresholds : up.live = true ∧ up.dev.therm = 0 ∧ up.dev.holdRaised = false ∧ up.frm.leader = up.dom.rank ∧
    ({ up with dom := { up.dom with rank := 1 } } : State).frm.leader ≠ 1 ∧
    [1519, 1520, 1639, 1640, 1759, 1760].map (fun y : Int => (BitVec.ofInt 16 ([y - 1].foldl max y)).toInt) =
      [1519, 1520, 1639, 1640, 1759, 1760] := by decide

theorem witness_ThermalHoldReachesEveryRank : up.runs = true ∧ up.frm.leader = up.dom.rank ∧ warm.live = true ∧ warm.dev.therm ≠ 0 ∧
    warm.dev.coolSince.isSome = true := by decide

/-! ### Witnesses: status space -/

def req (a : W32) : StatReq := { port := 0, rank := 0, src := 1, id := 5, addr := a }
/-- The host link is up. -/
def hostOn (s : State) : State := { s with host := { s.host with link := 2 } }

/-- JRN_SEL has been written and its fetch runs. -/
def fetching : State := { up with win0 := { Window.reset with jrnFetch := true, frecFetch := true } }
/-- A read of word `a` that waits at the host port. -/
def readJrn (a : Nat) : StatOp := { port := 0, addr := a, count := 1, src := 1, id := 5, write := none, answers := true }
def queued : State := { hostOn fetching with host := { (hostOn fetching).host with waiting := [readJrn 0xA0040] } }
/-- In recovery. -/
def recovering : State := { up with boot := { up.boot with stage := 5, recovery := true } }

theorem witness_StatusReadsAnswerRefuseOrWait : (hostOn up).reach (req 0).port.val = true ∧ (req 0).rank = (hostOn up).dom.rank ∧
    (hostOn up).host.link = 2 ∧ ({ req 0 with rank := 1 } : StatReq).rank ≠ up.dom.rank ∧ ({ req 0 with port := 1 } : StatReq).port.val = 1 ∧ up.reach 1 = true ∧ (req 4).addr.toNat % 8 ≠ 0 ∧ (0x10020 : W32).toNat % 8 = 0 ∧
    (((hostOn up).rxdg 0).statusWord 0 0x28 = none) ∧ (((hostOn up).rxdg 0).statusWord 0 0x10020 = some 0) ∧ (up.win 0).busy 0x10020 = false ∧ (hostOn up).host.waiting = [] ∧ (hostOn up).inForm 0 (req 0).eth (req 0).src up.dirPort = true ∧
    up.inForm 1 { req 0 with port := 1, eth := { dport := 46890 } }.eth 1 up.dirPort = true ∧ up.frameOk { dport := 0, bytes := 9217 } = false ∧
    up.inForm 0 { dport := 46880 } 1 up.dirPort = false ∧ up.frameOk { dport := 46880 } = true ∧ queued.host.waiting = [readJrn 0xA0040] ∧
    queued.opBusy (readJrn 0xA0040) = true ∧ queued.reach 0 = true ∧
    up.boot.recovery = false ∧ rcWord 0x10020 = true ∧ (hostOn fetching).reach 0 = true ∧
    (((hostOn fetching).rxdg 0).statusWord 0 0xA0040).isSome = true ∧ ((hostOn fetching).win 0).busy 0xA0040 = true ∧
    (reqAddrs 0x10000 2).all (fun x => (((hostOn up).rxdg 0).statusWord 0 x).isSome && !((hostOn up).win 0).busy x) = true ∧
    (reqAddrs 0x20 2).any (fun x => (((hostOn up).rxdg 0).statusWord 0 x).isNone) = true := by decide

theorem witness_StatusWritesReachOnlyTheirWord : (hostOn up).reach 0 = true ∧ up.boot.recovery = false ∧ (4 : W32).toNat % 8 ≠ 0 ∧
    (up.rxdg 0).statusWord 0 0x1FFF8 = none ∧ [0, 0x30000, 0x21000, 0x20008, 0x20008 + 0x100 * 15, 0x80310, 0x90100, 0x90118, 0x90120, 0x90400, 0xA0010].all
      (fun a => (((hostOn up).rxdg 0).statusWord 0 a).isSome) = true ∧ (0x10000 : W64).getLsbD 16 = true ∧ up.live = true ∧ up.host.waiting = [] ∧
    ((recovering.rxdg 0).statusWord 0 0x10000).isSome = true ∧ liveInRecovery 0x10000 = false ∧ recovering.reach 1 = true ∧ liveInRecovery 0x90100 = true ∧
    5 ≤ up.boot.stage := by decide

/-! ### Witnesses: windows, host port, management port -/

/-- A report is being formed and a read of its first word waits. -/
def att : State := { up with
  win0 := { Window.reset with attFetch := true, jrnFetch := true, frecFetch := true }
  host := { up.host with link := 2, waiting := [readJrn 0x90200] } }
def image0 : Image :=
  { magicOk := true, format := 1, nsect := 1, version := 1, length := 4096, stepping := 0xB0, keyIdx := 0, keyDigest := 0, sigOk := true,
    hdrDigest := 5, sections := [], device := [], intake := none, deltas := [], packs := [], builtin := [], plans := [] }

theorem witness_WindowsFetchForTheirPort : up.reach 1 = true ∧
    (fetching.win 0).jrnFetch = true ∧ (fetching.win 0).frecFetch = true ∧ fetching.host.waiting = [] ∧ fetching.reach 0 = true ∧
    (att.win 0).attFetch = true ∧ att.host.waiting = [readJrn 0x90200] ∧ att.opBusy (readJrn 0x90200) = true ∧ att.reach 0 = true ∧
    att.host.link = 2 ∧ 0x90398 < 0x903A0 ∧ (readJrn 0xA0040).addr % 8 = 0 ∧ (readJrn 0xA00B8).addr < 0xA00C0 ∧ (readJrn 0x80340).addr % 8 = 0 ∧
    (readJrn 0x80378).addr < 0x80380 := by decide

theorem witness_WindowsFetchForTheirPort_image :
    ({ up with boot := { up.boot with image := some image0 } } : State).boot.image = some image0 := rfl

/-- A text lane of plan 0 on stream 3, 64 MB of inbound buffer. -/
def lane0 : Lane := { Lane.reset with
  state := .idle
  record := [BitVec.ofNat 64 (2 * 2 ^ 55 + 64 * 2 ^ 32 + 3 * 2 ^ 16), BitVec.ofNat 64 (4 * 2 ^ 16), 0, BitVec.ofNat 64 0xF00000010000,
    BitVec.ofNat 64 0x1000, 0, 0, 0] }
def feeding : State := { running plan0 up with lanes := [(0, lane0)] }
def afterOne : State := { feeding with host := { HostPort.reset with
  ins := [{ src := 1, stream := 3, epoch := 0, cum := 1, held := [], passed := [1], unacked := 1 }] } }

theorem witness_DataIsPassedOnInOrder : ({ datagram with rank := 1 } : DataDg).rank ≠ feeding.dom.rank ∧ (hostOn feeding).host.link = 2 ∧
    datagram.body.length ≤ 8192 ∧ 2 ≠ ((hostOn feeding).inStream 3).epoch ∧ feeding.frameOk datagram.eth = true ∧ feeding.dgOk datagram.eth 1 feeding.dataPort = true ∧
    feeding.dgOk { dport := 0 } 1 feeding.dataPort = false ∧ feeding.hostUp = true ∧ feeding.boot.stage = 11 ∧ feeding.restorePlan 3 = none ∧
    ({ datagram with formOk := false } : DataDg).formOk = false ∧ feeding.knowsStream 3 = true ∧ feeding.imgStream 3 = false ∧
    datagram.body ≠ [] ∧ datagram.rank = feeding.dom.rank ∧ (feeding.inStream 3).epoch = datagram.epoch ∧ (afterOne.inStream 3).epoch = datagram.epoch ∧
    (afterOne.inStream 3).held = [] ∧ (datagram.seq.toNat < (afterOne.inStream 3).cum.toNat) ∧ (afterOne.inStream 3).cum = 1 ∧
    (afterOne.windowOf 3 = 8191 ∧ afterOne.hostUp = true ∧ afterOne.knowsStream 3 = true) := by decide

/-- The host link is up; stream 4 has sent SEQ 0 and 1, the first of them fifteen times again. -/
def sent : State := { up with host := { HostPort.reset with
  link := 2
  ins := [{ src := 1, stream := 3, epoch := 0, cum := 1, held := [], passed := [1], unacked := 1 }]
  outs := [{ stream := 4, epoch := 1, next := 2, flight := [⟨0, [7], 15, 100⟩, ⟨1, [8], 0, 100⟩], queue := [], window := none, stalled := false }] } }

theorem witness_OutflowAcknowledgeResendKeepAlive : ackDg.rank = sent.dom.rank ∧ ({ ackDg with rank := 1 } : AckDg).rank ≠ sent.dom.rank ∧ sent.hostUp = true ∧ sent.host.link = 2 ∧ sent.inForm 0 ackDg.eth ackDg.src sent.dataPort = true ∧
    sent.frameOk { dport := 0, vlan := some 7 } = false ∧ sent.frameOk { dport := 0 } = true ∧ sent.dgOk { dport := 0 } 0 sent.dataPort = false ∧ 0 < (sent.inStream 3).unacked ∧
    (sent.out? 4).map (fun x => (x.epoch, x.queue, x.flight.find? (fun e => e.seq == 0), x.flight.find? (fun e => e.seq == 1))) =
      some (1, [], some ⟨0, [7], 15, 100⟩, some ⟨1, [8], 0, 100⟩) := by decide

def locked : State := { up with host := { HostPort.reset with link := 2 }, clk := { Clk.reset with ptp := 3, ptpRun := 15 } }

theorem witness_HostLinkAndPtp : locked.hostUp = true ∧ locked.host.link = 2 ∧ locked.clk.ref156.getLsbD 2 = true ∧ locked.clk.ptp = 3 ∧
    ({ locked with clk := { Clk.reset with ptp := 2 } } : State).clk.ptp = 2 ∧ ({ calibrated := true } : PtpIn).domain = locked.cfgw 2 48 8 ∧
    ({ domain := 1, calibrated := true } : PtpIn).domain ≠ locked.cfgw 2 48 8 := by decide

def faultRec (n : Nat) : FaultRec :=
  { num := n, code := 0x0302, frame := 0, time := 0, cls := 0, rank := 0, plan := none, sum := false, step := 0, unitk := 0, unit := 0,
    d0 := 0, d1 := 0, d2 := 0, d3 := 0 }
/-- The management link is up, with one collector that has acknowledged nothing, one record held, and a write to slot 1 open. -/
def managed : State := { up with
  flt := { FaultUnit.reset with mgmtUp := true, collectors := [⟨1, 9, 0, 1000⟩], recs := [faultRec 0], next := 1 }
  img := [{ slot := 1, stream := 0xFFFF, length := 8, port := 1, bytes := [1, 2] }] }
/-- The first 16 bytes of a pack, with LENGTH `n` in the last four. -/
def packHead (n : Nat) : List Byte := List.replicate 12 0 ++ leBytes 4 n

/-- A write to slot 1 is complete. -/
def written : State := { managed with img := [⟨1, 0xFFFF, 2, 1, [1, 2], 7⟩] }

theorem witness_ManagementPortTraffic : managed.mgmt = true ∧ (managed.flt.collectors[0]?).map (·.cum) = some 0 ∧
    managed.flt.holds 0 = true ∧ managed.reach 1 = true ∧ up.flt.mgmtUp = false ∧ up.reach 1 = true ∧
    ((managed.img.find? fun w => w.port == 1 && w.stream == 0xFFFF && decide (w.bytes.length < w.length)).isSome = true) ∧
    (written.img.find? fun w => w.length ≤ w.bytes.length) = some ⟨1, 0xFFFF, 2, 1, [1, 2], 7⟩ ∧ managed.goush (goush0 0x02 8) 0x02 8 = true ∧ managed.goush (goush0 0x30 9) 0x30 9 = true ∧
    managed.goush (goush0 0x32 9) 0x32 9 = true ∧ managed.goush { goush0 0x02 8 with ver := 2 } 0x02 8 = false ∧
    managed.goush { goush0 0x30 9 with len := 8 } 0x30 9 = false ∧ managed.goush (goush0 0x30 9) 0x32 9 = false ∧ written.emmcIdle = true ∧ written.live = true ∧
    5 ≤ written.boot.stage ∧ (up.img.find? fun w => w.port == 1 && w.stream == 0xFFFF) = none ∧
    ({ written with jrn := { Journal.reset with buf := [⟨0, 1, 0, 0, 0, 0, 0, 0, 0, 0, 0, 0, 0, [], true⟩] } } : State).emmcIdle = false ∧
    managed.itg.rxBytes = [] ∧ packLen [1] = none ∧ packLen (packHead 17) = some 17 ∧ packLen (packHead 16) = some 16 ∧
    packLen (packHead 4194305) = some 4194305 ∧ (packHead 16).length = 16 := by decide

/-! ### Witnesses: directives and the frame -/

/-- Ready to take directives on the host port; one RESUME has been answered before. -/
def seenResume : State := { up with dir := { DirUnit.reset with
  seen := [{ port := 0, src := 1, udp := 9, body := dirBody 0 (dirIn 5 7 0 0).words, arrival := 0, result := 0, reason := 0 }] } }
def resumeDir : Directive :=
  { op := .resume, rank := 0, port := 0, src := 1, udp := 9, body := dirBody 0 (dirIn 5 7 0 0).words, arrival := 0, time := up.ptpNow }
def stopped : State := { up with frm := { up.frm with state := .stopped } }

theorem witness_DirectivesAreAnsweredAndQueued : (hostOn up).takesDirs 0 = true ∧ (hostOn seenResume).takesDirs 0 = true ∧
    (dirIn 5 7 0 0).rank = (hostOn up).dom.rank ∧ (hostOn up).host.link = 2 ∧ ({ dirIn 5 7 0 0 with rank := 1 } : DirIn).rank ≠ up.dom.rank ∧
    dOpc (dirIn 5 7 0 0).words = (dirForm .resume).opc ∧ (seenResume.repeatOf resumeDir).isSome = true ∧
    up.repeatOf resumeDir = none ∧ up.dirAnswer .resume resumeDir = (0, 0) ∧ stopped.repeatOf resumeDir = none ∧
    up.inForm 0 (dirIn 5 7 0 0).eth 1 up.dirPort = true ∧ up.inForm 0 { dport := 0 } 1 up.dirPort = false ∧ up.frameOk { dport := 0 } = true ∧
    up.frameOk { dport := 0, bytes := 9217 } = false ∧ up.inForm 1 { dport := 46890 } 1 0 = true ∧ stopped.jrn.buf.length < jrnBufMax ∧ stopped.frm.state = .stopped := by decide

/-- The opcodes of the ten rows. -/
theorem witness_DirectivesAreAnsweredAndQueued_opcodes : [DirOp.stop, .restart, .hold, .checkpoint, .resume, .lrEdit, .patrol,
    .redundancy, .variant, .imageWrite].map (fun o => (dirForm o).opc) = [1, 2, 3, 4, 5, 0x10, 0x11, 0x12, 0x13, 0x14] := by decide

def dirOf (o : DirOp) (plans a b c : Nat) : Directive :=
  { op := o, rank := 0, port := 0, src := 1, udp := 9, arrival := 0, time := 0,
    body := [BitVec.ofNat 64 ((dirForm o).opc * 2 ^ 56 + plans * 2 ^ 48), BitVec.ofNat 64 a, BitVec.ofNat 64 b, BitVec.ofNat 64 c] }

/-- Copy 1 of the directory is good. -/
def goodDir : State := { up with emmc := { up.emmc with dir1 := DirCopy.presumed.sealed } }

theorem witness_DirectiveEffects : (running plan0 up).namedPlans .checkpoint (dirOf .checkpoint 1 5 0 0).body = [0] ∧
    (running plan0 up).namedPlans .redundancy (dirOf .redundancy 1 1 0 0).body = [0] ∧
    (running plan0 up).namedPlans .lrEdit (dirOf .lrEdit 1 0 2 3).body = [0] ∧ dNamed (dirOf .lrEdit 1 0 2 3).body = [0] ∧
    dArg (dirOf .hold 0 0 0 0).body 0 = 0 ∧ dArg (dirOf .hold 1 1 7 0).body 0 ≠ 0 ∧
    (running plan0 up).namedPlans .hold (dirOf .hold 1 1 7 0).body = [0] ∧ ((running plan0 up).plan 0).pstate = .running ∧
    (running plan0 up).namedPlans .variant (dirOf .variant 1 0xF 0 0).body = [0] ∧
    up.emmc.dir = none := by decide

theorem witness_DirectiveEffects_directory : goodDir.emmc.dir = some DirCopy.presumed.sealed :=
  Emmc.dir_one _ (DirCopy.sealed_good _) DirCopy.bad_good

/-- Plan 0 has been withdrawn and the doldrums are for a partner. -/
def withdrawn0 : State :=
  let s := (running { plan0 with variants := [{ head := 0, ranks := 1, links := [], routes := [], trees := [], twins := [] }] } up).modPlan 0
    fun x => { x with pstate := .withdrawn, variant := 4 }
  { s with dom := { s.dom with roster := [.present] }, frm := { s.frm with state := .doldrums, cause := 3 } }

theorem witness_DirectiveEffects_withdrawn : withdrawn0.namedPlans .variant (dirOf .variant 1 0xF 0 0).body = [0] ∧
    (withdrawn0.plan 0).pstate = .withdrawn ∧
    (withdrawn0.modPlan 0 fun x => { x with pin := none }).choose 0 none (withdrawn0.plan 0).redundant < 4 := by decide

/-- Frame 0 in phase `p`. -/
def inPhase (p : Phase) (s : State) : State := { s with frm := { s.frm with phase := p } }

theorem witness_LullPhasesRunInOrder : up.windowEnds = true ∧ [Phase.close, .audit, .vote, .patrol, .record].all
    (fun p => (inPhase p up).runs && (inPhase p up).frm.phase == p && (inPhase p up).frm.capture.isNone) = true := by decide

/-- The close phase has captured the counts of token equation 5 of plan 0, with one increment lost. -/
def badCapture : Capture := { ports := [], movers := [], tokens := [(2, 1)], experts := [], lanes := [] }
def auditing : State := { inPhase .close (running plan0 up) with frm := { (inPhase .close up).frm with capture := some badCapture } }

theorem witness_LullPhasesRunInOrder_ledger : auditing.runs = true ∧ auditing.frm.phase = .close ∧ auditing.frm.capture = some badCapture ∧
    (firstFail (auditing.ledgerFails badCapture)).isSome = true := by decide

/-- In the audit phase at a rank that is not the leader, whose digest is 5 and the leader's is 6. -/
def splitting : State :=
  let s := inPhase .audit { up with ports := [(0, { Port.reset with state := .up })] }
  { s with frm := { s.frm with leader := 1, digest := some 5 } }

theorem witness_LullPhasesRunInOrder_split : splitting.runs = true ∧ splitting.frm.phase = .audit ∧ splitting.sends = true ∧
    splitting.frm.leader ≠ splitting.dom.rank ∧ (splitting.port 0).up = true ∧ (splitting.port 0).stale = 0 ∧
    { vote1 with digest := 6 }.rank = splitting.frm.leader ∧ { vote1 with digest := 6 }.frame = splitting.frm.frame ∧
    splitting.frm.digest = some 5 ∧ { vote1 with digest := 6 }.digest ≠ 5 := by decide
theorem witness_LullPhasesRunInOrder_noCkpt : ∀ c, (splitting.plan c).ckpt.run = none := fun _ => rfl

/-- Port 0 is up. -/
def portUp (s : State) : State := { s with ports := [(0, { Port.reset with state := .up, accts := List.replicate 5 { Acct.reset with isOpen := true, share := 4, held := 4, grant := 4 } })] }
def tick1 : TickIn := { tick0 with port := some 0, frame := 1 }
def guarding : State := inPhase .guard (portUp up)

theorem witness_TicksOpenFrames : guarding.runs = true ∧ (guarding.port 0).up = true ∧ guarding.dom.tick0 = true ∧
    (guarding.port 0).stale = 0 ∧ ({ guarding with ports := [(0, { Port.reset with state := .up, stale := 1 })] } : State).port 0 = { Port.reset with state := .up, stale := 1 } ∧
    tick1.port = some 0 ∧ tick1.frame = guarding.frm.frame + 1 ∧ guarding.frm.early = false ∧ guarding.frm.phase = .guard ∧
    guarding.frm.agreedDirs = [] ∧ guarding.boot.restart = false ∧ (portUp up).frm.phase ≠ .guard ∧
    guarding.frm.leader = guarding.dom.rank ∧
    ({ guarding with frm := { guarding.frm with leader := 1 } } : State).frm.leader ≠ guarding.dom.rank := by decide

/-- Discovery is done at the provisional leader, and every rank of the roster is ready. -/
def beforeTick : State := { up with dom := { up.dom with tick0 := false, ready := 1 }, boot := { up.boot with stage := 10 },
                                    frm := { up.frm with state := .start } }

theorem witness_TicksOpenFrames_first : beforeTick.runs = true ∧ beforeTick.dom.tick0 = false ∧ beforeTick.boot.stage = 10 ∧
    provisional beforeTick.readyRoster.1 = beforeTick.dom.rank := by decide

/-- A slot of 2 rows and 1 column of tile 0. -/
def slot0 : SlotRun :=
  { seqr := 0, entry := { plan := 0, kind := .cores, addr := 0, top := 0, left := 0, height := 2, width := 1, units := [], start := 0, deadline := 100 },
    deadline := 100, started := false, done := false, late := false, issued := 0, completed := 0, jobs := 0 }
def oneSlot (r : SlotRun) : State :=
  let s := coreAt (instr 0x0F 0) Core.reset
  { s with cores := [], frm := { s.frm with slots := [r] } }

theorem witness_SlotStartSetsCoreState : (oneSlot slot0).slot? 0 = some slot0 ∧ (oneSlot slot0).startable 0 slot0 = true ∧
    slot0.entry.kind = .cores ∧ slot0.entry.cores = [0, 72] := by decide

def started : SlotRun := { slot0 with started := true }
/-- Both cores of the slot have ended. -/
def ended : State := { oneSlot started with cores := [(0, { Core.reset with active := true, ended := true }), (72, { Core.reset with active := true, ended := true })] }

theorem witness_SlotLifecycle : (oneSlot slot0).startable 0 slot0 = true ∧ (oneSlot started).startable 0 started = false ∧
    (oneSlot started).slot? 0 = some started ∧ ended.runs = true ∧ ended.frm.phase = .work ∧ (ended.plan 0).executes = true ∧
    ended.slot? 0 = some started ∧ ended.slotEnded started = true ∧ (oneSlot started).measures = true ∧ started.late = false := by decide

/-- A port slot whose program has nothing to do but waits for `n` of counter 7 of tile 0. -/
def waiting7 (n : Nat) : State :=
  let s := running { plan0 with facts := { plan0.facts with engines := [⟨0, [], [], [(0, 7, n)]⟩] } } up
  { s with frm := { s.frm with slots := [{ started with entry := { slot0.entry with kind := .port } }] } }
def portSlot : SlotRun := { started with entry := { slot0.entry with kind := .port } }

theorem witness_SlotLifecycle_port : [0, 1].all (fun n => (waiting7 n).runs && (waiting7 n).slot? 0 == some portSlot && (waiting7 n).slotEnded portSlot) = true ∧
    ((waiting7 0).workSlot 0 portSlot).2 = true ∧ ((waiting7 1).workSlot 0 portSlot).2 = false := by decide

def lateIn : LateIn := { port := 0, rank := 1, plan := 0, frame := 0, d := 100, grantsSeen := 0 }
/-- Plan 0 grants 50 µs, `n` more times in this step. -/
def granting (n : Nat) : State :=
  { oneSlot started with plans := [(0, { PlanSt.reset with pstate := .running, image := some { plan0 with head0 := 50 * 2 ^ 16 + 2 ^ 14 }, grace := n })] }
def finishing (r : Nat) : State := { oneSlot started with frm := { (oneSlot started).frm with state := .finish, leader := r } }

theorem witness_LateSlotsGraceAndFinish : (granting 1).runs = true ∧ (granting 1).frm.leader = (granting 1).dom.rank ∧
    (granting 1).frm.frame = lateIn.frame ∧ ((granting 1).plan 0).overruns = true ∧ (granting 1).measures = true ∧
    (granting 1).frm.superseded 100 0 = false ∧ ((granting 1).img? 0).isSome = true ∧ 0 < ((granting 1).plan 0).grace ∧
    ((granting 0).plan 0).grace = 0 ∧ ({ up with frm := { up.frm with leader := 1 } } : State).measures = true ∧
    (finishing 1).runs = true ∧ (finishing 1).frm.state = .finish ∧ (finishing 1).frm.leader ≠ (finishing 1).dom.rank ∧
    (finishing 0).frm.lullAnnounced = false ∧ ({ finishing 0 with frm := { (finishing 0).frm with slots := [] } } : State).allDone = true ∧
    (up.dom.present &&& ~~~((up.frm.completed ||| 0) ||| BitVec.ofNat 64 (2 ^ up.dom.rank))) = 0 ∧
    (finishing 1).slot? 0 = some started ∧ (finishing 1).frm.phase = .work ∧ started.done = false := by decide

/-- A plan with one reduction record, whose commit frame is the present one, and a checkpoint record of two frames. -/
def training : Plan := { plan0 with
  steps := [{ stepLen := 4, uframes := [0], frames := [] }]
  variants := [{ head := 0, ranks := 1, links := [], routes := [], trees := [], twins := [] }]
  reds := [[0, 0, 0, 0, 0, 0]] }
def ck : Rec := [0, 0, 0, 0]
def ckPlan : Plan := { plan0 with ckpt := some ck }
def withCk (c : Ckpt) (p : PState) : State :=
  { up with plans := [(0, { PlanSt.reset with pstate := p, image := some ckPlan, ckpt := c })], frm := { up.frm with phase := .vote, frame := 4 } }

theorem witness_LateTrainingActs : (inPhase .guard (running training up)).runs = true ∧
    ((inPhase .guard (running training up)).plan 0).pstate = .running ∧ (inPhase .guard (running training up)).commitMissing 0 = true ∧
    (inPhase .guard (running training up)).frm.commitLate.contains 0 = false := by decide

theorem witness_LateTrainingActs_checkpoint : 
    let s := withCk { Ckpt.reset with run := some (0, BitVec.ofNat 48 (5 - ckFrames ck)) } .running
    let z := withCk { Ckpt.reset with restore := some (ckRframes ck) } .restoring
    s.runs = true ∧ s.frm.leader = s.dom.rank ∧ s.voted = true ∧ s.img? 0 = some ckPlan ∧ ckPlan.ckpt = some ck ∧ (s.plan 0).ckpt.late = false ∧
    (s.plan 0).inPlans = true ∧ ((s.plan 0).ckpt.gens.getD 0 Gen.reset).complete = false ∧
    s.frm.frame.toNat + 1 = (BitVec.ofNat 48 (5 - ckFrames ck)).toNat + ckFrames ck ∧ z.voted = true ∧ z.img? 0 = some ckPlan ∧
    (z.plan 0).ckpt.restore = some (ckRframes ck) ∧ (z.plan 0).pstate = .restoring := by decide

/-! ### Witnesses: core instructions -/

/-- The word of opcode `op` with the given values at the given low bits (03 Tables 3.5 to 3.13). -/
def ins (op : Nat) (fs : List (Nat × Nat)) : W128 := BitVec.ofNat 128 (fs.foldl (fun x f => x + f.2 * 2 ^ f.1) (op * 2 ^ 120))

def one (w : W128) : State := coreAt w Core.reset

theorem witness_IllegalWordsStopThePlan : (one 0).nextWord (coreKey id0) = some 0 ∧ opc (0 : W128) = 0 ∧
    (one (ins 0x0E [])).nextWord 0 = some (ins 0x0E []) ∧ opc (ins 0x0E []) = 0x0E ∧
    (one (ins 0x10 [])).nextWord 0 = some (ins 0x10 []) ∧ 0x0F < opc (ins 0x10 []) ∧
    (one (ins 0x0D [(0, 1)])).nextWord 0 = some (ins 0x0D [(0, 1)]) ∧ illegal (ins 0x0D [(0, 1)]) 1 = true ∧
    opc (ins 0x0A [(116, 1)]) = 0x0A ∧ illegal (ins 0x0A [(116, 1)]) 1 = false ∧
    -- PRED 1 runs on the chain's bottom core only; core 0 is the top of a chain of two
    illegal (ins 0x07 [(118, 1)]) 2 = false ∧
    ({ Core.reset with chain := 2, height := 2 } : Core).excluded 0 (ins 0x07 [(118, 1)]) = true := by decide

theorem witness_SequencerWords_addr :
    [ins 0x0C [(111, 3), (79, 0xFFFFFFFF)], ins 0x0C [(111, 0), (79, 5)], ins 0x0C [(111, 15), (115, 1), (79, 4)],
     ins 0x0C [(111, 3), (115, 2), (79, 65537)], ins 0x0C [(111, 3), (115, 3), (79, 2)], ins 0x0C [(111, 3), (115, 4), (79, 255)]].all
      (fun w => (one w).nextWord 0 == some w && !illegal w 1 && !((one w).core 0).excluded 0 w && opc w == 0x0C) = true ∧
    ((one (ins 0x0C [])).core 0).chain = 1 := by decide

/-- Four loops are open, the innermost ending at word `last`. -/
def looped (n last : Nat) : Core := { Core.reset with loops := List.replicate n ⟨0, last, 2⟩ }

theorem witness_SequencerWords :
    Issues (coreAt (ins 0x0B [(102, 3), (94, 2)]) (looped 3 2)) (coreKey id0) (ins 0x0B [(102, 3), (94, 2)]) ∧
    Issues (coreAt (ins 0x0B [(102, 3), (94, 2)]) (looped 4 2)) (coreKey id0) (ins 0x0B [(102, 3), (94, 2)]) ∧
    Issues (coreAt (ins 0x0B [(102, 3), (94, 2)]) (looped 1 1)) (coreKey id0) (ins 0x0B [(102, 3), (94, 2)]) ∧
    Issues (one (ins 0x0B [(102, 0), (94, 2)])) (coreKey id0) (ins 0x0B [(102, 0), (94, 2)]) ∧
    Issues (one (ins 0x0D [(115, 7)])) (coreKey id0) (ins 0x0D [(115, 7)]) ∧ Issues (one (ins 0x0F [])) (coreKey id0) (ins 0x0F []) :=
  ⟨⟨by decide, by decide, by decide⟩, ⟨by decide, by decide, by decide⟩, ⟨by decide, by decide, by decide⟩,
   ⟨by decide, by decide, by decide⟩, ⟨by decide, by decide, by decide⟩, ⟨by decide, by decide, by decide⟩⟩

/-- Token counter `n` of tile 0 holds `v`. -/
def withTok (n v : Nat) (s : State) : State := { s with tiles := [(0, { s.tile 0 with tok := [(n, BitVec.ofNat 24 v)] })] }
def wait5 : W128 := ins 0x07 [(106, 7), (82, 5)]
def sig (tile fence inc : Nat) : W128 := ins 0x08 [(114, tile), (106, 0), (102, 7), (86, inc), (85, fence)]
def held5 : State := coreAt 0 { Core.reset with held := some (7, 5) }
def fenced1 : State := coreAt 0 { Core.reset with fenced := [⟨3, 0, 7, 1⟩] }
/-- Plan 0 owns tile 0 only. -/
def smallPlan (w : W128) : State := { one w with plans := [(0, { PlanSt.reset with pstate := .running, image := some { plan0 with head1 := 1, programs := [w] } })] }

theorem witness_TokensHoldAndRelease : Issues (withTok 7 5 (one wait5)) (coreKey id0) wait5 ∧ Issues (withTok 7 4 (one wait5)) (coreKey id0) wait5 ∧
    Issues (one (sig 0 0 1)) (coreKey id0) (sig 0 0 1) ∧ Issues (one (sig 0 1 1)) (coreKey id0) (sig 0 1 1) ∧
    Issues (smallPlan (sig 1 0 1)) (coreKey id0) (sig 1 0 1) ∧ Issues (withTok 7 0xFFFFFF (one (sig 0 0 1))) (coreKey id0) (sig 0 0 1) :=
  ⟨⟨by decide, by decide, by decide⟩, ⟨by decide, by decide, by decide⟩, ⟨by decide, by decide, by decide⟩,
   ⟨by decide, by decide, by decide⟩, ⟨by decide, by decide, by decide⟩, ⟨by decide, by decide, by decide⟩⟩

theorem witness_TokensHoldAndRelease_clauses : opc wait5 = 7 ∧ bfld wait5 82 24 = 5 ∧ bfld wait5 106 12 = 7 ∧
    (held5.core 0).held = some (7, 5) ∧ held5.runs = true ∧ (held5.core 0).active = true ∧
    opc (sig 0 0 1) = 8 ∧ ((one (sig 0 0 1)).img? 0).isSome = true ∧ bfld (sig 0 1 1) 85 1 = 1 ∧ bfld (sig 0 0 1) 85 1 = 0 ∧
    bfld (sig 1 0 1) 114 4 = 1 ∧ ({ plan0 with head1 := 1 } : Plan).hasTile 1 = false ∧ plan0.hasTile 0 = true ∧
    (fenced1.core 0).fenced = [⟨3, 0, 7, 1⟩] ∧ (fenced1.core 0).twin = [] ∧ fenced1.runs = true := by decide

def accOf (n : Nat) : Core := { Core.reset with acc := (List.range n).map fun i => (i, some (AccTile.fresh false)) }
def alloc (h : Nat) : W128 := ins 0x0A [(112, h), (111, 1)]
def free (h : Nat) : W128 := ins 0x0A [(116, 1), (112, h)]
def zero (h : Nat) : W128 := ins 0x0A [(116, 2), (112, h)]

theorem witness_AccumulatorHandles : [(alloc 7, 7), (alloc 15, 8), (alloc 7, 8), (free 7, 8), (free 8, 8), (zero 7, 8), (zero 8, 8)].all
    (fun e => let s := coreAt e.1 (accOf e.2)
      s.nextWord 0 == some e.1 && !illegal e.1 (s.core 0).chain && !(s.core 0).excluded 0 e.1 && opc e.1 == 0x0A) = true ∧
    (accOf 7).handle 7 = none ∧ (accOf 7).bound = 7 ∧ (accOf 8).handle 15 = none ∧ (accOf 8).bound = 8 ∧
    (accOf 8).handle 7 = some (AccTile.fresh false) ∧ [bfld (alloc 7) 116 2, bfld (free 7) 116 2, bfld (zero 7) 116 2] = [0, 1, 2] := by decide

/-- VLD of G32 (format 0xD) at pocket address `a`; VLD of half a row of handle `h`. -/
def vld (a : Nat) : W128 := ins 0x04 [(112, 2), (108, 13), (92, a)]
def vldAcc (h : Nat) : W128 := ins 0x04 [(117, 1), (112, 2), (108, h), (103, 31), (102, 1)]
def vst (a n : Nat) : W128 := ins 0x05 [(112, 2), (108, 6), (97, n), (81, a)]
def vstAcc (h : Nat) : W128 := ins 0x05 [(117, 1), (112, 2), (108, h), (103, 31), (102, 1)]

theorem witness_VectorLoadsAndStores : [(vld 65408, 4), (vld 65472, 4), (vldAcc 0, 4), (vldAcc 1, 4), (vst 65520 16, 4), (vst 65528 16, 4), (vst 0 0, 4),
      (vstAcc 0, 1), (vstAcc 1, 1)].all
    (fun e => let s := coreAt e.1 (accOf 1)
      s.nextWord 0 == some e.1 && !illegal e.1 (s.core 0).chain && !(s.core 0).excluded 0 e.1) = true ∧
    2 * pocketBits (bfld (vld 0) 108 4) = 64 ∧ 65472 + 64 ≤ 65536 ∧ 65472 % 64 = 0 ∧ pocketBits (bfld (vst 0 16) 108 4) = 8 ∧
    (accOf 1).handle 0 = some (AccTile.fresh false) ∧ (accOf 1).handle 1 = none ∧ opc (vld 0) = 4 ∧ opc (vst 0 16) = 5 := by decide

/-- VOP: FADD-like function `fn`, a compare, and a horizontal sum, under mask k1 into v2 and k2. -/
def vop (fn : Nat) : W128 := ins 0x06 [(112, fn), (107, 2), (102, 3), (97, 4), (92, 5), (89, 1), (86, 2)]

theorem witness_VectorOperations : [0x00, 0x09, 0x10, 0x13, 0x20, 0x28, 0x29, 0x30].all (fun fn => let s := one (vop fn)
      s.nextWord 0 == some (vop fn) && !illegal (vop fn) 1 && !(s.core 0).excluded 0 (vop fn) && bfld (vop fn) 112 6 == fn) = true ∧
    opc (vop 0) = 6 ∧ bfld (vop 0x10) 86 3 ≠ 0 := by decide

/-- INT8 step of one output row and column over `kl` elements into handle `h`, with flag `add`. -/
def mst (add mr kl h a : Nat) : W128 :=
  ins 0x01 [(117, add), (116, 1), (109, 6), (105, 6), (97, mr), (91, 1), (77, kl), (73, h), (41, a), (9, 32)]
def intAcc (n : Nat) : Core := { Core.reset with acc := (List.range n).map fun i => (i, some (AccTile.fresh true)), height := 1 }
/-- Two cores of one chain; the upper one has reached the step. -/
def chained (w : W128) (there : Bool) : State :=
  let c : Core := { intAcc 1 with chain := 2, height := 2 }
  let s := coreAt w c
  { s with cores := [(0, { c with active := true }), (72, { c with active := true, atStep := there })] }

theorem witness_MatrixStep : [(mst 0 0 1 0 0, 1), (mst 0 1 1 0 0, 1), (mst 1 1 0 0 0, 1), (mst 0 1 1 1 0, 1), (mst 1 1 1 1 0, 1), (mst 0 1 1 9 0, 8),
      (mst 0 1 1 0 65504, 1), (mst 0 1 1 0 8, 1)].all
    (fun e => let s := coreAt e.1 (intAcc e.2)
      s.nextWord 0 == some e.1 && !illegal e.1 1 && !(s.core 0).excluded 0 e.1 && opc e.1 == 1 && chainKeys s 0 == [0] && (s.core 0).chain == 1) = true ∧
    stepEmpty (mst 0 0 1 0 0) = true ∧ stepEmpty (mst 0 1 1 0 0) = false ∧
    pocketOk (stepSrc (mst 0 1 1 0 0) (intAcc 1)).a (panelA (mst 0 1 1 0 0)) 32 = true ∧
    pocketOk (stepSrc (mst 0 1 1 0 0) (intAcc 1)).b (panelB (mst 0 1 1 0 0)) 32 = true ∧
    pocketOk (stepSrc (mst 0 1 1 0 8) (intAcc 1)).a (panelA (mst 0 1 1 0 8)) 32 = false ∧
    ((coreAt (mst 0 1 1 0 0) (intAcc 1)).core 0).handle 0 = some (AccTile.fresh true) ∧
    ((coreAt (mst 0 1 1 1 0) (intAcc 1)).core 0).handle 1 = none ∧ ((coreAt (mst 0 1 1 9 0) (intAcc 8)).core 0).bound = 8 ∧
    ((coreAt (mst 0 1 1 0 0) (accOf 1)).core 0).handle 0 = some (AccTile.fresh false) ∧
    chainKeys (chained (mst 0 1 1 0 0) true) 0 = [0, 72] ∧ ((chained (mst 0 1 1 0 0) true).core 72).atStep = true ∧
    ((chained (mst 0 1 1 0 0) false).core 72).atStep = false := by decide

/-- SPILL of 2 rows and 3 columns of handle `h` at `off` times 256 bytes. -/
def spl (mode h off : Nat) : W128 := ins 0x09 [(116, mode), (112, h), (106, 2), (100, 3), (81, off)]
def busy : Core := { accOf 1 with twin := [⟨0xF00000000000, [1], false, false⟩] }

theorem witness_SpillMovesToAndFromWideBuffers : [spl 0 0 0, spl 1 0 0x7FFE0, spl 2 0 0, spl 0 0 0x7FFE1, spl 0 1 0].all
    (fun w => let s := coreAt w (accOf 1)
      s.nextWord 0 == some w && !illegal w 1 && !(s.core 0).excluded 0 w && opc w == 9 && (s.core 0).chain == 1) = true ∧
    (accOf 1).handle 0 = some (AccTile.fresh false) ∧ (accOf 1).handle 1 = none ∧ (intAcc 1).handle 0 = some (AccTile.fresh true) ∧
    bfld (spl 1 0 0x7FFE0) 81 19 * 256 + 8192 = 0x8000000 ∧ (coreAt (spl 0 0 0) (accOf 1)).twinRole 0 = .none ∧
    busy.twin ≠ [] ∧ (coreAt (spl 0 0 0) busy).nextWord 0 = some (spl 0 0 0) := by decide

/-- Plan 0 with one variant, in which core 0 is the primary of core 1. -/
def twinned (w : W128) (c : Core) : State :=
  { coreAt w c with plans := [(0, { PlanSt.reset with
      pstate := .running
      redundant := true
      image := some { plan0 with programs := [w], variants := [{ head := 0, ranks := 1, links := [], routes := [], trees := [], twins := [⟨0, 1⟩] }] } })] }

theorem witness_SpillMovesToAndFromWideBuffers_twin : (twinned (spl 0 0 0) (accOf 1)).twinRole 0 = .primary ∧
    (twinned (spl 0 0 0) (accOf 1)).nextWord 0 = some (spl 0 0 0) := by decide

/-- A direct transfer of `rows` rows of `len` bytes, at `ofs` of tile `t`, pocket address `pa`. -/
def xfer (op t ofs rows len pa : Nat) : W128 := ins op [(110, t), (83, ofs), (70, rows), (58, len), (46, 2), (30, pa)]

theorem witness_DirectTransfersMoveRows : [xfer 2 0 0 0 5 0, xfer 2 0 0 2 40 65408, xfer 3 0 0 2 40 65408, xfer 2 0 0 2 40 65440, xfer 2 0 0 2 40 8,
      xfer 3 0 0x7FFFFFF 1 40 0, xfer 3 1 0 1 40 0].all
    (fun w => let s := smallPlan w
      s.nextWord 0 == some w && !illegal w 1 && !(s.core 0).excluded 0 w && (s.core 0).chain == 1 && bfld w 117 1 == 0) = true ∧
    65408 + 2 * 64 = 65536 ∧ 65408 % 32 = 0 ∧ 0x8000000 < (xferRow (xfer 3 0 0x7FFFFFF 1 40 0) Core.reset 0).1 + 40 ∧
    ({ plan0 with head1 := 1 } : Plan).hasTile 0 = true ∧ ({ plan0 with head1 := 1 } : Plan).hasTile 1 = false ∧
    (smallPlan (xfer 3 1 0 1 40 0)).twinRole 0 = .none ∧ (twinned (xfer 3 0 0 1 40 0) Core.reset).twinRole 0 ≠ .none := by decide

/-- A descriptor from (word, low bit, value) triples: INT8, one axis of `n`, blocks of 32, at the start of tile store 0. -/
def desc (n : Nat) : Desc := BitVec.ofNat 1024 (([(0, 0, 0xF00000000000), (2, 51, 6), (2, 44, 1), (2, 40, 1), (3, 0, n), (15, 0, 32), (15, 16, 1),
  (15, 32, 1)] : List (Nat × Nat × Nat)).foldl (fun x f => x + f.2.2 * 2 ^ (64 * f.1 + f.2.1)) 0)
def dxfer (op d pa : Nat) : W128 := ins op [(117, 1), (101, d), (73, pa)]
def descPlan (w : W128) : Plan := { plan0 with programs := [w], descs := [desc 0, desc 40] }
def descAt (w : W128) : State := { one w with plans := [(0, { PlanSt.reset with pstate := .running, image := some (descPlan w) })] }

/-- The same block at the start of site 0, which is held. -/
def siteDesc (n : Nat) : Desc := desc n &&& ~~~BitVec.ofNat 1024 0xFFFFFFFFFFFF
def heldAt (w : W128) : State := { descAt w with sites := [(0, { Site.reset with state := .retrainUnsched, tier := 1 })] }
/-- How core 0's read of the first block of `d`, or its write there, goes: 0 it is done, 1 it waits, the code of its fault. -/
def reads (s : State) (d : Desc) : Nat := match s.readBlock 1 0 (descPlan 0) d (d.block 0 0 0) [] with
  | .ok _ _ => 0
  | .wait _ => 1
  | .fault c _ => c
def writes (s : State) (d : Desc) : Nat :=
  match s.writable 1 0 (d.blockOut (descPlan 0) ((d.block 0 0 0).filterMap fun e => e.map fun i => (i, 0, false)) []) with
  | .ok _ => 0
  | .wait _ => 1
  | .fault c _ => c

theorem witness_DescriptorTransfersMoveBlocks : [dxfer 2 0 0, dxfer 2 1 0, dxfer 2 1 65504, dxfer 2 1 8, dxfer 3 0 0, dxfer 3 1 0, dxfer 3 1 8].all
    (fun w => let s := descAt w
      s.nextWord 0 == some w && !illegal w 1 && !(s.core 0).excluded 0 w && (s.core 0).chain == 1 && bfld w 117 1 == 1 &&
      s.img? 0 == some (descPlan w)) = true ∧
    (desc 0).empty = true ∧ (desc 40).empty = false ∧ ((desc 40).block 0 0 0).length = 32 ∧
    (blockShape (descPlan 0) 1 (desc 40) 0 0 0 true).bytes (desc 40).pw = 32 ∧
    (reads (descAt (dxfer 2 1 0)) (desc 40), reads (descAt 0) (desc 40 ||| BitVec.ofNat 1024 0x8000000), reads (heldAt 0) (siteDesc 40)) = (0, 0x0201, 1) ∧
    (writes (descAt (dxfer 3 1 0)) (desc 40), writes (descAt 0) (desc 40 ||| BitVec.ofNat 1024 0x8000000), writes (heldAt 0) (siteDesc 40)) = (0, 0x0201, 1) ∧
    faultClass 0x0201 = 1 ∧ (descAt 0).stalled (coreUnit 0) = false ∧ (descAt 0).twinRole 0 = .none := by decide +kernel

/-! ### Witnesses: movers -/

/-- A command that moves the block at the origin of descriptor `a` to that of `b`, and returns counter 7 of tile 0. -/
def mcmd (a b : Nat) : BitVec 256 := BitVec.ofNat 256 (a * 2 ^ 48 + b * 2 ^ 32 + 7 * 2 ^ 16)
def moverSlot (issued completed : Nat) : SlotRun :=
  { slot0 with entry := { slot0.entry with kind := .mover, height := 0, width := 0, units := [0] }, started := true, issued := issued, completed := completed }
def moving (w : BitVec 256) (i c tok : Nat) : State :=
  let im : Plan := { descPlan 0 with
    descs := [desc 0, desc 40, desc 40 ||| BitVec.ofNat 1024 (1 * 2 ^ 20), desc 40 ||| BitVec.ofNat 1024 0x8000000, siteDesc 40]
    moverLists := [[w]] }
  let s := withTok 7 tok { descAt 0 with
    plans := [(0, { PlanSt.reset with pstate := .running, image := some im })]
    sites := [(0, { Site.reset with state := .retrainUnsched, tier := 1 })] }
  { s with frm := { s.frm with slots := [moverSlot i c] } }

def moves (s : State) (w : BitVec 256) : Nat := match s.moverSlot 0 with
  | some (r, q) => (match s.move 0 r.entry.plan q w with
    | .ok _ => 0
    | .wait _ => 1
    | .fault c _ => c)
  | none => 9
/-- A partial write of the mover waits on a full buffer. -/
def moverStalled : State := { moving (mcmd 1 2) 0 0 0 with sites := [(0, { Site.reset with state := .ready, tier := 1, queue := [.part 5 0 1 0 (some 0) (some 0)] })] }

theorem witness_MoversMoveBlocksAndReturnTokens :
    [((moving (mcmd 0 1) 0 0 0).moverSlot 0).map (·.1), ((moving (mcmd 1 2) 0 0 0).moverSlot 0).map (·.1)] =
      [some (moverSlot 0 0), some (moverSlot 0 0)] ∧
    ((moving (mcmd 1 2) 1 0 0xFFFFFE).moverSlot 0).map (·.1) = some (moverSlot 1 0) ∧
    (((moving (mcmd 1 2) 0 0 0).moverSlot 0).map fun x => (x.2.moverList 0)[0]?) = some (some (mcmd 1 2)) ∧
    [moves (moving (mcmd 1 2) 0 0 0) (mcmd 1 2), moves (moving (mcmd 1 3) 0 0 0) (mcmd 1 3), moves (moving (mcmd 4 1) 0 0 0) (mcmd 4 1)] =
      [0, 0x0201, 1] ∧
    (moving (mcmd 1 2) 0 0 0).stalled (moverUnit 0) = false ∧ (moverStalled.stalled (moverUnit 0)) = true ∧ (moverStalled.moverSlot 0).isSome = true := by
  decide +kernel

/-! ### Witnesses: memory sites -/

/-- Site 0 is near, in state `z`. -/
def siteIs (z : SiteState) (f : Site → Site) : State := { running plan0 up with sites := [(0, f { Site.reset with state := z, tier := 1, rate := 32 })] }
def ready : State := siteIs .ready id
/-- A transfer in which one bit of the line arrives wrong, and one that fails its EDC three times. -/
def oneBit : Xfer := { clean with err := 1 }
def edc3 : Xfer := { clean with edcFails := 3 }
/-- Every line of site 0 lies in a sink of plan 0. -/
def sunk : State :=
  { ready with plans := [(0, { PlanSt.reset with pstate := .running, image := some { plan0 with sinks := [[0, BitVec.ofNat 64 0x1000]] } })] }

theorem witness_ResidueOfLine : bfld ((Line.zero.tag ^^^ ({ clean with terr := 0x3FFFFFFF } : Xfer).terr)) 0 30 = 0x3FFFFFFF := by decide

/-- Plan 0 has stopped. -/
def sunkStopped : State :=
  { ready with plans := [(0, { PlanSt.reset with pstate := .running, stopped := true, image := some { plan0 with sinks := [[0, BitVec.ofNat 64 0x1000]] } })] }

theorem witness_SitesServeReadsAndLineWrites : ready.live = true ∧ siteLines (ready.site 0).tier = 503316480 ∧ (ready.site 0).state = .ready ∧
    (ready.site 0).queue = [] ∧ (ready.site 0).entry? 0 = none ∧ (clean.join ((ready.site 0).upset 0)).edcFails = 0 ∧
    (edc3.join ((ready.site 0).upset 0)).edcFails = 3 ∧ (siteIs .retrainUnsched id).live = true ∧
    ((siteIs .retrainUnsched id).site 0).holds = true ∧ ((siteIs .retrainUnsched id).site 0).waitFrom = none ∧
    ((siteIs .failed id).site 0).state = .failed ∧ ((siteIs .failed id).site 0).queue = [] ∧ ready.sinkBarred 0 0 = false ∧
    (sunk.site 0).state = .ready ∧ sunk.sinkOwner 0 15 = some 0 ∧ sunk.sinkOwner 0 16 = none ∧ sunk.sinkBarred 0 15 = false ∧
    sunkStopped.sinkBarred 0 15 = true ∧ (1 : BitVec 8) ≠ 0 := by decide +kernel

def entryAt (n : Nat) (v : BitVec 256) : WcbEntry := { line := n, data := 0, valid := v, marks := 0 }
def gathered (v : BitVec 256) : State := siteIs .ready fun z => { z with wcb := [entryAt 5 v] }

theorem witness_WriteCombining : (ready.site 0).state = .ready ∧ (ready.site 0).queue = [] ∧ (ready.site 0).waitFrom = none ∧
    ready.sinkBarred 0 5 = false ∧ 5 < siteLines (ready.site 0).tier ∧ (ready.site 0).entry? 5 = none ∧
    (1 : BitVec 256) ≠ BitVec.allOnes 256 ∧ (ready.site 0).wcb.length < 8192 ∧ ((ready.site 0).upset 5).edcFails = 0 ∧
    ((gathered 1).site 0).entry? 5 = some (entryAt 5 1) ∧ (1 : BitVec 256) ||| 2 ≠ BitVec.allOnes 256 ∧
    (1 : BitVec 256) ||| (BitVec.allOnes 256 - 1) = BitVec.allOnes 256 ∧ ((gathered 1).site 0).waitFrom = none ∧
    ((gathered 1).site 0).wcb.length < 7168 ∧ ((siteIs .failed id).site 0).state ≠ .ready := by decide +kernel

/-- Entries of lines 0 to `n - 1`, oldest first, with `q` waiting since 0 ns. -/
def crowded (n : Nat) (q : List SiteReq) (w : Option Nat) : State :=
  siteIs .ready fun z => { z with wcb := (List.range n).map fun k => entryAt k 1, queue := q, waitFrom := w }

theorem crowded_length (n : Nat) (q : List SiteReq) (w : Option Nat) : ((crowded n q w).site 0).wcb.length = n := by
  show ((List.range n).map fun k => entryAt k 1).length = n
  simp

theorem witness_WriteCombining_crowded (q : List SiteReq) (w : Option Nat) : ((crowded 7168 q w).site 0).wcb.length = 7168 ∧
    ((crowded 8192 q w).site 0).wcb.length = 8192 ∧ ((crowded 8192 q w).site 0).queue = q ∧ ((crowded 8192 q w).site 0).waitFrom = w ∧
    (crowded 8192 q w).sinkBarred 0 0 = false ∧ ((crowded 8192 q w).site 0).edcTimes = [] ∧
    (clean.join (((crowded 8192 q w).site 0).upset 0)).edcFails = 0 ∧ (edc3.join (((crowded 8192 q w).site 0).upset 0)).edcFails = 3 :=
  ⟨crowded_length .., crowded_length .., rfl, rfl, rfl, rfl, rfl, rfl⟩

theorem witness_WriteCombining_head (n : Nat) (q : List SiteReq) (w : Option Nat) :
    ((crowded (n + 1) q w).site 0).wcb.head? = some (entryAt 0 1) := by
  show ((List.range (n + 1)).map fun k => entryAt k 1).head? = _
  rw [List.range_succ_eq_map]; rfl

theorem witness_WriteCombining_none (n : Nat) (q : List SiteReq) (w : Option Nat) : ((crowded n q w).site 0).entry? n = none := by
  show ((List.range n).map fun k => entryAt k 1).find? (fun e => e.line == n) = none
  simp [entryAt]
  omega

theorem witness_SiteHoldsEnd : [SiteState.ready, .retrainSched, .retrainUnsched, .failed].all (fun z => ((siteIs z id).site 0).state == z) = true ∧
    (siteIs .retrainSched id).live = true ∧ ((siteIs .retrainSched id).site 0).queue = [] ∧ ((siteIs .retrainSched id).site 0).waitFrom = none ∧
    ((siteIs .retrainUnsched fun z => { z with queue := [.read 7] }).site 0).queue = [.read 7] ∧
    (((siteIs .retrainUnsched id).site 0).upset 7).edcFails = 0 ∧ ((siteIs .retrainUnsched id).site 0).entry? 7 = none ∧
    7 < siteLines ((siteIs .retrainUnsched id).site 0).tier ∧ ((siteIs .retrainUnsched id).siteClaim 0) = some 0 ∧
    ({ siteIs .retrainUnsched id with plans := [] } : State).siteClaim 0 = none := by decide

theorem witness_SiteHoldsEnd_gust : ∀ p, ((siteIs .retrainSched id).port p).gust = [] := fun _ => rfl

/-! ### Witnesses: data frames -/

/-- A frame of plan 0 for this rank at device address `256 n`. -/
def frameAt (op n : Nat) (poison : BitVec 8) : DataFrame := { cls := 0, dest := 0, op := op, poison := poison, line := BitVec.ofNat 40 n, body := 3 }
def onPort : State := portUp ready

theorem reaches (p : Option (Fin 6)) (f : DataFrame) (s : State) (h : s.sends = true ∧ f.cls < 4 ∧ f.dest = s.dom.rank)
    (ho : (s.plan f.cls).executes = true ∧ (s.port 6).gust = []) (hp : p = none ∨ (p = some 0 ∧ (s.port 0).up = true ∧
      (s.port 0).stale = 0 ∧ (s.port 0).foreign = false ∧
      (s.port 0).gust = [] ∧ s.takesClass f.cls = true)) : ReachesHere p f s :=
  { sends := h.1, cls := h.2.1, here := h.2.2, own := fun _ => ho
    port := fun q hq => by
      cases hp with
      | inl h => rw [h] at hq; cases hq
      | inr h => rw [h.1] at hq; cases hq; exact h.2 }

theorem witness_WriteFramesLandAtTheirLine : ReachesHere (some 0) (frameAt 0 0 0) onPort ∧ ReachesHere none (frameAt 0 0xF000000000 1) ready :=
  ⟨reaches _ _ _ (by decide) (by decide) (by decide), reaches _ _ _ (by decide) (by decide) (by decide)⟩

theorem witness_WriteFramesLandAtTheirLine_clauses : onPort.accessFault 0 (256 * 0xF000000000) = none ∧
    onPort.place (256 * 0xF000000000) = .store 0 0 ∧ onPort.accessFault 0 0 = none ∧ onPort.place 0 = .site 0 0 ∧
    (onPort.site 0).state = .ready ∧ (onPort.site 0).queue = [] ∧ ((onPort.site 0).upset 0).edcFails = 0 ∧ onPort.sinkBarred 0 0 = false ∧
    onPort.sinkOwner 0 0 = none ∧
    onPort.accessFault 0 (256 * 0xF000080000) = some 0x0201 ∧ onPort.accessFault 0 (256 * 0x40000000) = some 0x0301 ∧
    (frameAt 0 0 0).op = 0 := by decide

theorem witness_AddersPredictTheResidue : (List.replicate 64 (0 : Int)).length = 64 := List.length_replicate ..

/-- Plan 0 has one reduction record, its accumulation area at the start of site 0. -/
def redRec : Rec := [BitVec.ofNat 64 (2 ^ 48), 0, BitVec.ofNat 64 0x100000, BitVec.ofNat 64 0x200000, BitVec.ofNat 64 0x300000, BitVec.ofNat 64 0x400000]
def reducing (s : State) : State :=
  { s with plans := [(0, { PlanSt.reset with pstate := .running, image := some { plan0 with reds := [redRec], layers := [[BitVec.ofNat 64 (2 ^ 48), BitVec.ofNat 64 (128 * 2 ^ 16)]] } })] }

theorem witness_AccumulatesAddIntoTheirArea : ReachesHere (some 0) (frameAt 2 0 0) (reducing onPort) ∧
    ReachesHere none (frameAt 1 0 0) (reducing ready) :=
  ⟨reaches _ _ _ (by decide) (by decide) (by decide), reaches _ _ _ (by decide) (by decide) (by decide)⟩

theorem witness_AccumulatesAddIntoTheirArea_clauses : (frameAt 2 0 0).poison = 0 ∧ (reducing onPort).accessFault 0 0 = none ∧
    (reducing onPort).place 0 = .site 0 0 ∧ ((reducing onPort).site 0).state = .ready ∧
    (((reducing onPort).img? 0).bind fun q => q.redArea (siteAddr 0 0)) = some (.sum redRec 0) ∧
    (((reducing onPort).img? 0).bind fun q => q.redArea (siteAddr 0 1)) = some (.sum redRec 0) ∧
    ((reducing onPort).site 0).queue = [] ∧ ((reducing onPort).plan 0).stopped = false ∧ ((reducing onPort).site 0).upset 0 = Xfer.clean ∧
    ((reducing onPort).site 0).upset 1 = Xfer.clean ∧ ((reducing onPort).site 0).entry? 0 = none ∧ ((reducing onPort).site 0).entry? 1 = none ∧ AddIn.clean.xfer = Xfer.clean ∧
    AddIn.clean.first = [] ∧ ((reducing onPort).place (redDigest redRec + 0x400)) = .site 0 0x400400 ∧ 0x400400 / 256 ≠ 0 := by decide +kernel

theorem witness_AccumulatesAddIntoTheirArea_line : (readLine (mkLine 0 1 0) Xfer.clean).poison = false := by decide +kernel

def tsigF (op tok inc : Nat) : DataFrame := { frameAt op 0 0 with line := BitVec.ofNat 40 (tok * 2 ^ 24 + inc) }
def waiting : State := { onPort with sites := [(0, { Site.reset with state := .retrainUnsched, tier := 1, queue := [.full 0 0 0 (some 0)] })] }
def relayF (start stop n : Nat) : DataFrame := { cls := 4, dest := 0, op := 4, poison := 0, line := BitVec.ofNat 40 (start * 2 ^ 39 + stop * 2 ^ 38 + n), body := 3 }

theorem witness_SignalAndRelayFrames : ReachesHere (some 0) (tsigF 3 7 1) onPort ∧ ReachesHere (some 0) (tsigF 3 7 1) (withTok 7 0xFFFFFF onPort) ∧
    ReachesHere (some 0) (tsigF 3 7 1) waiting :=
  ⟨reaches _ _ _ (by decide) (by decide) (by decide), reaches _ _ _ (by decide) (by decide) (by decide),
   reaches _ _ _ (by decide) (by decide) (by decide)⟩

/-- The last segment of a datagram for rank `r` has the form that the header says, or not. -/
def dgFor (r : Nat) (good : Bool) : List Byte := fromSender 1 9 ((dgBytes 0x20 0 r 0 0 [1]).set 7 (if good then 1 else 0))
def joining (r : Nat) (good : Bool) : State :=
  { hostOn up with ports := [(0, { Port.reset with state := .up, reasm := some (dgFor r good) })] }

theorem witness_SignalAndRelayFrames_clauses : (tsigF 3 7 1).op = 3 ∧ onPort.img? 0 = some plan0 ∧ plan0.hasTile (bfld (tsigF 3 7 1).line 36 4) = true ∧
    onPort.waitsAtSite 0 = false ∧ waiting.waitsAtSite 0 = true ∧ bfld (tsigF 3 7 0xFFFFFF).line 0 24 = 0xFFFFFF ∧
    onPort.sends = true ∧ (relayF 1 0 256).cls = 4 ∧ (relayF 1 0 256).dest = onPort.dom.rank ∧ (onPort.port 0).up = true ∧
    (onPort.port 0).stale = 0 ∧ (onPort.port 0).gust = [] ∧ onPort.host.inbox = [] ∧
    bfld (relayF 1 0 256).line 39 1 = 1 ∧ bfld (relayF 1 0 256).line 38 1 = 0 ∧ bfld (relayF 0 1 0).line 38 1 = 1 ∧
    bfld (relayF 0 1 0).line 39 1 = 0 := by decide +kernel

theorem witness_SignalAndRelayFrames_relay : [(0, true), (0, false), (1, true)].all (fun e =>
      (joining e.1 e.2).sends && ((joining e.1 e.2).port 0).up && ((joining e.1 e.2).port 0).reasm == some (dgFor e.1 e.2) &&
      (parseDatagram (dgFor e.1 e.2 ++ [])).rank == e.1 && (parseDatagram (dgFor e.1 e.2 ++ [])).formOk == e.2) = true ∧
    (joining 0 true).hostUp = true ∧ (joining 1 true).host.link = 2 ∧ onPort.host.link ≠ 2 ∧
    (lineBytes (relayF 0 1 0).body).take (bfld (relayF 0 1 0).line 0 16) = [] := by decide +kernel

/-- Rank 1 is reached through port 1. -/
def routed (held : Nat) : State :=
  { running { plan0 with variants := [{ head := 0, ranks := 3, links := [], routes := [[255, 1]], trees := [], twins := [] }] } (portUp up) with
    ports := [(0, { Port.reset with state := .up, accts := List.replicate 5 { Acct.reset with isOpen := true, share := 4, grant := 4, held := 4 } }),
      (1, { Port.reset with state := .up, accts := List.replicate 5 { Acct.reset with isOpen := true, share := 4, grant := 4, held := held } })] }
def away : DataFrame := { frameAt 0 0 0 with dest := 1 }

theorem witness_DataFramesAreDroppedOrForwarded : up.sends = true ∧ (portUp up).sends = true ∧ ((portUp up).port 0).up = true ∧
    ((portUp up).port 0).stale = 0 ∧ (portUp up).host.inbox = [] ∧ (routed 1).takesClass 0 = true ∧ ((routed 1).port 0).stale = 0 ∧
    (frameAt 5 0 0).op = 5 ∧ ({ frameAt 0 0 0 with cls := 4 } : DataFrame).cls = 4 ∧ (portUp up).takesClass 0 = false ∧
    ((portUp up).port 0).foreign = false ∧ away.dest ≠ (routed 1).dom.rank ∧
    (routed 1).routeOf 0 1 = some 1 ∧ ((routed 1).port 0).gust = [] ∧ ((routed 1).port 1).waiting 0 < (((routed 1).port 1).acct 0).held ∧
    (((routed 0).port 1).acct 0).held ≤ ((routed 0).port 1).waiting 0 ∧ (((routed 1).port 0).acct 0).isOpen = true ∧
    (routed 1).routeOf 4 1 = some 1 := by decide

/-- Frames 4 to 6 of port 0 are not acknowledged; a data frame and a relay datagram wait. -/
def linked (credit : Nat) : State := { up with ports := [(0, { Port.reset with
  state := .up
  txSeq := 7
  rxGood := 9
  replay := [(4, .probe), (5, .probe), (6, .probe)]
  outq := [relayF 1 1 3]
  accts := List.replicate 5 { Acct.reset with isOpen := true, share := 4, grant := 4, held := credit } })] }

/-- As `linked`, with every frame received acknowledged. -/
def quiet : State := { linked 1 with ports := [(0, { (linked 1).port 0 with ackOut := 9 })] }
def stalePort : State := { linked 1 with ports := [(0, { (linked 1).port 0 with stale := 2 })] }

theorem witness_LinkLayerSendsAndReplays : (linked 1).sends = true ∧ ((linked 1).port 0).up = true ∧ ((linked 1).port 0).stale = 0 ∧
    0 < (stalePort.port 0).stale ∧ (linked 1).host.inbox = [] ∧
    (((linked 1).port 0).replay.filter fun e => decide (5 ≤ e.1)).length = 2 ∧ [0, 0, 0, 0, 1].length = 5 ∧
    (((linked 1).port 0).acct 4).isOpen = true ∧ ((linked 1).port 0).nextClass = some 4 ∧ ((linked 1).port 0).owes = true ∧
    (quiet.port 0).owes = false ∧ (quiet.port 0).nextClass = some 4 ∧
    (((linked 1).port 0).outq.filter fun f => !(linked 1).barredFrame f) = [relayF 1 1 3] ∧
    ((linked 1).port 0).outq.find? (fun f => f.cls == 4) = some (relayF 1 1 3) ∧ ((portUp up).port 0).nextClass = none ∧
    ((linked 0).port 0).outq.any (fun f => f.cls == 4) = true ∧ (((linked 0).port 0).acct 4).held = 0 := by decide +kernel

theorem witness_LinkLayerSendsAndReplays_gust : ∀ q, ((linked 1).port q).gust = [] := by
  intro q
  show (Sparse.get Port.reset (linked 1).ports q).gust = []
  unfold linked Sparse.get
  split <;> rfl

/-! ### Witnesses: crosswind ports and the domain -/

def portIs (z : PortState) (f : Port → Port) : State := { up with ports := [(0, f { Port.reset with state := z })] }

theorem witness_PortsTrainIdentifyAndProbe : up.sends = true ∧ (portIs .training id).clocked 0 = true ∧ ((portIs .training id).port 0).state = .training ∧
    ((portIs .down id).port 0).state = .down ∧ (farEnd 0x3C 0 0).isSome = true ∧ ((portIs .training id).port 0).grade = .up ∧
    ((portIs .training fun x => { x with laneFail := 3 }).port 0).grade = .down ∧ (portIs .training id).dom.out = false ∧
    ((portIs .identify id).port 0).state = .identify ∧ ((portIs .excluded id).port 0).state = .excluded ∧ ((portIs .up id).port 0).up = true ∧
    ((portIs .identify id).port 0).linked = true ∧ ((portIs .identify id).port 0).stale = 0 ∧ ((portIs .identify id).port 0).setLen = 0 ∧
    ((portIs .identify fun x => { x with setLen := 64, probes := 62 }).port 0).probes + 1 < 64 ∧
    64 ≤ ((portIs .identify fun x => { x with setLen := 64, probes := 63 }).port 0).probes + 1 ∧
    ((portIs .up id).port 0).measured = false ∧
    (let x := (portIs .up fun x => { x with setLen := 4, probes := 3, measured := true, hopNs := 10, hopSum := 90 }).port 0
     x.measured = true ∧ x.setLen ≤ x.probes + 1 ∧ x.hopNs + 2 < (x.hopSum + 14) / (2 * x.setLen)) := by decide

theorem witness_PeersAreCheckedByIdentity : (portIs .identify id).sends = true ∧ (portIs .identify id).dom.out = false ∧
    ((portIs .identify id).port 0).linked = true ∧ ((portIs .identify id).port 0).stale = 0 ∧ ((portIs .identify id).port 0).up = false ∧
    (portIs .identify id).exclusion 0 ident = 0 ∧ (portIs .identify id).exclusion 0 { ident with shape := 0 } = 1 ∧
    (portIs .identify id).exclusion 0 { ident with rank := 2 } = 2 ∧ (portIs .identify id).exclusion 0 { ident with rank := 0 } = 3 ∧
    (portIs .up fun x => { x with hopNs := 111 }).exclusion 0 ident = 4 ∧ ((portIs .up id).port 0).up = true ∧
    (let s := portIs .excluded fun x => { x with reason := 1 }
     s.exclusion 0 { ident with shape := 0 } = 1 ∧ (s.port 0).state = .excluded ∧ (s.port 0).reason = 1 ∧ (s.port 0).linked = true) ∧
    ((portIs .identify id).port 0).grade = .up ∧ ((portIs .identify fun x => { x with laneFail := 3 }).port 0).grade = .down ∧
    ((portIs .identify fun x => { x with idAcked := true }).port 0).idAcked = true ∧ ((portIs .identify id).port 0).idAcked = false := by decide

theorem witness_LanesFailDieAndAreSpared : ((portIs .up id).port 0).up = true ∧ ((portIs .up id).port 0).laneFail.getLsbD 3 = false ∧
    ((portIs .up id).port 0).badLane = none ∧ ((portIs .up id).port 0).carries 3 = true ∧ ((portIs .up id).port 0).carries 8 = false ∧
    ({ (portIs .up id).port 0 with laneFail := 8 } : Port).grade = .degraded ∧
    ({ (portIs .up fun x => { x with laneFail := 1 }).port 0 with laneFail := 9 } : Port).grade = .down ∧
    ((portIs .identify id).port 0).linked = true ∧ ((portIs .identify id).port 0).up = false ∧ ((portIs .down id).port 0).linked = false ∧
    ((portIs .up fun x => { x with laneFail := 8 }).port 0).laneFail.getLsbD 3 = true ∧
    ((portIs .up fun x => { x with badLane := some 7 }).port 0).badLane = some 7 ∧
    (inPhase .close (portIs .up fun x => { x with badLane := some 7 })).inLull = true ∧
    ((portIs .up id).port 0).spareFor = 15 ∧ up.itg.deltas = [] ∧ up.emmc.deltaCount < deltaMax := by decide

/-- Ports 0 and 1 are up. -/
def twoUp : State := { up with ports := [(0, { Port.reset with state := .up }), (1, { Port.reset with state := .degraded })] }

theorem witness_LinksGoDownAndReturn : (twoUp.port 0).linked = true ∧ ((portIs .identify id).port 0).linked = true ∧ twoUp.sends = true ∧ (twoUp.port 0).up = true ∧ (twoUp.port 1).up = true ∧ twoUp.live = true ∧
    twoUp.clk.ref156.getLsbD 0 = true ∧ (twoUp.port 0).linked = true ∧
    ({ twoUp with clk := { Clk.reset with ref156 := 6 } } : State).clk.ref156.getLsbD 0 = false := by decide

/-- The leader, whose plan 0 needs port 0 of rank 1. -/
def needing : State :=
  let s := running { plan0 with variants := [{ head := 0, ranks := 3, links := [0, 1], routes := [], trees := [], twins := [] }] } up
  { s with ports := twoUp.ports }
def downReport : LinkReport := { rank := 1, ports := List.replicate 6 (.down, 0), pfp := [0, 0, 0, 0] }

theorem witness_LinkReportsFlood : needing.sends = true ∧ needing.dom.out = false ∧ (needing.port 0).up = true ∧ (needing.port 0).stale = 0 ∧ downReport ∉ needing.dom.reports ∧
    downReport.rank ≠ needing.dom.rank ∧ needing.frm.leader = needing.dom.rank ∧ (needing.plan 0).inPlans = true ∧
    ((needing.variantOf 0).map fun v => v.broken needing.dom.shape downReport) = some true ∧
    downReport ∈ ({ needing with dom := { needing.dom with reports := [downReport] } } : State).dom.reports ∧
    ({ needing with frm := { needing.frm with leader := 1 } } : State).frm.leader ≠ needing.dom.rank := by decide

/-- Before tick 0, with a report of rank 1 held. -/
def agreeing : State := { twoUp with dom := { twoUp.dom with tick0 := false, reports := [report1] }, boot := { up.boot with stage := 8 } }

theorem witness_RosterIsAgreed : (agreeing.port 0).up = true ∧ (agreeing.port 0).stale = 0 ∧ agreeing.sends = true ∧ agreeing.dom.out = false ∧ 8 ≤ agreeing.boot.stage ∧ agreeing.dom.tick0 = false ∧
    provisional agreeing.assembled.1 = agreeing.dom.rank ∧ agreeing.assembled.1 ≠ [] ∧
    provisional [Presence.absent, .present] ≠ 0 := by decide

/-- A rank that is not the lowest heard from. -/
theorem witness_RosterIsAgreed_other : 
    let s : State := { agreeing with dom := { agreeing.dom with rank := 2 } }
    provisional s.assembled.1 ≠ s.dom.rank := by decide

theorem witness_WithdrawalStopsThePlan : (coreAt 0 Core.reset).sends = true ∧ ((coreAt 0 Core.reset).plan 0).inPlans = true ∧
    (coreAt 0 Core.reset).frm.leader = (coreAt 0 Core.reset).dom.rank := by decide

/-! ### Witnesses: training step, media intake, twins -/

def seg : SegIn := { layer := 0, seg := 0, desc := 1, row0 := 0, word := 5, rows := [31, 32], assigned := 3, declined := 1, dispatched := 3, returned := 2 }
def watched (leader : Nat) : State :=
  { running plan0 up with
    plans := [(0, { PlanSt.reset with pstate := .running, image := some plan0, rwatch := some { watch1 with rank := 0 } })]
    frm := { up.frm with leader := leader } }

/-- Plan 0 has a training record and an expert entry for layer 0. -/
def experting : State := running { descPlan 0 with training := some [], experts := [[0, 0, 0, 0]] } up

theorem witness_TrainingStepRecords : experting.runs = true ∧ (experting.plan 0).executes = true ∧
    ((experting.img? 0).map fun q => (q.training.isSome, q.experts.any fun e => rf e 0 48 16 == seg.layer, q.experts.any fun e => rf e 0 48 16 == 1)) =
      some (true, true, false) ∧ ((descAt 0).img? 0).map (·.training) = some none ∧
    (watched 0).runs = true ∧ ((watched 0).plan 0).rwatch = some { watch1 with rank := 0 } ∧ ((watched 0).plan 0).image.isSome = true ∧
    (watched 1).frm.leader ≠ (watched 1).dom.rank ∧ (watched 0).frm.leader = (watched 0).dom.rank := by decide

/-- A text lane of plan 0 with one tokeniser, four positions of up to 16 tokens and its bucket. -/
def textRec : Rec := [BitVec.ofNat 64 (2 * 2 ^ 55 + 64 * 2 ^ 32 + 3 * 2 ^ 16), BitVec.ofNat 64 (2 ^ 38 + 4 * 2 ^ 16), BitVec.ofNat 64 (16 * 2 ^ 32),
  BitVec.ofNat 64 0xF00000010000, BitVec.ofNat 64 0x4000, 0, 0, 0]
def hdr (seq : Nat) : Rec := [BitVec.ofNat 64 seq, BitVec.ofNat 64 (5 * 2 ^ 56), 0, 2]
def hi : List Byte := [0x48, 0x69]
/-- The lane's stream has passed on the record of `h` and `b`. -/
def intake (h : Rec) (b : List Byte) (f : Lane → Lane) : State :=
  let s := running plan0 up
  { s with
    lanes := [(0, f { Lane.reset with state := .idle, record := textRec })]
    boot := { s.boot with image := some { image0 with intake := some { nlane := 1, lanes := [textRec], buckets := [[[BitVec.ofNat 64 (16 * 2 ^ 32), 64]]] } } }
    host := { HostPort.reset with ins := [{ src := 1, stream := 3, epoch := 1, cum := 1, held := [], passed := wordsBytes h ++ b, unacked := 0 }] } }

theorem witness_MediaRecordsAreTakenAndStaged : (intake (hdr 0) hi id).runs = true ∧ ((intake (hdr 0) hi id).consumed 3 (hdr 0) hi).isSome = true ∧
    ((intake (hdr 0) hi id).lane 0).record ≠ [] ∧ (intake (hdr 0) hi id).takesClass 0 = true ∧ hLane (hdr 0) = 0 ∧
    (((intake (hdr 0) hi id).lane 0).expects (hdr 0)).isSome = true ∧ ((intake (hdr 1) hi id).lane 0).expects (hdr 1) = none ∧
    laneKind textRec = 2 ∧ hEmpty (hdr 0) = false ∧ hResv (hdr 0) = false ∧ (intake (hdr 0) hi id).classify 0 (hdr 0) hi = 0 ∧
    (intake (hdr 0) hi id).classify 0 [0, 0, 0, 2] hi = 2 ∧ (intake (hdr 0) hi id).classify 0 (hdr 0) (List.replicate 17 65) = 4 ∧
    (intake (hdr 0) hi id).canStage 0 = true ∧
    (intake (hdr 0) hi id).consumed 3 (hdr 1) hi = none ∧
    ((intake (hdr 0) hi fun x => { x with record := [] }).lane 0).record = [] := by decide

/-- A sensor lane of one sensor with frames of two FP32 elements. -/
def sensorRec : Rec := [BitVec.ofNat 64 (3 * 2 ^ 55 + 64 * 2 ^ 32 + 3 * 2 ^ 16), BitVec.ofNat 64 (4 * 2 ^ 16), BitVec.ofNat 64 (2 * 2 ^ 32),
  BitVec.ofNat 64 0xF00000010000, BitVec.ofNat 64 0x4000, 0, BitVec.ofNat 64 (1000 * 2 ^ 32 + 2 ^ 20 + 9 * 2 ^ 16), 0]
def sensorHdr : Rec := [0, BitVec.ofNat 64 (6 * 2 ^ 56), 0, 8]
def sensing : State :=
  let s := intake sensorHdr [1, 2, 3, 4, 5, 6, 7, 8] fun x => { x with record := sensorRec }
  { s with boot := { s.boot with image := some { image0 with intake := some { nlane := 1, lanes := [sensorRec], buckets := [[[BitVec.ofNat 64 (2 * 2 ^ 32), 64]]] } } } }

theorem witness_MediaRecordsAreTakenAndStaged_sensor : sensing.runs = true ∧ (sensing.consumed 3 sensorHdr [1, 2, 3, 4, 5, 6, 7, 8]).isSome = true ∧
    (sensing.lane 0).record ≠ [] ∧ sensing.takesClass 0 = true ∧
    ((sensing.lane 0).expects sensorHdr).isSome = true ∧ laneKind (sensing.lane 0).record = 3 ∧ hResv sensorHdr = false ∧ hEmpty sensorHdr = false ∧
    sensing.classify 0 sensorHdr [1, 2, 3, 4, 5, 6, 7, 8] = 0 ∧ sensing.sensorOk 0 sensorHdr 8 = true := by decide

def pend (b : List Byte) : Pending :=
  { seq := 0, hdr := hdr 0, reason := 0, e0 := 2, e1 := 0, chans := 0, rgb := false, bits := 0, rate := 0, sh := 0, sv := 0, payload := b, result := none }
def decoding (b : List Byte) : State := intake (hdr 1) hi fun x => { x with state := .run, queue := [pend b], next := 1, staging := [0, 0] }

theorem witness_MediaRecordsAreTakenAndStaged_decode : (decoding hi).runs = true ∧ ((decoding hi).lane 0).queue = [pend hi] ∧ (pend hi).ready = false ∧
    ((decoding hi).lane 0).resv = [] ∧ (decoding hi).canStage 0 = true ∧
    ((decoding hi).lane 0).staging.length + 1 < lanePpm textRec ∧ hMedia (pend hi).hdr = 5 ∧
    engine textRec ((decoding hi).laneTab 0) (pend hi) = .done 2 0 [0x48, 0, 0, 0, 0x69, 0, 0, 0] ∧
    engine textRec ((decoding hi).laneTab 0) (pend [0xFF]) = .corrupt ∧
    2 ≤ ((decoding hi).bucket 0 ((decoding hi).bucketAt 0 2)).1 ∧
    engine textRec ((decoding hi).laneTab 0) (pend (List.replicate 17 65)) = .done 17 0 ((List.replicate 17 [65, 0, 0, 0]).flatten) ∧
    ((decoding hi).bucket 0 ((decoding hi).bucketAt 0 2)).1 < 17 ∧ ((decoding hi).lane 0).working 9 = none := by decide +kernel

def heldW (b : Byte) : HeldWord := { addr := 0xF00000000000, data := [b], poison := false }
def comparing : State := twinned 0 { Core.reset with twin := [heldW 1, { heldW 2 with addr := 0xF00000000020 }] }

theorem witness_TwinsAreCompared : (comparing.twinPairs 0).find? (fun x => x.primary == 0) = some ⟨0, 1⟩ ∧ comparing.runs = true ∧
    (comparing.core 0).active = true ∧ (comparing.plan 0).executes = true ∧ (comparing.core 0).twin = [heldW 1] ++ { heldW 2 with addr := 0xF00000000020 } :: [] ∧
    ({ heldW 2 with addr := 0xF00000000020 } : HeldWord) ≠ { heldW 3 with addr := 0xF00000000020 } ∧ comparing.frm.leader = comparing.dom.rank ∧
    ({ comparing with frm := { comparing.frm with leader := 1 } } : State).frm.leader ≠ comparing.dom.rank := by decide

/-! ### Witnesses: the eMMC logs and start-up -/

def delta0 : Delta := { kind := 2, unit := 0, frame := 0, spare := 0, index := 9, cause := 0x0302, crcOk := true }
def logging : State := { up with itg := { Itg.reset with deltas := [delta0] } }
def jrnEntry (kind : Nat) : JrnRec :=
  { index := 0, kind := kind, outcome := 0, arrivalFrame := 0, reason := 0, port := 0, effectFrame := 0, time := 0, src := 0, wseq := 0,
    wrank := 0, wport := 0, udp := 0, body := [4, 1, 0, 0] }
def journaling (kind lost : Nat) : State := { up with jrn := { Journal.reset with next := 1, buf := [jrnEntry kind], lostPend := lost } }

def pack0 : Pack := { packId := 9, version := 7, length := 176, slices := [], active := false, bytes := [] }

theorem witness_DeltasAndJournalAreWritten : logging.live = true ∧ logging.itg.deltas = [delta0] ∧ logging.emmc.deltaCount < deltaMax ∧
    deltaMax ≤ ({ logging with emmc := { Emmc.reset with deltaCount := deltaMax } } : State).emmc.deltaCount ∧ logging.itg.deltaFull = false ∧
    (journaling 0 0).live = true ∧ 5 ≤ (journaling 0 0).boot.stage ∧ (journaling 0 0).jrn.buf = [jrnEntry 0] ∧ (journaling 0 0).jrn.lostPend = 0 ∧
    (jrnEntry 0).kind ≠ 1 ∧ 0 < (journaling 0 1).jrn.lostPend ∧ (jrnEntry 1).kind = 1 ∧ bfld ((jrnEntry 1).body.getD 0 0) 0 8 = 4 ∧
    logging.itg.packStores = [] ∧ (journaling 0 0).itg.deltas = [] ∧ (journaling 0 0).itg.packStores = [] ∧ logging.jrn.buf = [] ∧
    ({ Itg.reset with deltas := [delta0], packStores := [pack0] } : Itg).packStores = [pack0] := by decide

/-- An image that verifies: key 0 is fused and not revoked; site 0 is a tier 1 site at 32 Gb/s. -/
def goodImage : Image := { image0 with
  sections := [⟨1, 0, 0, 4096, 64, true⟩, ⟨2, 0, 0, 8192, 64, true⟩, ⟨3, 0, 0, 12288, 64, true⟩, ⟨4, 0, 0, 16384, 64, true⟩]
  nsect := 4
  length := 20480
  device := [BitVec.ofNat 64 (600 * 2 ^ 16), BitVec.ofNat 64 (2 ^ 62 + 32 * 2 ^ 56 + 64 * 2 ^ 40)] ++ List.replicate 46 0 }
def dirAt (k : Nat) : DirCopy :=
  DirCopy.sealed { DirCopy.bad with gen := 1, select := k, slotA := { DirSlot.empty with state := 1 }, slotB := { DirSlot.empty with state := 1 } }
/-- Held in reset, with a directory that selects slot 0. -/
def off (a b : Option Image) : State := { State.reset with
  otp := { Otp.reset with keys := [0] }
  emmc := { Emmc.reset with dir1 := dirAt 0, slotA := a, slotB := b } }

theorem witness_ReleaseBootsAnImageOrRecovers : (off (some goodImage) none).pwr.inReset = true ∧ (off (some goodImage) none).pwr.thermTrip = false ∧ ({ rel 1 with powerOn := true } : ResetIn).powerOn = true ∧ (rel 1).ref100 ≠ 0 ∧
    ({ rel 1 with romOk := false } : ResetIn).romOk = false ∧ (rel 1).romOk = true ∧ ({ rel 1 with emmcOk := false } : ResetIn).emmcOk = false ∧
    (rel 1).emmcOk = true ∧ ({ rel 1 with forceRec := true } : ResetIn).forceRec = true ∧ (rel 1).forceRec = false ∧
    (off (some goodImage) none).emmc.slot 0 = some goodImage ∧ ((dirAt 0).slot 0).state = 1 ∧
    goodImage.valid (off none none).keyring = true ∧ goodImage.digestsOk earlySection = true ∧
    (off none (some goodImage)).emmc.slot ((dirAt 0).select % 2) = none ∧ (off none (some goodImage)).emmc.slot (1 - (dirAt 0).select % 2) = some goodImage ∧
    ((dirAt 0).slot (1 - (dirAt 0).select % 2)).state = 1 ∧ (off none none).emmc.slotA = none ∧ (off none none).emmc.slotB = none := by decide +kernel

theorem witness_ReleaseBootsAnImageOrRecovers_directory (a b : Option Image) : (off a b).emmc.dir = some (dirAt 0) :=
  Emmc.dir_one _ (DirCopy.sealed_good _) DirCopy.bad_good

/-- In start-up step `n` with `i` in force; site 0 trains. -/
def booting (n : Nat) (i : Image) : State := { State.reset with
  pwr := { Pwr.reset with inReset := false }
  boot := { Boot.reset with stage := n, image := some i, cfg := i.device }
  dom := { Domain.reset with shape := 0x3C }
  sites := [(0, { Site.reset with tier := 1, state := .training })] }

theorem witness_StartUpStepsThreeToSeven : (booting 3 goodImage).runs = true ∧ (booting 3 goodImage).boot.stage = 3 ∧ (booting 6 goodImage).runs = true ∧
    (booting 6 goodImage).boot.stage = 6 ∧ ((booting 6 goodImage).site 0).state = .training ∧ (booting 6 goodImage).boot.selfTestDone = false ∧
    ({ booting 6 goodImage with boot := { (booting 6 goodImage).boot with selfTestDone := true } } : State).boot.selfTestDone = true ∧
    ((List.range 24).all fun j => j == 0 || !(((booting 6 goodImage).site j).state == .training)) = true ∧
    ((booting 6 goodImage).mapTile 15).retired = false ∧ 73 ∉ ((booting 6 goodImage).mapTile 15).rows ∧ 73 ∉ ((booting 6 goodImage).mapTile 15).cols ∧
    ((booting 6 goodImage).mapTile 15).rows.length < 2 := by decide

theorem witness_StartUpStepsThreeToSeven_map : (booting 7 goodImage).runs = true ∧ (booting 7 goodImage).boot.stage = 7 ∧
    (booting 7 goodImage).emmc.deltaCount + (booting 7 goodImage).boot.selfDeltas.length ≤ deltaMax ∧
    (farEnd (booting 7 goodImage).dom.shape (booting 7 goodImage).dom.rank 0).isSome = true := by decide

def planImage : Image := { goodImage with plans := [some plan0] }
def validating (m : List Presence) : State := { booting 8 planImage with dom := { (booting 8 planImage).dom with roster := m } }

theorem witness_PlansAreValidatedAndLoaded : (validating [.present]).runs = true ∧ (validating [.present]).boot.stage = 8 ∧ (validating [.present]).dom.out = false ∧
    (validating [.present]).dom.roster ≠ [] ∧ (validating [.present]).boot.image = some planImage ∧ planImage.digestsOk (· == 6) = true ∧
    (planImage.plans[0]?).bind id = some plan0 ∧ ((validating [.present]).plan 0).pstate = .absent ∧ (validating [.present]).sends = true ∧
    (validating [.present]).dom.tick0 = false ∧ ((portUp (validating [.present])).port 0).up = true ∧ ((portUp (validating [.present])).port 0).stale = 0 ∧
    (validating [.present]).dom.ready.getLsbD 0 = false ∧ ((validating [.present]).imagePlan 0).isSome = true := by decide +kernel

/-- A plan with no units that passes every check; rank 0 alone is its variant. -/
def passing (start : Nat) : Plan := { plan0 with
  head0 := BitVec.ofNat 64 (1000 * 2 ^ 48 + 20 * 2 ^ 32 + 10 * 2 ^ 16)
  head1 := BitVec.ofNat 64 (2 ^ 48)
  steps := [{ stepLen := 1, uframes := [], frames := [List.replicate 18 0] }]
  tables := [[]]
  variants := [{ head := BitVec.ofNat 64 (2 ^ 49), ranks := 1, links := [], routes := [], trees := [], twins := [] }]
  ckpt := some [BitVec.ofNat 64 (2 ^ 32 + 2 ^ 16 + 0xFFFF), BitVec.ofNat 64 (2 ^ 16 + start * 2 ^ 14), BitVec.ofNat 64 (2 ^ 48), 0] }
def passImage (start : Nat) : Image := { goodImage with plans := [some (passing start)] }
def passState (start : Nat) : State :=
  let s := validating (.present :: List.replicate 63 .absent)
  { s with boot := { s.boot with image := some (passImage start) } }

theorem test_plan_loads : (passState 0).planCode (passImage 0) 0 (passing 0) = 0 ∧ (passState 1).planCode (passImage 1) 0 (passing 1) = 0 ∧
    (((planValidation (passState 1)).plan 0).pstate = .restoring) ∧ ((planValidation (passState 0)).plan 0).image = some (passing 0) := by
  decide +kernel

/-! ### Bytes (15 Tables 15.4, 15.5, 15.8; 14 R395) -/

/-- "NKPP", PACKID 9, NSLICE 1, VERSION 7, LENGTH 256; CYCLES 5, PROG 5, INPUT 6, CRC 1; one END instruction; 64 bytes of inputs. -/
def packBytes : List Byte := [0x4E, 0x4B, 0x50, 0x50, 9, 0, 1, 0, 7, 0, 0, 0, 0, 1, 0, 0] ++ List.replicate 48 0 ++
  [6, 0, 5, 0, 5, 0, 0, 0, 1, 0, 0, 0, 0, 0, 0, 0] ++ List.replicate 15 0 ++ [0x0F, 64] ++ List.replicate 63 0 ++ List.replicate 96 0

theorem test_pack_parses : ((parsePack packBytes).map fun p => (p.packId, p.version, p.length)) = some (9, 7, 256) ∧
    ((parsePack packBytes).map fun p => p.slices.map fun x => (x.cycles, x.prog, x.input)) = some [(5, 5, 6)] ∧
    ((parsePack packBytes).map fun p => p.slices.map fun x => (x.crc, x.code, x.data.length)) = some [(1, [ins 0x0F []], 64)] := by decide +kernel
theorem test_pack_form_fails : parsePack (packBytes.set 16 1) = none ∧ parsePack (packBytes ++ [0]) = none ∧
    parsePack (packBytes.set 95 0) = none ∧ parsePack (packBytes.set 64 7) = none := by decide +kernel

/-- "NKEV", FORMAT 1, NSECT 1, VERSION 3, LENGTH 5,120, STEPPING 0xB0, KEYIDX 2; one section of TYPE 2 at 4,096. -/
def headBytes : List Byte := [0x4E, 0x4B, 0x45, 0x56, 1, 0, 1, 0, 3, 0, 0, 0, 0, 0, 0, 0, 0, 0x14, 0, 0, 0, 0, 0, 0, 0xB0, 2] ++ List.replicate 102 0 ++
  [2, 0, 0, 0, 0, 0, 0, 0, 0, 0x10, 0, 0, 0, 0, 0, 0, 0, 1, 0, 0, 0, 0, 0, 0]

theorem test_header_parses : let i := parseImage headBytes
    i.magicOk = true ∧ i.format = 1 ∧ i.nsect = 1 ∧ i.version = 3 ∧ i.length = 5120 ∧ i.stepping = 0xB0 ∧ i.keyIdx = 2 ∧
    i.sections.map (fun x => (x.type, x.index, x.offset, x.length)) = [(2, 0, 4096, 256)] := by decide +kernel

/-- Section header: P 1,000, L 20, STEPLEN 2, TILES 0x0003; step tables of 82 bytes at 0x100: table 0 with two frames, then one of
STEPLEN 0 with one UFRAME; one integrity record at 0x160, six port shares. -/
def planBytes : List Byte := wordsBytes ([BitVec.ofNat 64 (1000 * 2 ^ 48 + 20 * 2 ^ 32), BitVec.ofNat 64 (2 * 2 ^ 48 + 3), BitVec.ofNat 64 (0x100 * 2 ^ 32 + 82)] ++
    List.replicate 11 0 ++ [BitVec.ofNat 64 (0x160 * 2 ^ 32 + 1)] ++ List.replicate 6 0 ++ [BitVec.ofNat 64 (0x100 * 2 ^ 32 + 6)] ++ List.replicate 10 0) ++
  (List.replicate 17 [(5 : Byte), 0]).flatten ++ [6, 0] ++ (List.replicate 18 [(7 : Byte), 0]).flatten ++ [0, 0, 0, 0, 1, 0, 0, 0, 9, 0] ++ List.replicate 14 0 ++
  wordsBytes [BitVec.ofNat 64 (2 ^ 62)]

theorem test_plan_parses : let q := parsePlan planBytes 0 []
    q.period = 1000 ∧ q.lull = 20 ∧ q.stepLen = 2 ∧ q.tiles = 3 ∧ q.resp = 1 ∧ q.beyond = false ∧
    q.steps = [{ stepLen := 2, uframes := [], frames := [List.replicate 17 5 ++ [6], List.replicate 18 7] },
      { stepLen := 0, uframes := [9], frames := [] }] := by decide +kernel


/-! ### Witnesses: further clauses -/

/-- The directives `ds` are agreed for the next tick. -/
def agreed (ds : List Directive) : State := { running plan0 guarding with frm := { guarding.frm with agreedDirs := ds } }
def patrolDir (r : Nat) (rank : Nat) : Directive := { dirOf .patrol 0 r 0 0 with rank := rank }

theorem witness_DirectiveEffects_tick : (agreed []).runs = true ∧ ((agreed []).port 0).up = true ∧ ((agreed []).port 0).stale = 0 ∧ (agreed []).dom.tick0 = true ∧
    tick1.port = some 0 ∧ tick1.frame = (agreed []).frm.frame + 1 ∧ (agreed []).frm.early = false ∧ (agreed []).frm.phase = .guard ∧
    (agreed []).reached.dirCheck (patrolDir 4 0) = 0 ∧ (agreed []).reached.dirCheck (patrolDir 8 1) = 0 ∧
    contradict (patrolDir 4 0) (patrolDir 8 1) = true ∧ (patrolDir 4 0).order < (patrolDir 8 1).order ∧
    (agreed []).reached.dirCheck (dirOf .resume 0 0 0 0) = 4 ∧ (dirOf .resume 0 0 0 0).rank = up.dom.rank ∧
    (agreed []).wellFormedDir .restart (dirOf .restart 0 0 0 0).body = true := by decide

theorem witness_DirectiveEffects_restart : let u := (agreed [dirOf .restart 0 0 0 0]).beforeDirs
    u.applyDirs.boot.restart = true ∧ (agreed []).beforeDirs.applyDirs.boot.restart = false := by decide +kernel

theorem witness_LateSlotsGraceAndFinish_hears : Hears 0 (.late 1 0 0 100 0) (portUp (granting 1)) ∧
    Hears 0 (.late 1 0 0 100 0) { portUp up with frm := { up.frm with leader := 1 } } ∧
    Hears 0 (.grant 0 0 100 50) { portUp (granting 1) with frm := { (granting 1).frm with leader := 1 } } ∧
    Hears 0 (.finish 0 0) { portUp (granting 1) with frm := { (granting 1).frm with leader := 1 } } ∧
    Hears 0 (.lull 0) (portUp (finishing 1)) ∧ Hears 0 (.withdraw 0) (portUp (coreAt 0 Core.reset)) ∧ Hears 0 (.twin 1 0) (portUp (coreAt 0 Core.reset)) :=
  ⟨⟨by decide, by decide, by decide, by decide⟩, ⟨by decide, by decide, by decide, by decide⟩, ⟨by decide, by decide, by decide, by decide⟩,
   ⟨by decide, by decide, by decide, by decide⟩, ⟨by decide, by decide, by decide, by decide⟩, ⟨by decide, by decide, by decide, by decide⟩,
   ⟨by decide, by decide, by decide, by decide⟩⟩

theorem witness_LateSlotsGraceAndFinish_leader : (portUp (granting 1)).frm.leader = (portUp (granting 1)).dom.rank ∧ (portUp (granting 1)).frm.frame = lateIn.frame ∧
    ((portUp (granting 1)).plan 0).overruns = true ∧ (portUp (granting 1)).measures = true ∧ ((portUp (granting 1)).img? 0).isSome = true ∧
    0 < ((portUp (granting 1)).plan 0).grace ∧ ((portUp (granting 0)).plan 0).grace = 0 ∧ (portUp (finishing 1)).frm.state = .finish ∧
    (portUp (finishing 1)).frm.leader ≠ 0 ∧ (finishing 0).sends = true ∧ (finishing 0).frm.leader = (finishing 0).dom.rank := by decide

theorem witness_SlotLifecycle_late : (granting 1).runs = true ∧ ((granting 1).plan 0).overruns = true ∧ (granting 1).slot? 0 = some started ∧
    (granting 1).sends = true ∧ (finishing 1).frm.leader ≠ (finishing 1).dom.rank ∧ (granting 1).frm.leader = (granting 1).dom.rank := by decide

/-- The plan has run the last frame of a step; the next tick would open UFRAME 0, whose commit has not come. -/
def uncommitted : State :=
  (running { training with head1 := BitVec.ofNat 64 (4 * 2 ^ 48), steps := [{ stepLen := 4, uframes := [], frames := [] }] } (inPhase .guard up)).modPlan 0
    fun x => { x with pos := 4 }

theorem witness_LateTrainingActs_commit : uncommitted.runs = true ∧ uncommitted.frm.phase = .guard ∧ uncommitted.frm.commitLate.contains 0 = false ∧
    uncommitted.boundary.boot.restart = false ∧ uncommitted.boundary.settleSteps.commitDue 0 = true ∧ uncommitted.commitDue 0 = true ∧ uncommitted.frm.state ≠ .stopped ∧ (inPhase .guard up).boundary.settleSteps.commitDue 0 = false ∧ up.frm.state ≠ .stopped := by decide +kernel

theorem witness_WriteCombining_second : let z := (siteIs .ready fun z => { z with wcb := [entryAt 0 1], upsets := [(0, clean), (0, edc3)] }).site 0
    (clean.join (z.upset 0)).edcFails = 0 ∧ (({ z with upsets := dropUpset 0 z.upsets } : Site).upset 0).edcFails = 3 ∧
    (entryAt 0 1).valid ≠ BitVec.allOnes 256 := by decide +kernel

theorem witness_SiteHoldsEnd_waiting : ((siteIs .retrainUnsched fun z => { z with waitFrom := some 0 }).site 0).waitFrom = some 0 ∧
    ((siteIs .retrainUnsched fun z => { z with waitFrom := some 0 }).site 0).queue = [] := by decide

theorem witness_AccumulatesAddIntoTheirArea_upsets :
    ∀ e ∈ ([(5, edc3), (0, clean), (1, clean)] : List (Nat × Xfer)), e.1 = 0 ∨ e.1 = 0 + 1 → e.2 = Xfer.clean := by simp [clean]

theorem witness_SignalAndRelayFrames_keepAlive : onPort.sends = true ∧ (onPort.port 0).reasm = none ∧ bfld (relayF 1 1 0).line 39 1 = 1 ∧ bfld (relayF 1 1 0).line 38 1 = 1 ∧
    (lineBytes (relayF 1 1 0).body).take (bfld (relayF 1 1 0).line 0 16) = [] := by decide +kernel

theorem witness_PortsTrainIdentifyAndProbe_hop :
    (let x := (portIs .up fun x => { x with setLen := 4, probes := 3, measured := true, hopNs := 10, hopSum := 900 }).port 0
     x.linked = true ∧ x.stale = 0 ∧ x.setLen ≤ x.probes + 1 ∧ hopMax < (x.hopSum + 14) / (2 * x.setLen) ∧ x.state ≠ .excluded) ∧
    (let x := (portIs .excluded fun x => { x with setLen := 4, probes := 3, hopSum := 900 }).port 0
     x.linked = true ∧ hopMax < (x.hopSum + 14) / (2 * x.setLen)) ∧
    (let x := (portIs .up fun x => { x with setLen := 4, probes := 3, hopSum := 866 }).port 0
     (x.hopSum + 14) / (2 * x.setLen) = hopMax) ∧
    ((portIs .identify id).port 0).owes = false ∧ ((portIs .identify fun x => { x with rxGood := 1 }).port 0).owes = true := by decide

/-- Lane 3 of port 0 is bad; its delta has been written, or still waits. -/
def badLane (waits : Bool) : State :=
  let s := inPhase .close (portIs .up fun x => { x with badLane := some 3 })
  if waits then { s with itg := { s.itg with deltas := [s.mkDelta 6 0 0 3 0x0403] } } else s

theorem witness_LanesFailDieAndAreSpared_delta : (badLane false).deltaDone 6 0 3 = true ∧ (badLane true).deltaDone 6 0 3 = false ∧
    ((badLane false).port 0).badLane = some 3 ∧ ((badLane false).port 0).spareFor = 15 ∧ ((badLane false).port 0).laneFail.getLsbD 8 = false ∧
    (badLane false).inLull = true := by decide

theorem witness_LinksGoDownAndReturn_host : ({ twoUp with clk := { Clk.reset with ref156 := 3 } } : State).clk.ref156.getLsbD 2 = false ∧ twoUp.reach 0 = true ∧
    twoUp.host.link = 0 := by decide

theorem witness_LinkReportsFlood_seen : (downReport.rank, downReport.num) ∉ needing.dom.seen ∧ needing.dom.outdated downReport = false ∧
    (let s : State := { needing with dom := { needing.dom with reports := [{ downReport with num := downReport.num + 1 }] } }
     s.dom.outdated downReport = true ∧ (downReport.rank, downReport.num) ∉ s.dom.seen) ∧
    (let s : State := { needing with dom := { needing.dom with seen := [(downReport.rank, downReport.num)] } }
     (downReport.rank, downReport.num) ∈ s.dom.seen) := by decide

theorem witness_RosterIsAgreed_late : up.gathers = false ∧ ((portUp up).port 0).linked = true := by decide

theorem witness_WithdrawalStopsThePlan_grants : (portUp (coreAt 0 Core.reset)).frm.grants.length = (portUp (coreAt 0 Core.reset)).frm.grantPlans.length ∧
    ((portUp (coreAt 0 Core.reset)).plan 0).inPlans = true := by decide

theorem witness_TrainingStepRecords_quota :
    (let q : Plan := { descPlan 0 with training := some [], experts := [[BitVec.ofNat 64 (32 * 2 ^ 20), 0, 0, 0]] }
     q.quota seg.layer = 32 ∧ (seg.rows.filter fun r => decide (r < q.quota seg.layer)) = [31]) ∧
    (experting.img? 0).map (·.quota seg.layer) = some 0 := by decide

/-- A delta that retires tile 5 waits. -/
def retiring : State :=
  { up with boot := { up.boot with mapDone := true }, itg := { Itg.reset with deltas := [{ delta0 with kind := 3, unit := 5 }] } }

theorem witness_DeltasAndJournalAreWritten_tile : retiring.live = true ∧ retiring.itg.deltas = [{ delta0 with kind := 3, unit := 5 }] ∧
    retiring.boot.mapDone = true ∧ retiring.emmc.deltaCount < deltaMax ∧ (delta0.kind ≠ 3 ∧ delta0.kind ≠ 7) := by decide

end Sys2Proof.Tests
end

section
/-! SUPPORT. What a step can do, and that it keeps the canonical form of the state's maps. -/

namespace Sys2Proof.Machine

/-- The queue is no map: what waits in it has no say in the canonical form. -/
@[simp] theorem State.canonical_setPending (s : State) (cs : List Instr) :
    ({ s with pending := cs } : State).canonical = s.canonical := rfl

/-- The passing of time touches no map. -/
@[simp] theorem State.canonical_idle (s : State) : (idle s).canonical = s.canonical := rfl

/-- All that a step can do: with no command waiting it lets time pass; with one in front it answers a state that differs from the one
without that command only as `Kept` allows. -/
theorem step_cases {s t : State} (h : step s = .next t) :
    (s.pending = [] ∧ t = idle s) ∨ ∃ c cs, s.pending = c :: cs ∧ exec c { s with pending := cs } = .next t ∧ Kept { s with pending := cs } t := by
  unfold step at h
  split at h
  case h_1 none => exact .inl ⟨none, (Host.Outcome.next.inj h).symm⟩
  case h_2 c cs front =>
    obtain ⟨u, answers, kept⟩ := exec_next c { s with pending := cs }
    obtain rfl : u = t := Host.Outcome.next.inj (answers.symm.trans h)
    exact .inr ⟨c, cs, front, answers, kept⟩

/-- Settles O3: a step lets time pass, which touches no map, or runs the front command, which keeps the form by `exec_next`. -/
theorem everyStepKeepsCanonicalForm : Obligations.EveryStepKeepsCanonicalForm := by
  intro s t canon h
  obtain ⟨-, rfl⟩ | ⟨c, cs, -, -, kept⟩ := step_cases h
  · rwa [State.canonical_idle]
  · exact kept.canon (by rwa [State.canonical_setPending])

end Sys2Proof.Machine
end

section
/-! SUPPORT. The service of the memory sites leaves every byte of the tile stores as it is: the rules of faults, of a line's service, of
waiting requests and of a transfer's turn. -/

namespace Sys2Proof.Machine

/-- What every step of a fold leaves as it is, the fold leaves as it is. -/
theorem foldl_keeps {σ α β : Type} (g : σ → β) {f : σ → α → σ} {l : List α} (h : ∀ s, ∀ a ∈ l, g (f s a) = g s) (s : σ) :
    g (l.foldl f s) = g s :=
  List.foldlRecOn (motive := fun t => g t = g s) l f rfl fun t ht a ha => (h t a ha).trans ht

/-! ### Faults -/

@[simp] theorem State.stopPlan_store (s : State) (p : Nat) : (s.stopPlan p).store = s.store := (State.stopPlan_stopped s p).store

@[simp] theorem State.contain_store (s : State) (p code : Nat) : (s.contain p code).store = s.store := State.stopPlan_store s p

@[simp] theorem State.fatal_store (s : State) : s.fatal.store = s.store := (State.stopAll_stopped _ _).store

@[simp] theorem State.fault_store (s : State) (a : FaultArg) : (s.fault a).store = s.store := by
  unfold State.fault
  dsimp only
  split
  · rw [State.contain_store, State.raise_store]
  · exact s.raise_store a
  · rw [State.fatal_store, State.raise_store]
  · exact s.raise_store a

@[simp] theorem State.siteFault_store (s : State) (code i line : Nat) (plan cls : Option Nat) :
    (s.siteFault code i line plan cls).store = s.store := State.fault_store s _

@[simp] theorem State.redFault_store (s : State) (code p layer round : Nat) (d : W64) : (s.redFault code p layer round d).store = s.store :=
  State.fault_store s _

/-! ### EDC and holds -/

@[simp] theorem State.holdSite_store (s : State) (i : Nat) : (s.holdSite i).store = s.store := by
  unfold State.holdSite
  split <;> simp

@[simp] theorem State.edcRetries_store (s : State) (i line n : Nat) : (s.edcRetries i line n).store = s.store := by
  unfold State.edcRetries
  extract_lets t
  have ht : t.store = s.store := foldl_keeps State.store (fun _ _ _ => by simp) _
  split <;> simp [ht]

@[simp] theorem State.edc_store (s : State) (i line : Nat) (x : Xfer) (q : SiteReq) : (s.edc i line x q).1.store = s.store := by
  unfold State.edc
  dsimp only
  split <;> simp

@[simp] theorem State.gate_store (s : State) (i line : Nat) (x : Xfer) (q : SiteReq) : (s.gate i line x q).1.store = s.store := by
  simp [State.gate, State.meets]

@[simp] theorem State.gates_store (s : State) (i : Nat) (q : SiteReq) (ls : List Nat) : (s.gates i q ls).1.store = s.store := by
  induction ls generalizing s with
  | nil => rfl
  | cons l ls ih =>
    simp only [State.gates]
    split
    · exact State.gate_store s i l _ q
    · rw [ih, State.gate_store]

/-! ### Lines -/

@[simp] theorem State.candidate_store (s : State) (i grp : Nat) : (s.candidate i grp).store = s.store := rfl
@[simp] theorem State.storeLine_store (s : State) (i line : Nat) (l : Line) : (s.storeLine i line l).store = s.store := rfl
@[simp] theorem State.dropEntry_store (s : State) (i line : Nat) : (s.dropEntry i line).store = s.store := rfl
@[simp] theorem State.modLayer_store (s : State) (p l : Nat) (f : RedLayer → RedLayer) : (s.modLayer p l f).store = s.store := rfl
@[simp] theorem State.modRed_store (s : State) (p : Nat) (f : RedWords → RedWords) : (s.modRed p f).store = s.store := rfl

@[simp] theorem State.corrected_store (s : State) (i line : Nat) : (s.corrected i line).store = s.store := by
  unfold State.corrected
  dsimp only
  split <;> simp

@[simp] theorem State.fetchLine_store (s : State) (i line : Nat) (x : Xfer) : (s.fetchLine i line x).1.store = s.store := by
  unfold State.fetchLine
  dsimp only
  (repeat' split) <;> simp

@[simp] theorem State.pokeSite_store (s : State) (a : Nat) (v : W64) : (s.pokeSite a v).store = s.store := by
  unfold State.pokeSite
  split <;> rfl

@[simp] theorem State.sealStands_store (s : State) (p : Nat) (r : Rec) (k : Nat) (d : BitVec 2048) : (s.sealStands p r k d).store = s.store := by
  unfold State.sealStands
  dsimp only
  (repeat' split) <;> simp

@[simp] theorem State.sealCheck_store (s : State) (a : Nat) (d : BitVec 2048) : (s.sealCheck a d).store = s.store := by
  unfold State.sealCheck
  dsimp only
  (repeat' split) <;> simp

@[simp] theorem State.putData_store (s : State) (i line : Nat) (d : BitVec 2048) (b : Bool) : (s.putData i line d b).store = s.store := by
  rw [State.putData, State.sealCheck_store, State.storeLine_store]

@[simp] theorem State.sinkCheck_store (s : State) (i line : Nat) (m : BitVec 8) : (s.sinkCheck i line m).1.store = s.store := by
  unfold State.sinkCheck
  (repeat' split) <;> simp

/-! ### Requests -/

@[simp] theorem State.mergeEntry_store (s : State) (i : Nat) (e : WcbEntry) (x : Xfer) (q : SiteReq) :
    (s.mergeEntry i e x q).1.store = s.store := by
  unfold State.mergeEntry
  dsimp only
  (repeat' split) <;> simp

@[simp] theorem State.open_store (s : State) (i line : Nat) (x : Xfer) (q : SiteReq) : (s.open i line x q).1.store = s.store := by
  unfold State.open
  dsimp only
  (repeat' split) <;> simp

@[simp] theorem State.merge_store (s : State) (i line : Nat) (x : Xfer) : (s.merge i line x).store = s.store := by
  unfold State.merge
  dsimp only
  (repeat' split) <;> simp

@[simp] theorem State.serveRead_store (s : State) (i line : Nat) (x : Xfer) : (s.serveRead i line x).1.store = s.store := by
  unfold State.serveRead
  dsimp only
  (repeat' split) <;> simp

@[simp] theorem State.serveFull_store (s : State) (i line : Nat) (d : BitVec 2048) (m : BitVec 8) (p : Option Nat) (x : Xfer) :
    (s.serveFull i line d m p x).store = s.store := by
  unfold State.serveFull
  dsimp only
  (repeat' split) <;> simp

@[simp] theorem State.servePart_store (s : State) (i line : Nat) (d : BitVec 2048) (v : BitVec 256) (m : BitVec 8) (p : Option Nat) :
    (s.servePart i line d v m p).store = s.store := by
  unfold State.servePart
  dsimp only
  (repeat' split) <;> simp

@[simp] theorem State.checkAdd_store (s : State) (r : RedArea) (n : Int) : (s.checkAdd r n).store = s.store := by
  unfold State.checkAdd
  split
  · exact State.pokeSite_store ..
  · rfl

@[simp] theorem State.addGood_store (s : State) (p i line : Nat) (r : RedArea) (a : AddOut) (d : BitVec 2048) :
    (s.addGood p i line r a d).store = s.store := by
  unfold State.addGood
  dsimp only
  split <;> simp

@[simp] theorem State.addInto_store (s : State) (p i line : Nat) (r : RedArea) (xs : List Int) (m : Int) (b : Bool) (e f : BitVec 2048)
    (x : Xfer) : (s.addInto p i line r xs m b e f x).store = s.store := by
  unfold State.addInto
  dsimp only
  (repeat' split) <;> simp

@[simp] theorem State.serveAcc16_store (s : State) (p i line : Nat) (d : BitVec 2048) (b : Bool) (a : AddIn) :
    (s.serveAcc16 p i line d b a).store = s.store := by
  unfold State.serveAcc16
  dsimp only
  (repeat' split) <;> simp

@[simp] theorem State.serveAcc32_store (s : State) (p i line : Nat) (d : BitVec 2048) (b : Bool) (a : AddIn) :
    (s.serveAcc32 p i line d b a).store = s.store := by
  unfold State.serveAcc32
  dsimp only
  (repeat' split) <;> simp

@[simp] theorem State.serveReq_store (s : State) (i : Nat) (q : SiteReq) (a : AddIn) : (s.serveReq i q a).store = s.store := by
  cases q <;> simp [State.serveReq]

/-! ### Queues -/

@[simp] theorem State.drain_store (s : State) (i n : Nat) : (s.drain i n).store = s.store := by
  induction n generalizing s with
  | zero => rfl
  | succ n ih =>
    unfold State.drain
    split
    · rfl
    · split
      · rfl
      · simp [ih]

@[simp] theorem State.drainSite_store (s : State) (i : Nat) : (s.drainSite i).store = s.store := by
  simp only [State.drainSite, State.stallNow, State.stallEnd]
  (repeat' split) <;> simp

@[simp] theorem State.drainSites_store (s : State) : s.drainSites.store = s.store := foldl_keeps State.store (fun t i _ => t.drainSite_store i) s

@[simp] theorem State.request_store (s : State) (i : Nat) (q : SiteReq) (line : Nat) (p : Option Nat) (a : AddIn) (u : Option Nat) :
    (s.request i q line p a u).store = s.store := by
  simp only [State.request, State.enqueue]
  (repeat' split) <;> simp

/-! ### Transfers -/

@[simp] theorem State.leavePlace_store (s : State) (u : Nat) : (s.leavePlace u).store = s.store :=
  foldl_keeps State.store (fun _ _ _ => by split <;> rfl) s

@[simp] theorem State.edcLines_store (s : State) (ns : List Nat) (more : Nat) : (s.edcLines ns more).store = s.store :=
  foldl_keeps State.store (fun _ _ _ => by dsimp only; (repeat' split) <;> simp) s

@[simp] theorem State.takeLine_store (s : State) (n : Nat) : (s.takeLine n).1.store = s.store := by
  unfold State.takeLine
  dsimp only
  (repeat' split) <;> simp

@[simp] theorem State.takeLines_store (s : State) (ns : List Nat) : (s.takeLines ns).1.store = s.store :=
  foldl_keeps (fun x : State × Lines => x.1.store) (fun x n _ => x.1.takeLine_store n) (s, [])

end Sys2Proof.Machine
end

section
/-! SUPPORT. What the lines of a transfer answer, and the bytes that a transfer writes. -/

namespace Sys2Proof.Machine

/-! ### Answers of an access -/

/-- An access that goes on has met the errors of its lines and nothing else. -/
theorem State.access_ok {s t : State} {u p : Nat} {ns es : List Nat} (h : s.access u p ns es = .ok t) : t = s.edcLines es 0 := by
  unfold State.access at h
  split at h
  · cases h
  · dsimp only at h
    split at h
    · cases h
    · split at h
      · cases h
      · exact (Access.ok.inj h).symm

/-- The fault of an access is the one that its address raises. -/
theorem State.access_fault {s : State} {u p : Nat} {ns es : List Nat} {c a : Nat} (h : s.access u p ns es = .fault c a) :
    s.accessFault p a = some c := by
  unfold State.access at h
  split at h
  case h_1 x found =>
    obtain ⟨rfl, rfl⟩ := Access.fault.inj h
    obtain ⟨n, -, hn⟩ := List.exists_of_findSome?_eq_some found
    obtain ⟨c, hc, rfl⟩ := Option.map_eq_some_iff.1 hn
    exact hc
  case h_2 =>
    dsimp only at h
    split at h
    · cases h
    · split at h <;> cases h

/-- An address fault is a contained one. -/
theorem State.accessFault_class {s : State} {p a c : Nat} (h : s.accessFault p a = some c) : faultClass c = 1 := by
  have hc : c = 0x0201 ∨ c = 0x0301 ∨ c = 0x0120 := by
    unfold State.accessFault at h
    split at h
    · simp_all
    · simp_all
    · split at h <;> simp_all
    · split at h <;> simp_all
  rcases hc with rfl | rfl | rfl <;> rfl

theorem State.access_store {s t : State} {u p : Nat} {ns es : List Nat} (h : s.access u p ns es = .ok t) : t.store = s.store := by
  rw [State.access_ok h, State.edcLines_store]

/-- A block that is read leaves the tile stores as they are. -/
theorem State.readBlock_store {s t : State} {u plan : Nat} {p : Plan} {d : Desc} {ps ss : List (Option (List Nat))} {b : BlockIn}
    (h : s.readBlock u plan p d ps ss = .ok t b) : t.store = s.store := by
  unfold State.readBlock at h
  dsimp only at h
  split at h
  · cases h
  · cases h
  case h_3 s1 first =>
    split at h
    · split at h
      · cases h
      · cases h
      case h_3 s2 second =>
        split at h
        · cases h
        · cases h
        case h_3 s3 third =>
          obtain ⟨rfl, -⟩ := BlockRead.ok.inj h
          rw [State.takeLines_store, State.access_store third, State.takeLines_store, State.access_store second,
            State.takeLines_store, State.access_store first]
    · obtain ⟨rfl, -⟩ := BlockRead.ok.inj h
      rw [State.takeLines_store, State.access_store first]

/-- A block whose reading faults raises a contained fault. -/
theorem State.readBlock_fault {s : State} {u plan : Nat} {p : Plan} {d : Desc} {ps ss : List (Option (List Nat))} {c a : Nat}
    (h : s.readBlock u plan p d ps ss = .fault c a) : faultClass c = 1 := by
  unfold State.readBlock at h
  dsimp only at h
  split at h
  case h_1 first =>
    obtain ⟨rfl, rfl⟩ := BlockRead.fault.inj h
    exact State.accessFault_class (State.access_fault first)
  · cases h
  · split at h
    · split at h
      case h_1 second =>
        obtain ⟨rfl, rfl⟩ := BlockRead.fault.inj h
        exact State.accessFault_class (State.access_fault second)
      · cases h
      · split at h
        case h_1 third =>
          obtain ⟨rfl, rfl⟩ := BlockRead.fault.inj h
          exact State.accessFault_class (State.access_fault third)
        · cases h
        · cases h
    · cases h

/-! ### Bytes written -/

/-- An address that lies in a tile store is the store's own address. -/
theorem State.tileAddr_of_place {s : State} {a t off : Nat} (h : s.place a = .store t off) : tileAddr t off = a := by
  unfold State.place Sys2Proof.Machine.place at h
  dsimp only at h
  split at h
  · split at h
    · obtain ⟨rfl, rfl⟩ := Place.store.inj h
      unfold tileAddr
      omega
    · cases h
  · split at h
    · split at h <;> cases h
    · cases h

/-- A bit of a mask that is summed up element by element is that of an element which is there. -/
theorem testBit_foldl_isSome {α : Type} {xs : List (Option α)} {k acc i : Nat} (small : acc < 2 ^ k)
    (h : ((xs.zipIdx k).foldl (fun a e => if e.1.isSome then a + 2 ^ e.2 else a) acc).testBit i = true) :
    acc.testBit i = true ∨ ∃ e ∈ xs.zipIdx k, e.1.isSome = true ∧ e.2 = i := by
  induction xs generalizing k acc with
  | nil => exact .inl h
  | cons x xs ih =>
    have double : 2 ^ (k + 1) = 2 ^ k + 2 ^ k := by omega
    rw [List.zipIdx_cons, List.foldl_cons] at h
    cases x with
    | none =>
      refine (ih (Nat.lt_of_lt_of_le small (by omega)) h).imp_right fun ⟨e, he, there⟩ => ⟨e, ?_, there⟩
      exact List.mem_cons_of_mem _ he
    | some x =>
      have small' : acc + 2 ^ k < 2 ^ (k + 1) := by omega
      rcases ih small' h with bit | ⟨e, he, there⟩
      · rcases Nat.lt_trichotomy i k with lt | rfl | gt
        · rw [Nat.add_comm, Nat.testBit_two_pow_add_gt lt] at bit
          exact .inl bit
        · exact .inr ⟨(some x, i), List.mem_cons_self, rfl, rfl⟩
        · rw [Nat.testBit_lt_two_pow (Nat.lt_of_lt_of_le small' (Nat.pow_le_pow_right (by omega) gt))] at bit
          cases bit
      · exact .inr ⟨e, List.mem_cons_of_mem _ he, there⟩

/-- A byte of a line is valid only where one of the bytes given lies. -/
theorem State.lineOut_valid {s : State} {n i : Nat} {bs : List ByteOut} (h : (s.lineOut n bs).valid.getLsbD i = true) :
    ∃ b ∈ bs, b.addr = 256 * n + i := by
  unfold State.lineOut at h
  dsimp only at h
  rw [BitVec.getLsbD_ofNat, Bool.and_eq_true] at h
  rcases testBit_foldl_isSome (Nat.zero_lt_one) h.2 with none | ⟨e, he, there, rfl⟩
  · simp at none
  · obtain ⟨-, -, hx⟩ := List.mem_zipIdx he
    rw [hx] at there
    simp only [Nat.sub_zero, List.getElem_map, List.getElem_range] at there
    split at there
    · cases there
    case h_2 b more given =>
      have hb : b ∈ bs.filter fun b => b.addr == 256 * n + e.2 := by rw [given]; exact List.mem_cons_self
      obtain ⟨mem, addr⟩ := List.mem_filter.1 hb
      exact ⟨b, mem, by simpa using addr⟩

@[simp] theorem State.lineOut_num (s : State) (n : Nat) (bs : List ByteOut) : (s.lineOut n bs).num = n := rfl

/-- A line's write leaves every byte of the tile stores alone that is none of its valid ones. -/
theorem State.get_putLine (s : State) (u : Option Nat) (p : Nat) (l : LineOut) {x : Nat}
    (h : ∀ i, l.valid.getLsbD i = true → 256 * l.num + i ≠ x) :
    Sparse.get 0#8 (s.putLine u p l).store x = Sparse.get 0#8 s.store x := by
  unfold State.putLine
  split
  case h_1 t off here =>
    rw [State.tileAddr_of_place here]
    refine foldl_keeps (fun z : State => Sparse.get 0#8 z.store x) (fun z w _ => ?_) s
    dsimp only
    split
    · rfl
    · refine foldl_keeps (fun m => Sparse.get 0#8 m x) (fun m i hi => ?_) z.store
      split
      case isTrue bit =>
        have valid : l.valid.getLsbD (32 * w + i) = true := by
          simp only [bfld, fld, Nat.testBit_mod_two_pow, Nat.testBit_shiftRight, Bool.and_eq_true] at bit
          exact bit.2
        exact Sparse.get_set_ne m _ (by have := h _ valid; omega)
      · rfl
  · rw [State.request_store]
  · rfl

/-- A write of bytes leaves every other byte of the tile stores alone. -/
theorem State.get_putBytes (s : State) (u : Option Nat) (p : Nat) {bs : List ByteOut} {x : Nat} (h : ∀ b ∈ bs, b.addr ≠ x) :
    Sparse.get 0#8 (s.putBytes u p bs).store x = Sparse.get 0#8 s.store x := by
  refine foldl_keeps (fun z : State => Sparse.get 0#8 z.store x) (fun z n _ => ?_) s
  refine z.get_putLine u p _ fun i valid => ?_
  obtain ⟨b, hb, addr⟩ := State.lineOut_valid valid
  rw [State.lineOut_num, ← addr]
  exact h b (List.mem_filter.1 hb).1

/-- A transfer that ends writes its own bytes of the tile stores and no others; what waited behind it writes none. -/
theorem State.get_finishXfer (s : State) (u p : Nat) {bs : List ByteOut} {x : Nat} (h : ∀ b ∈ bs, b.addr ≠ x) :
    Sparse.get 0#8 (s.finishXfer u p bs).store x = Sparse.get 0#8 s.store x := by
  rw [State.finishXfer, State.drainSites_store, State.leavePlace_store, State.get_putBytes s _ p h]

theorem State.writable_store {s t : State} {u p : Nat} {bs : List ByteOut} (h : s.writable u p bs = .ok t) : t.store = s.store :=
  State.access_store h

theorem State.writable_fault {s : State} {u p : Nat} {bs : List ByteOut} {c a : Nat} (h : s.writable u p bs = .fault c a) :
    faultClass c = 1 := State.accessFault_class (State.access_fault h)

end Sys2Proof.Machine
end

section
/-! SUPPORT. What a contained fault does, and what a token's return does. -/

namespace Sys2Proof.Machine

/-! ### Contained faults -/

@[simp] theorem State.reportDone_plan (s : State) (p : Nat) : s.reportDone.plan p = s.plan p := by
  unfold State.reportDone
  (repeat' split) <;> rfl

@[simp] theorem State.stopCores_plan (s : State) (p j : Nat) : (s.stopCores p).plan j = s.plan j := rfl

theorem State.stopPlan_stops (s : State) (p : Nat) : ((s.stopPlan p).plan p).stopped = true := by
  unfold State.stopPlan
  dsimp only
  split <;> simp only [State.reportDone_plan, State.modFrm_plan, State.stopCores_plan, State.plan_modPlan]

theorem State.contain_plan (s : State) (p code : Nat) : (s.contain p code).plan p =
    { (s.stopPlan p).plan p with terminating := some (((s.stopPlan p).plan p).terminating.getD code) } :=
  State.plan_modPlan (s.stopPlan p) p fun x => { x with terminating := some (x.terminating.getD code) }

theorem State.contain_flt (s : State) (p code : Nat) : (s.contain p code).flt = s.flt := (State.stopPlan_stopped s p).flt
theorem State.contain_sites (s : State) (p code : Nat) : (s.contain p code).sites = s.sites := (State.stopPlan_stopped s p).sites

/-- What a contained fault does: it is logged and its plan stops; the tile stores and the sites stay as they are (14 R385). -/
structure Contained (code p : Nat) (s t : State) : Prop where
  logged : Logged code s t
  stopped : (t.plan p).stopped = true
  store : t.store = s.store
  sites : t.sites = s.sites

theorem State.fault_contains (s : State) (a : FaultArg) {p code : Nat} (cls : a.class = 1) (plan : a.plan = some p)
    (ofCode : a.code = code) : Contained code p s (s.fault a) := by
  subst ofCode
  rw [State.fault_contained s a p cls plan]
  constructor
  case logged =>
    have log : Logged a.code s (s.raise a) := s.raise_logged a
    rwa [Logged, ← (s.raise a).contain_flt p a.code] at log
  case stopped =>
    rw [State.contain_plan]
    exact (s.raise a).stopPlan_stops p
  case store => rw [State.contain_store, State.raise_store]
  case sites => rw [State.contain_sites, State.raise_sites]

/-- An address fault is contained. -/
theorem State.accessRaise_contains (s : State) (p a unitk unit : Nat) {code : Nat} (cls : faultClass code = 1) :
    Contained code p s (s.accessRaise p code a unitk unit) := by
  unfold State.accessRaise
  split
  case isTrue site =>
    subst site
    unfold State.siteRange
    dsimp only
    exact s.fault_contains _ rfl rfl rfl
  case isFalse => exact s.fault_contains _ cls rfl rfl

/-! ### Tokens -/

/-- Count of token counter `n` of tile `t`. -/
def State.tokens (s : State) (t n : Nat) : Nat := (Sparse.get 0#24 (s.tile t).tok n).toNat

/-- An addition that stays in range adds to its counter and to no other; memory, cores, the frame and the faults stay as they are. -/
theorem State.addToken_of_lt {s : State} {p g n inc : Nat} (h : s.tokens g n + inc < 2 ^ 24) :
    ∃ t, s.addToken p g n inc = some t ∧ t.tokens g n = s.tokens g n + inc ∧
      (∀ j m, j ≠ g ∨ m ≠ n → t.tokens j m = s.tokens j m) ∧
      t.store = s.store ∧ t.sites = s.sites ∧ t.cores = s.cores ∧ t.flt = s.flt ∧ t.frm = s.frm := by
  unfold State.addToken
  dsimp only
  refine ⟨_, if_pos h, ?_, fun j m other => ?_, rfl, rfl, rfl, rfl, rfl⟩
  · simp only [State.tokens, State.modPlan_tile, State.tile_modTile, Sparse.get_set_self]
    exact (BitVec.toNat_ofNat ..).trans (Nat.mod_eq_of_lt h)
  · simp only [State.tokens, State.modPlan_tile]
    by_cases tile : j = g
    · subst tile
      rw [State.tile_modTile, Sparse.get_set_ne _ _ (other.resolve_left (· rfl))]
    · rw [State.tile_modTile_ne s _ tile]

theorem State.addToken_of_ge {s : State} {p g n inc : Nat} (h : 2 ^ 24 ≤ s.tokens g n + inc) : s.addToken p g n inc = none := by
  unfold State.addToken
  exact if_neg (Nat.not_lt.2 h)

end Sys2Proof.Machine
end

section
/-! SUPPORT. The two commands of a mover slot, case by case. -/

namespace Sys2Proof.Machine

/-! ### Slots -/

@[simp] theorem State.slot?_modSlot (s : State) (i : Nat) (f : SlotRun → SlotRun) : (s.modSlot i f).slot? i = (s.slot? i).map f :=
  List.getElem?_modify_eq f i s.frm.slots

theorem State.slot?_modSlot_ne (s : State) {i j : Nat} (f : SlotRun → SlotRun) (h : j ≠ i) : (s.modSlot i f).slot? j = s.slot? j :=
  List.getElem?_modify_ne f s.frm.slots h.symm

@[simp] theorem State.modSlot_store (s : State) (i : Nat) (f : SlotRun → SlotRun) : (s.modSlot i f).store = s.store := rfl

/-- A mover slot that runs is one of the frame's slots. -/
theorem State.slot?_of_moverSlot {s : State} {i : Nat} {r : SlotRun} {q : Plan} (h : s.moverSlot i = some (r, q)) :
    s.slot? i = some r := by
  unfold State.moverSlot at h
  split at h
  case h_1 r' slot =>
    split at h
    · obtain ⟨p, -, e⟩ := Option.map_eq_some_iff.1 h
      rw [slot, (Prod.mk.inj e).1]
    · cases h
  case h_2 => cases h

/-! ### One command's move (05 R145) -/

/-- Descriptors of a command's source and destination. -/
def moverSrc (q : Plan) (w : BitVec 256) : Desc := q.descs.getD (mcf w 0 48 16) 0#1024
def moverDst (q : Plan) (w : BitVec 256) : Desc := q.descs.getD (mcf w 0 32 16) 0#1024

/-- The reading of a command's block. -/
def State.moverRead (s : State) (u p : Nat) (q : Plan) (w : BitVec 256) : BlockRead :=
  s.readBlock u p q (moverSrc q w) ((moverSrc q w).block (mcf w 1 0 32) (mcf w 1 32 32) (mcf w 2 0 32))
    ((moverSrc q w).scaleBlock (mcf w 1 0 32) (mcf w 1 32 32) (mcf w 2 0 32))

/-- The bytes that a command writes of the block it has read. -/
def moverOut (q : Plan) (w : BitVec 256) (b : BlockIn) : List ByteOut :=
  (moverDst q w).blockOut q
    (moved (moverSrc q w).fill ((moverDst q w).block (mcf w 2 32 32) (mcf w 3 0 32) (mcf w 3 32 32)) b.elems)
    (moved 127 ((moverDst q w).scaleBlock (mcf w 2 32 32) (mcf w 3 0 32) (mcf w 3 32 32)) b.scales)

theorem State.move_empty {s : State} {u p : Nat} {q : Plan} {w : BitVec 256}
    (h : (moverSrc q w).empty = true ∨ (moverDst q w).empty = true) : s.move u p q w = .ok s :=
  if_pos (Bool.or_eq_true_iff.2 h)

theorem State.move_ok {s y z : State} {u p : Nat} {q : Plan} {w : BitVec 256} {b : BlockIn} (src : (moverSrc q w).empty = false)
    (dst : (moverDst q w).empty = false) (read : s.moverRead u p q w = .ok y b) (write : y.writable u p (moverOut q w b) = .ok z) :
    s.move u p q w = .ok (z.finishXfer u p (moverOut q w b)) := by
  simp only [moverSrc, moverDst] at src dst
  simp only [State.moverRead, moverSrc] at read
  simp only [moverOut, moverSrc, moverDst] at write ⊢
  simp only [State.move, src, dst, Bool.or_false, Bool.false_eq_true, if_false, read, write]

/-- A command that faults raises a contained fault. -/
theorem State.move_fault {s : State} {u p : Nat} {q : Plan} {w : BitVec 256} {c a : Nat} (h : s.move u p q w = .fault c a) :
    faultClass c = 1 := by
  unfold State.move at h
  dsimp only at h
  split at h
  · cases h
  · split at h
    case h_1 read =>
      obtain ⟨rfl, rfl⟩ := MoveOut.fault.inj h
      exact State.readBlock_fault read
    · cases h
    · split at h
      case h_1 write =>
        obtain ⟨rfl, rfl⟩ := MoveOut.fault.inj h
        exact State.writable_fault write
      · cases h
      · cases h

/-! ### The commands -/

theorem moverCommand_stalled {i : Nat} {s : State} (h : s.stalled (moverUnit i) = true) : moverCommand i s = s := by
  simp [moverCommand, h]

theorem moverComplete_stalled {i : Nat} {s : State} (h : s.stalled (moverUnit i) = true) : moverComplete i s = s := by
  simp [moverComplete, h]

section
variable {i : Nat} {r : SlotRun} {q : Plan} {w : BitVec 256} {s : State}
variable (slot : s.moverSlot i = some (r, q)) (turn : s.stalled (moverUnit i) = false)
include slot turn

section
variable (next : (q.moverList r.entry.addr)[r.issued]? = some w)
include next

theorem moverCommand_of_ok {t : State} (h : s.move (moverUnit i) r.entry.plan q w = .ok t) :
    moverCommand i s = t.modSlot i fun r => { r with issued := r.issued + 1 } := by
  simp only [moverCommand, turn, slot, next, h, Bool.false_eq_true, if_false]

theorem moverCommand_of_wait {t : State} (h : s.move (moverUnit i) r.entry.plan q w = .wait t) : moverCommand i s = t := by
  simp only [moverCommand, turn, slot, next, h, Bool.false_eq_true, if_false]

/-- A move that faults stops the plan and moves nothing, also where the block had been read (01 R29). -/
theorem moverCommand_of_fault {c a : Nat} (h : s.move (moverUnit i) r.entry.plan q w = .fault c a) :
    Contained c r.entry.plan s (moverCommand i s) := by
  simp only [moverCommand, turn, slot, next, h, Bool.false_eq_true, if_false]
  exact s.accessRaise_contains _ _ _ _ (State.move_fault h)

end

/-- The state in which command `completed` of slot `i` has completed and its token is under way. -/
def completing (i p : Nat) (s : State) : State := (s.modSlot i fun r => { r with completed := r.completed + 1 }).issueToken p 1

section
variable (oldest : (q.moverList r.entry.addr)[r.completed]? = some w) (busy : r.completed < r.issued)
include oldest busy

theorem moverComplete_of_some {t : State}
    (h : (completing i r.entry.plan s).addToken r.entry.plan (mcf w 0 28 4) (mcf w 0 16 12) 1 = some t) : moverComplete i s = t := by
  simp only [completing] at h
  simp only [moverComplete, turn, slot, oldest, Nat.not_le.2 busy, h, Bool.false_eq_true, if_false]

theorem moverComplete_of_none (h : (completing i r.entry.plan s).addToken r.entry.plan (mcf w 0 28 4) (mcf w 0 16 12) 1 = none) :
    Contained 0x0207 r.entry.plan (completing i r.entry.plan s) (moverComplete i s) := by
  simp only [completing] at h
  simp only [moverComplete, turn, slot, oldest, Nat.not_le.2 busy, h, Bool.false_eq_true, if_false]
  exact State.fault_contains _ _ rfl rfl rfl

/-- The token of the oldest command in progress comes back to the counter that the command names, and to no other. -/
theorem moverComplete_returns (room : s.tokens (mcf w 0 28 4) (mcf w 0 16 12) + 1 < 2 ^ 24) :
    (moverComplete i s).tokens (mcf w 0 28 4) (mcf w 0 16 12) = s.tokens (mcf w 0 28 4) (mcf w 0 16 12) + 1 ∧
    (∀ j m, j ≠ mcf w 0 28 4 ∨ m ≠ mcf w 0 16 12 → (moverComplete i s).tokens j m = s.tokens j m) ∧
    (moverComplete i s).store = s.store ∧ (moverComplete i s).sites = s.sites ∧ (moverComplete i s).cores = s.cores ∧
    (moverComplete i s).flt = s.flt ∧ (moverComplete i s).frm = (completing i r.entry.plan s).frm := by
  obtain ⟨t, added, spec⟩ := State.addToken_of_lt (s := completing i r.entry.plan s) (p := r.entry.plan) room
  rw [moverComplete_of_some slot turn oldest busy added]
  exact spec

/-- A counter that is full raises TOKEN_RANGE (03 R102). -/
theorem moverComplete_overflows (full : 2 ^ 24 ≤ s.tokens (mcf w 0 28 4) (mcf w 0 16 12) + 1) :
    Contained 0x0207 r.entry.plan s (moverComplete i s) := by
  obtain ⟨logged, stopped, store, sites⟩ := moverComplete_of_none slot turn oldest busy
    (State.addToken_of_ge (s := completing i r.entry.plan s) (p := r.entry.plan) full)
  exact ⟨logged, stopped, store, sites⟩

end
end

/-- Settles O36, command by command: an empty tensor moves nothing; a move that has its turn writes its own bytes
(`State.get_finishXfer`); a fault is contained; a completion adds one token or overflows its counter. -/
theorem moversMoveBlocksAndReturnTokens : Obligations.MoversMoveBlocksAndReturnTokens := by
  intro i r q w s slot src dst p m
  refine ⟨fun waits => ?stalled, fun turn next => ⟨fun empty => ?empty, ?moves, fun c a fault => ?fault, fun z wait => ?wait⟩,
    fun turn oldest busy => ?completes⟩
  case stalled =>
    exact ⟨congrArg Host.Outcome.next (moverCommand_stalled waits), congrArg Host.Outcome.next (moverComplete_stalled waits)⟩
  case empty =>
    refine ⟨_, congrArg Host.Outcome.next (moverCommand_of_ok slot turn next (State.move_empty empty)), ?_, fun j other => ?_, rfl⟩
    · rw [State.slot?_modSlot, State.slot?_of_moverSlot slot]
      rfl
    · exact s.slot?_modSlot_ne _ other
  case moves =>
    intro y b srcFull dstFull read out z write u
    refine ⟨_, congrArg Host.Outcome.next (moverCommand_of_ok slot turn next (State.move_ok srcFull dstFull read write)), rfl,
      State.slot?_modSlot u i _, fun x outside => ?_⟩
    rw [State.modSlot_store, State.get_finishXfer z _ _ (bs := moverOut q w b) outside, State.writable_store write,
      State.readBlock_store read]
  case fault =>
    obtain ⟨logged, stopped, store, -⟩ := moverCommand_of_fault slot turn next fault
    exact ⟨_, rfl, logged, stopped, store⟩
  case wait => exact congrArg Host.Outcome.next (moverCommand_of_wait slot turn next wait)
  case completes =>
    intro g n tok
    refine ⟨moverComplete i s, rfl, ?_⟩
    rcases Nat.lt_or_ge (tok s g n + 1) (2 ^ 24) with room | full
    · obtain ⟨returned, others, store, sites, cores, flt, frm⟩ := moverComplete_returns slot turn oldest busy room
      refine ⟨store, sites, fun _ => ⟨returned, others, ?_, fun j other => ?_, cores, flt⟩, fun full => absurd full (Nat.not_le.2 room)⟩
      · rw [State.slot?, frm]
        exact (s.slot?_modSlot i _).trans (congrArg _ (State.slot?_of_moverSlot slot))
      · rw [State.slot?, frm]
        exact s.slot?_modSlot_ne _ other
    · obtain ⟨logged, stopped, store, sites⟩ := moverComplete_overflows slot turn oldest busy full
      exact ⟨store, sites, fun room => absurd full (Nat.not_le.2 room), fun _ => ⟨logged, stopped⟩⟩

end Sys2Proof.Machine
end

section
/-! SUPPORT. What the sites do for a request, for all that it does not touch: it works on the sites, the reduction state of the plans,
the reports of the frame and what is sent, and it raises faults. What none of these changes, no write of bytes changes. -/

namespace Sys2Proof.Machine

/-- `g` reads nothing that a site's service writes. -/
structure SiteBlind {β : Type} (g : State → β) : Prop where
  modSite : ∀ s i f, g (s.modSite i f) = g s
  modRed : ∀ s p f, g (s.modRed p f) = g s
  modLayer : ∀ s p l f, g (s.modLayer p l f) = g s
  modFrm : ∀ s f, g (s.modFrm f) = g s
  send : ∀ s o, g (s.send o) = g s
  fault : ∀ s a, g (s.fault a) = g s
  setStore : ∀ (s : State) marks bytes, g { s with storePoison := marks, store := bytes } = g s

namespace SiteBlind

section
variable {β : Type} {g : State → β} (blind : SiteBlind g) (s : State)
include blind

/-! ### EDC and holds -/

theorem siteFault (code i line : Nat) (plan cls : Option Nat) : g (s.siteFault code i line plan cls) = g s := blind.fault s _

theorem redFault (code p layer round : Nat) (d : W64) : g (s.redFault code p layer round d) = g s := blind.fault s _

theorem holdSite (i : Nat) : g (s.holdSite i) = g s := by
  unfold State.holdSite
  split
  · rfl
  · rw [blind.siteFault, blind.modSite]

theorem edcRetries (i line n : Nat) : g (s.edcRetries i line n) = g s := by
  unfold State.edcRetries
  extract_lets t
  have ht : g t = g s := foldl_keeps g (fun _ _ _ => by rw [blind.siteFault, blind.modSite]) _
  split
  · rw [blind.holdSite, ht]
  · exact ht

theorem edc (i line : Nat) (x : Xfer) (q : SiteReq) : g (s.edc i line x q).1 = g s := by
  unfold State.edc
  dsimp only
  split
  · rw [blind.modSite, blind.holdSite, blind.edcRetries]
  · exact blind.edcRetries ..

theorem gate (i line : Nat) (x : Xfer) (q : SiteReq) : g (s.gate i line x q).1 = g s := by
  rw [State.gate, blind.edc, State.meets, blind.modSite]

theorem gates (i : Nat) (q : SiteReq) (ls : List Nat) : g (s.gates i q ls).1 = g s := by
  induction ls generalizing s with
  | nil => rfl
  | cons l ls ih =>
    simp only [State.gates]
    split
    · exact blind.gate ..
    · rw [ih, blind.gate]

/-! ### Lines -/

theorem candidate (i grp : Nat) : g (s.candidate i grp) = g s := blind.modSite ..
theorem storeLine (i line : Nat) (l : Line) : g (s.storeLine i line l) = g s := blind.modSite ..
theorem dropEntry (i line : Nat) : g (s.dropEntry i line) = g s := blind.modSite ..

theorem corrected (i line : Nat) : g (s.corrected i line) = g s := by
  unfold State.corrected
  dsimp only
  split
  · rw [blind.candidate, blind.modSite]
  · exact blind.modSite ..

theorem fetchLine (i line : Nat) (x : Xfer) : g (s.fetchLine i line x).1 = g s := by
  unfold State.fetchLine
  dsimp only
  (repeat' split) <;> simp only [blind.candidate, blind.siteFault, blind.storeLine, blind.corrected, blind.modSite]

theorem pokeSite (a : Nat) (v : W64) : g (s.pokeSite a v) = g s := by
  unfold State.pokeSite
  split
  · exact blind.storeLine ..
  · rfl

/-! ### Seals -/

theorem sealStands (p : Nat) (r : Rec) (k : Nat) (d : BitVec 2048) : g (s.sealStands p r k d) = g s := by
  unfold State.sealStands
  dsimp only
  (repeat' split) <;> simp only [blind.redFault, blind.modRed, blind.modLayer, blind.modFrm]

theorem sealCheck (a : Nat) (d : BitVec 2048) : g (s.sealCheck a d) = g s := by
  unfold State.sealCheck
  dsimp only
  (repeat' split) <;> simp only [blind.sealStands, blind.redFault, blind.modRed]

theorem putData (i line : Nat) (d : BitVec 2048) (b : Bool) : g (s.putData i line d b) = g s := by
  rw [State.putData, blind.sealCheck, blind.storeLine]

theorem sinkCheck (i line : Nat) (m : BitVec 8) : g (s.sinkCheck i line m).1 = g s := by
  unfold State.sinkCheck
  (repeat' split) <;> simp only [blind.siteFault]

/-! ### Requests -/

theorem mergeEntry (i : Nat) (e : WcbEntry) (x : Xfer) (q : SiteReq) : g (s.mergeEntry i e x q).1 = g s := by
  unfold State.mergeEntry
  dsimp only
  (repeat' split) <;> simp only [blind.putData, blind.dropEntry, blind.gates, blind.fetchLine]

theorem openLine (i line : Nat) (x : Xfer) (q : SiteReq) : g (s.open i line x q).1 = g s := by
  unfold State.open
  dsimp only
  (repeat' split) <;> simp only [blind.gate, blind.mergeEntry]

theorem merge (i line : Nat) (x : Xfer) : g (s.merge i line x) = g s := by
  unfold State.merge
  dsimp only
  (repeat' split) <;> simp only [blind.gate, blind.mergeEntry]

theorem serveRead (i line : Nat) (x : Xfer) : g (s.serveRead i line x).1 = g s := by
  unfold State.serveRead
  dsimp only
  (repeat' split) <;> simp only [blind.send, blind.modSite, blind.fetchLine, blind.openLine]

theorem serveFull (i line : Nat) (d : BitVec 2048) (m : BitVec 8) (p : Option Nat) (x : Xfer) :
    g (s.serveFull i line d m p x) = g s := by
  unfold State.serveFull
  dsimp only
  (repeat' split) <;> simp only [blind.putData, blind.dropEntry, blind.sinkCheck, blind.gate]

theorem servePart (i line : Nat) (d : BitVec 2048) (v : BitVec 256) (m : BitVec 8) (p : Option Nat) :
    g (s.servePart i line d v m p) = g s := by
  unfold State.servePart
  dsimp only
  (repeat' split) <;> simp only [blind.merge, blind.serveFull, blind.modSite, blind.sinkCheck]

/-! ### Additions -/

theorem checkAdd (r : RedArea) (n : Int) : g (s.checkAdd r n) = g s := by
  unfold State.checkAdd
  split
  · exact blind.pokeSite ..
  · rfl

theorem addGood (p i line : Nat) (r : RedArea) (a : AddOut) (d : BitVec 2048) : g (s.addGood p i line r a d) = g s := by
  unfold State.addGood
  dsimp only
  split <;> simp only [blind.redFault, blind.checkAdd, blind.storeLine]

theorem addInto (p i line : Nat) (r : RedArea) (xs : List Int) (m : Int) (b : Bool) (e f : BitVec 2048) (x : Xfer) :
    g (s.addInto p i line r xs m b e f x) = g s := by
  unfold State.addInto
  dsimp only
  (repeat' split) <;>
    simp only [blind.siteFault, blind.redFault, blind.storeLine, blind.addGood, blind.modRed, blind.fetchLine]

theorem serveAcc16 (p i line : Nat) (d : BitVec 2048) (b : Bool) (a : AddIn) : g (s.serveAcc16 p i line d b a) = g s := by
  unfold State.serveAcc16
  dsimp only
  (repeat' split) <;> simp only [blind.redFault, blind.addInto, blind.gates, blind.openLine]

theorem serveAcc32 (p i line : Nat) (d : BitVec 2048) (b : Bool) (a : AddIn) : g (s.serveAcc32 p i line d b a) = g s := by
  unfold State.serveAcc32
  dsimp only
  (repeat' split) <;> simp only [blind.redFault, blind.addInto, blind.gates, blind.openLine]

/-! ### Queues -/

theorem serveReq (i : Nat) (q : SiteReq) (a : AddIn) : g (s.serveReq i q a) = g s := by
  cases q with
  | read line => exact blind.serveRead ..
  | full line d marks plan => exact blind.serveFull ..
  | part line d valid marks plan u => exact blind.servePart ..
  | acc16 line d poison p => exact blind.serveAcc16 ..
  | acc32 line d poison p => exact blind.serveAcc32 ..
  | merge line => exact blind.merge ..
  | unit => rfl

theorem drain (i n : Nat) : g (s.drain i n) = g s := by
  induction n generalizing s with
  | zero => rfl
  | succ n ih =>
    unfold State.drain
    (repeat' split) <;> simp only [ih, blind.serveReq, blind.modSite]

theorem drainSite (i : Nat) : g (s.drainSite i) = g s := by
  simp only [State.drainSite, State.stallNow, State.stallEnd]
  (repeat' split) <;> simp only [blind.modSite, blind.drain]

theorem enqueue (i : Nat) (q : SiteReq) (u : Option Nat) : g (s.enqueue i q u) = g s := blind.modSite ..

theorem request (i : Nat) (q : SiteReq) (line : Nat) (p : Option Nat) (a : AddIn) (u : Option Nat) :
    g (s.request i q line p a u) = g s := by
  unfold State.request
  dsimp only
  (repeat' split) <;>
    simp only [blind.siteFault, blind.drainSite, blind.enqueue, blind.send, blind.modSite, blind.serveReq]

/-! ### Writes -/

theorem putLine (u : Option Nat) (p : Nat) (l : LineOut) : g (s.putLine u p l) = g s := by
  unfold State.putLine
  split
  · refine foldl_keeps g (fun z w _ => ?_) s
    dsimp only
    split
    · rfl
    · exact blind.setStore ..
  · exact blind.request ..
  · rfl

theorem putBytes (u : Option Nat) (p : Nat) (bs : List ByteOut) : g (s.putBytes u p bs) = g s :=
  foldl_keeps g (fun z _ _ => blind.putLine z u p _) s

end
end SiteBlind

/-! ### The tiles and the segments -/

@[simp] theorem State.stopPlan_tiles (s : State) (p : Nat) : (s.stopPlan p).tiles = s.tiles := (State.stopPlan_stopped s p).tiles

@[simp] theorem State.contain_tiles (s : State) (p code : Nat) : (s.contain p code).tiles = s.tiles := State.stopPlan_tiles s p

@[simp] theorem State.fatal_tiles (s : State) : s.fatal.tiles = s.tiles := (State.stopAll_stopped _ _).tiles

theorem State.fault_tiles (s : State) (a : FaultArg) : (s.fault a).tiles = s.tiles := by
  unfold State.fault
  dsimp only
  split
  · rw [State.contain_tiles, State.raise_tiles]
  · exact s.raise_tiles a
  · rw [State.fatal_tiles, State.raise_tiles]
  · exact s.raise_tiles a

/-- An update of a plan's record that leaves its segments leaves the segments of every plan. -/
theorem State.modPlan_segs (s : State) (p j : Nat) {f : PlanSt → PlanSt} (h : ∀ x, (f x).segs = x.segs := by exact fun _ => rfl) :
    ((s.modPlan p f).plan j).segs = (s.plan j).segs := by
  by_cases e : j = p
  · rw [e, State.plan_modPlan, h]
  · rw [State.plan_modPlan_ne s f e]

theorem State.stopPlan_segs (s : State) (p j : Nat) : ((s.stopPlan p).plan j).segs = (s.plan j).segs := by
  have stop : ((s.modPlan p fun x => { x with stopped := true }).plan j).segs = (s.plan j).segs := s.modPlan_segs p j
  unfold State.stopPlan
  dsimp only
  split
  · rwa [State.reportDone_plan, State.modFrm_plan, State.stopCores_plan]
  · rwa [State.modFrm_plan, State.stopCores_plan]

theorem State.contain_segs (s : State) (p code j : Nat) : ((s.contain p code).plan j).segs = (s.plan j).segs := by
  have ends : (((s.stopPlan p).modPlan p fun x => { x with terminating := some (x.terminating.getD code) }).plan j).segs =
    ((s.stopPlan p).plan j).segs := (s.stopPlan p).modPlan_segs p j
  exact ends.trans (s.stopPlan_segs p j)

theorem State.fatal_segs (s : State) (j : Nat) : (s.fatal.plan j).segs = (s.plan j).segs :=
  foldl_keeps (fun z : State => (z.plan j).segs) (fun z p _ => z.stopPlan_segs p j) _

theorem State.raise_plan (s : State) (a : FaultArg) (j : Nat) : (s.raise a).plan j = s.plan j := by
  rw [State.plan, State.raise_plans, ← State.plan]

theorem State.fault_segs (s : State) (a : FaultArg) (j : Nat) : ((s.fault a).plan j).segs = (s.plan j).segs := by
  unfold State.fault
  dsimp only
  split
  · rw [State.contain_segs, State.raise_plan]
  · exact congrArg PlanSt.segs (s.raise_plan a j)
  · rw [State.fatal_segs, State.raise_plan]
  · rw [State.raise_plan]

/-- The sites' service leaves the tiles alone. -/
theorem siteBlind_tiles : SiteBlind State.tiles where
  modSite _ _ _ := rfl
  modRed _ _ _ := rfl
  modLayer _ _ _ _ := rfl
  modFrm _ _ := rfl
  send _ _ := rfl
  fault := State.fault_tiles
  setStore _ _ _ := rfl

/-- The sites' service leaves the segments that a plan has closed alone. -/
theorem siteBlind_segs (j : Nat) : SiteBlind fun s => (s.plan j).segs where
  modSite _ _ _ := rfl
  modRed s p _ := s.modPlan_segs p j
  modLayer s p _ _ := s.modPlan_segs p j
  modFrm _ _ := rfl
  send _ _ := rfl
  fault s a := s.fault_segs a j
  setStore _ _ _ := rfl

end Sys2Proof.Machine
end

section
/-! SUPPORT. Count words, and the close of an expert segment (08 R218, R219, R222, R225). -/

namespace Sys2Proof.Machine

/-! ### Count words -/

/-- Count word `i` of tile `t`. -/
def State.countWord (s : State) (t i : Nat) : W32 := Sparse.get 0#32 (s.tile t).cw i

/-- One tile's part of `State.setCw`. -/
def State.setTileCw (q : Plan) (i : Nat) (v : W32) (s : State) (t : Nat) : State :=
  if q.hasTile t then s.modTile t fun x => { x with cw := Sparse.set 0#32 x.cw i v } else s

theorem State.setCw_eq (s : State) (q : Plan) (i : Nat) (v : W32) : s.setCw q i v = (List.range 16).foldl (State.setTileCw q i v) s := rfl

theorem State.countWord_setTileCw_self (s : State) {q : Plan} {t : Nat} (i : Nat) (v : W32) (has : q.hasTile t = true) :
    (s.setTileCw q i v t).countWord t i = v := by
  rw [State.setTileCw, if_pos has, State.countWord, State.tile_modTile, Sparse.get_set_self]

theorem State.countWord_setTileCw_ne (s : State) {q : Plan} {i j k t : Nat} (v : W32)
    (h : k ≠ t ∨ j ≠ i ∨ q.hasTile k = false) : (s.setTileCw q i v t).countWord k j = s.countWord k j := by
  unfold State.setTileCw State.countWord
  split
  case isTrue has =>
    by_cases e : k = t
    · subst e
      rcases h with h | h | h
      · exact absurd rfl h
      · rw [State.tile_modTile, Sparse.get_set_ne _ _ h]
      · rw [has] at h
        cases h
    · rw [State.tile_modTile_ne s _ e]
  case isFalse => rfl

/-- Another word, or one of a tile outside the region, stays as it is. -/
theorem State.countWord_setCw_ne (s : State) {q : Plan} {i j k : Nat} (v : W32) (h : j ≠ i ∨ q.hasTile k = false) :
    (s.setCw q i v).countWord k j = s.countWord k j := by
  rw [State.setCw_eq]
  exact foldl_keeps (fun z : State => z.countWord k j) (fun z _ _ => z.countWord_setTileCw_ne v (.inr h)) s

/-- What one element of a list brings about and every step keeps, its fold brings about. -/
theorem foldl_reaches {σ α : Type} {P : σ → Prop} {f : σ → α → σ} {a : α} (keeps : ∀ s b, P s → P (f s b)) (sets : ∀ s, P (f s a)) :
    ∀ {l : List α}, a ∈ l → ∀ s, P (l.foldl f s)
  | b :: l, h, s => by
    rcases List.mem_cons.1 h with rfl | h
    · exact List.foldlRecOn (motive := P) l f (sets s) fun z hz c _ => keeps z c hz
    · exact foldl_reaches keeps sets h (f s b)

/-- The word of a tile of the region takes the value. -/
theorem State.countWord_setCw_self (s : State) {q : Plan} {k : Nat} (i : Nat) (v : W32) (lt : k < 16) (has : q.hasTile k = true) :
    (s.setCw q i v).countWord k i = v := by
  rw [State.setCw_eq]
  refine foldl_reaches (P := fun z : State => z.countWord k i = v) (fun z t hz => ?_)
    (fun z => z.countWord_setTileCw_self i v has) (List.mem_range.2 lt) s
  by_cases e : t = k
  · rw [e]
    exact z.countWord_setTileCw_self i v has
  · exact (z.countWord_setTileCw_ne v (.inl (Ne.symm e))).trans hz

@[simp] theorem State.setTileCw_plans (s : State) (q : Plan) (i : Nat) (v : W32) (t : Nat) : (s.setTileCw q i v t).plans = s.plans := by
  unfold State.setTileCw
  split <;> rfl

@[simp] theorem State.setTileCw_store (s : State) (q : Plan) (i : Nat) (v : W32) (t : Nat) : (s.setTileCw q i v t).store = s.store := by
  unfold State.setTileCw
  split <;> rfl

@[simp] theorem State.setCw_store (s : State) (q : Plan) (i : Nat) (v : W32) : (s.setCw q i v).store = s.store := by
  rw [State.setCw_eq]
  exact foldl_keeps State.store (fun z t _ => z.setTileCw_store q i v t) s

@[simp] theorem State.setCw_plans (s : State) (q : Plan) (i : Nat) (v : W32) : (s.setCw q i v).plans = s.plans := by
  rw [State.setCw_eq]
  exact foldl_keeps State.plans (fun z t _ => z.setTileCw_plans q i v t) s

@[simp] theorem State.setCw_plan (s : State) (q : Plan) (i : Nat) (v : W32) (j : Nat) : (s.setCw q i v).plan j = s.plan j := by
  rw [State.plan, State.setCw_plans, ← State.plan]

/-! ### Segments -/

/-- The rows of a segment that QUOTA lets in. -/
@[simp] theorem withinQuota_rows (g : SegIn) (quota : Nat) : (withinQuota g quota).rows = g.rows.filter fun r => decide (r < quota) := by
  unfold withinQuota
  split
  case isTrue shut =>
    subst shut
    simp
  case isFalse => rfl

@[simp] theorem withinQuota_word (g : SegIn) (quota : Nat) : (withinQuota g quota).word = g.word := by
  unfold withinQuota
  split <;> rfl

/-- The fill goes by the rows that QUOTA lets in. -/
theorem segFill_withinQuota (q : Plan) (g : SegIn) (quota : Nat) :
    segFill q (withinQuota g quota) = segFill q { g with rows := g.rows.filter fun r => decide (r < quota) } := by
  rw [← withinQuota_rows]
  unfold withinQuota
  split <;> rfl

/-- The entry of a segment as it closes with its layer's QUOTA: with 0 all its assignments are declined (R225). -/
def closedSegment (g : SegIn) (quota : Nat) : Segment :=
  ⟨g.layer, g.seg, g.assigned, (g.rows.filter fun r => decide (r < quota)).length, if quota = 0 then g.assigned else g.declined,
    if quota = 0 then 0 else g.dispatched, if quota = 0 then 0 else g.returned, true⟩

theorem closedSegment_eq (g : SegIn) (quota : Nat) :
    ({ layer := (withinQuota g quota).layer, seg := (withinQuota g quota).seg, assigned := (withinQuota g quota).assigned,
       accepted := (withinQuota g quota).rows.length, declined := (withinQuota g quota).declined,
       dispatched := (withinQuota g quota).dispatched, returned := (withinQuota g quota).returned, closed := true } : Segment) =
      closedSegment g quota := by
  rw [withinQuota_rows]
  unfold withinQuota closedSegment
  split <;> rfl

/-! ### The close of a segment -/

/-- A segment of a plan without a training record, or of a layer without an expert entry, closes nothing. -/
theorem segmentClose_unnamed {p : Nat} {g : SegIn} {q : Plan} {s : State} (img : s.img? p = some q)
    (unnamed : q.training = none ∨ (q.experts.any fun e => rf e 0 48 16 == g.layer) = false) : segmentClose p g s = s := by
  simp only [segmentClose, img]
  refine if_pos ?_
  rcases unnamed with absent | unnamed
  · simp [absent]
  · simp [unnamed]

/-- The state in which the fill and the count word of segment `g` have been written. -/
def State.segmentWritten (s : State) (p : Nat) (q : Plan) (g : SegIn) : State :=
  (s.putBytes none p (segFill q g)).setCw q g.word (BitVec.ofNat 32 (segBlocks g))

theorem segmentClose_eq {p : Nat} {g : SegIn} {q : Plan} {s : State} (img : s.img? p = some q) (executes : (s.plan p).executes = true)
    (training : q.training ≠ none) (expert : (q.experts.any fun e => rf e 0 48 16 == g.layer) = true) :
    segmentClose p g s = (s.segmentWritten p q (withinQuota g (q.quota g.layer))).modPlan p fun x =>
      { x with segs := x.segs ++ [closedSegment g (q.quota g.layer)] } := by
  have present : q.training.isNone = false := Option.isNone_eq_false_iff.2 (Option.isSome_iff_ne_none.2 training)
  simp only [segmentClose, img, executes, present, expert, closedSegment_eq]
  rfl

section
variable (s : State) (p : Nat) (q : Plan) (g : SegIn)

theorem State.countWord_putBytes (u : Option Nat) (bs : List ByteOut) (k i : Nat) :
    (s.putBytes u p bs).countWord k i = s.countWord k i :=
  congrArg (fun m => Sparse.get 0#32 (Sparse.get Tile.reset m k).cw i) (siteBlind_tiles.putBytes s u p bs)

theorem State.countWord_segmentWritten_self {k : Nat} (lt : k < 16) (has : q.hasTile k = true) :
    (s.segmentWritten p q g).countWord k g.word = BitVec.ofNat 32 (segBlocks g) :=
  State.countWord_setCw_self _ _ _ lt has

theorem State.countWord_segmentWritten_ne {k i : Nat} (h : i ≠ g.word ∨ q.hasTile k = false) :
    (s.segmentWritten p q g).countWord k i = s.countWord k i :=
  (State.countWord_setCw_ne _ _ h).trans (s.countWord_putBytes p none _ k i)

theorem State.segmentWritten_segs (j : Nat) : ((s.segmentWritten p q g).plan j).segs = (s.plan j).segs := by
  rw [State.segmentWritten, State.setCw_plan]
  exact (siteBlind_segs j).putBytes s none p _

/-- Only the fill's own bytes of the tile stores are written. -/
theorem State.get_segmentWritten {x : Nat} (outside : ∀ o ∈ segFill q g, o.addr ≠ x) :
    Sparse.get 0#8 (s.segmentWritten p q g).store x = Sparse.get 0#8 s.store x := by
  rw [State.segmentWritten, State.setCw_store, State.get_putBytes s none p outside]

end

end Sys2Proof.Machine
end

section
/-! SUPPORT. The deadline of the domain's watch record (08 R223, R224): what a record sent to the host leaves as it is, the sum of the
rank records, and the settlement of O54. -/

namespace Sys2Proof.Machine

/-! ### What a host port's sending leaves as it is -/

/-- Between the two states only the host port, the crosswind ports and what is sent differ. -/
def OnlySends (s t : State) : Prop := t = { s with host := t.host, ports := t.ports, tx := t.tx }

theorem OnlySends.refl (s : State) : OnlySends s s := rfl

theorem OnlySends.trans {r s t : State} (h : OnlySends r s) (k : OnlySends s t) : OnlySends r t := by
  unfold OnlySends at h k ⊢
  rw [k, h]

theorem OnlySends.foldl {α : Type} {f : State → α → State} {l : List α} (h : ∀ s, ∀ a ∈ l, OnlySends s (f s a)) (s : State) :
    OnlySends s (l.foldl f s) :=
  List.foldlRecOn (motive := OnlySends s) l f (OnlySends.refl s) fun t ht a ha => ht.trans (h t a ha)

section
variable {s t : State} (h : OnlySends s t)
include h

theorem OnlySends.sameCompute : SameCompute s t := by
  unfold OnlySends at h
  rw [h]
  constructor <;> rfl

theorem OnlySends.frm : t.frm = s.frm := by
  unfold OnlySends at h
  rw [h]

theorem OnlySends.flt : t.flt = s.flt := by
  unfold OnlySends at h
  rw [h]

theorem OnlySends.plan (k : Nat) : t.plan k = s.plan k := by
  unfold OnlySends at h
  rw [h]
  rfl

end

theorem State.send_onlySends (s : State) (o : Out) : OnlySends s (s.send o) := rfl

theorem State.modPort_onlySends (s : State) (p : Nat) (f : Port → Port) : OnlySends s (s.modPort p f) := rfl

theorem State.modOut_onlySends (s : State) (n : Nat) (f : OutStream → OutStream) : OnlySends s (s.modOut n f) := rfl

theorem relayFrames_op {dest : Nat} {bs : List Byte} {f : DataFrame} (h : f ∈ relayFrames dest bs) : f.op = 4 := by
  obtain ⟨e, -, rfl⟩ := List.mem_map.1 h
  rfl

/-- A RELAY frame of this rank waits on a port, or it is dropped: none has an effect at its own rank (10 R288). -/
theorem State.originate_relay (s : State) {f : DataFrame} (relay : f.op = 4) (a : AddIn) : OnlySends s (s.originate f a) := by
  unfold State.originate
  split
  · exact OnlySends.refl s
  · split
    · exact OnlySends.refl s
    · split
      · exact OnlySends.refl s
      · split
        · exact s.modPort_onlySends _ _
        · exact OnlySends.refl s

theorem State.relayOut_onlySends (s : State) (dest : Nat) (bs : List Byte) : OnlySends s (s.relayOut dest bs) := by
  unfold State.relayOut
  split
  · exact OnlySends.foldl (fun z f hf => z.originate_relay (relayFrames_op hf) _) s
  · exact OnlySends.refl s

theorem State.hostSend_onlySends (s : State) (o : Out) (bs : List Byte) : OnlySends s (s.hostSend o bs) := by
  unfold State.hostSend
  split
  · rfl
  · split
    · exact s.relayOut_onlySends _ _
    · exact OnlySends.refl s

theorem State.pump_onlySends (s : State) (n k : Nat) : OnlySends s (s.pump n k) := by
  induction k generalizing s with
  | zero => exact OnlySends.refl s
  | succ k ih =>
    unfold State.pump
    split
    · split
      · exact OnlySends.refl s
      · split
        · exact OnlySends.refl s
        · exact ((s.modOut_onlySends n _).trans (State.hostSend_onlySends _ _ _)).trans (ih _)
    · exact OnlySends.refl s

theorem State.outflow_onlySends (s : State) (n kind p : Nat) (step : W48) (bs : List Byte) :
    OnlySends s (s.outflow n kind p step bs) :=
  (s.modOut_onlySends n _).trans (State.pump_onlySends _ n _)

/-- Send a domain record to every collector. -/
def State.toCollectors (s : State) (r : WatchRec) : State :=
  (List.range s.flt.collectors.length).foldl (fun s c => s.send (.watchMsg c r)) s

theorem State.toCollectors_onlySends (s : State) (r : WatchRec) : OnlySends s (s.toCollectors r) :=
  OnlySends.foldl (fun z c _ => z.send_onlySends (.watchMsg c r)) s

theorem foldl_send_tx {α : Type} (o : α → Out) (l : List α) (s : State) :
    (l.foldl (fun s c => s.send (o c)) s).tx = s.tx ++ l.map o := by
  induction l generalizing s with
  | nil => simp
  | cons c l ih => simp [ih]

theorem State.mem_toCollectors (s : State) (r : WatchRec) {c : Nat} (lt : c < s.flt.collectors.length) :
    Out.watchMsg c r ∈ (s.toCollectors r).tx := by
  rw [State.toCollectors, foldl_send_tx]
  exact List.mem_append_right _ (List.mem_map_of_mem (List.mem_range.2 lt))

/-! ### The sum of the rank records -/

theorem WatchRec.add_layers (a b : WatchRec) : (a.add b).layers.map (·.layer) = a.layers.map (·.layer) := by
  unfold WatchRec.add
  rw [List.map_map]
  refine List.map_congr_left fun x _ => ?_
  dsimp only [Function.comp]
  split <;> rfl

theorem foldl_add_ranks (l : List WatchRec) (own : WatchRec) :
    (l.foldl WatchRec.add own).ranks = own.ranks + (l.map (·.ranks)).sum := by
  induction l generalizing own with
  | nil => simp
  | cons r l ih =>
    rw [List.foldl_cons, ih, List.map_cons, List.sum_cons, ← Nat.add_assoc]
    rfl

/-- The records of the other ranks that have arrived for the plan's step. -/
def State.arrived (s : State) (p : Nat) (own : WatchRec) (recs : List WatchRec) : List WatchRec :=
  recs.filter fun r => r.plan == p && r.step == own.step && r.rank != s.dom.rank

/-- Ranks whose records the domain record wants. -/
def State.watchWant (s : State) (p : Nat) : Nat := ((s.variantOf p).map fun v => v.rankList.length).getD 1

/-- The domain record: the own record and those that have arrived, with PART where one is missing. -/
def State.domainRecord (s : State) (p : Nat) (own : WatchRec) (recs : List WatchRec) : WatchRec :=
  let r := (s.arrived p own recs).foldl WatchRec.add own
  { r with part := decide (r.ranks < s.watchWant p) }

section
variable (s : State) (p : Nat) (own : WatchRec) (recs : List WatchRec)

theorem State.domainRecord_step : (s.domainRecord p own recs).step = own.step :=
  foldl_keeps WatchRec.step (f := WatchRec.add) (fun _ _ _ => rfl) own

theorem State.domainRecord_plan : (s.domainRecord p own recs).plan = own.plan :=
  foldl_keeps WatchRec.plan (f := WatchRec.add) (fun _ _ _ => rfl) own

theorem State.domainRecord_ranks :
    (s.domainRecord p own recs).ranks = own.ranks + ((s.arrived p own recs).map (·.ranks)).sum :=
  foldl_add_ranks _ own

theorem State.domainRecord_part :
    (s.domainRecord p own recs).part = true ↔ (s.domainRecord p own recs).ranks < s.watchWant p := decide_eq_true_iff

theorem State.domainRecord_layers : (s.domainRecord p own recs).layers.map (·.layer) = own.layers.map (·.layer) :=
  foldl_keeps (fun r : WatchRec => r.layers.map (·.layer)) (fun r b _ => r.add_layers b) own

end

/-! ### ROOT_WATCH_DEADLINE -/

section
variable {s : State} {p : Nat} {recs : List WatchRec} {own : WatchRec} {q : Plan}
variable (watch : (s.plan p).rwatch = some own) (img : (s.plan p).image = some q)
include watch img

theorem rootWatch_elsewhere (other : s.frm.leader ≠ s.dom.rank) : rootWatch p recs s = s := by
  simp only [rootWatch, watch, img]
  exact if_pos other

theorem rootWatch_leader (leads : s.frm.leader = s.dom.rank) :
    rootWatch p recs s = ((s.modPlan p fun x => { x with rwatch := none }).outflow (q.training? 5 16 16) 1 p
      (s.domainRecord p own recs).step (s.domainRecord p own recs).bytes).toCollectors (s.domainRecord p own recs) := by
  simp only [rootWatch, watch, img]
  exact if_neg (not_not_intro leads)

/-- At the leader the own record goes, and nothing else that the rank computes with or keeps of its plans. -/
theorem rootWatch_onlySends (leads : s.frm.leader = s.dom.rank) :
    OnlySends (s.modPlan p fun x => { x with rwatch := none }) (rootWatch p recs s) := by
  rw [rootWatch_leader watch img leads]
  exact (State.outflow_onlySends _ _ _ _ _ _).trans (State.toCollectors_onlySends _ _)

theorem rootWatch_tells (leads : s.frm.leader = s.dom.rank) {c : Nat} (lt : c < s.flt.collectors.length) :
    Out.watchMsg c (s.domainRecord p own recs) ∈ (rootWatch p recs s).tx := by
  rw [rootWatch_leader watch img leads]
  refine State.mem_toCollectors _ _ ?_
  rw [(State.outflow_onlySends _ _ _ _ _ _).flt]
  exact lt

end

/-! ### The commands -/

theorem execSegmentClose_of_runs {s : State} (runs : s.runs = true) (p : Fin 4) (g : SegIn) :
    exec (.segmentClose p g) s = .next (segmentClose p.val g s) := congrArg Host.Outcome.next (if_pos runs)

theorem execRootWatchDeadline_of_runs {s : State} (runs : s.runs = true) (p : Fin 4) (recs : List WatchRec) :
    exec (.rootWatchDeadline p recs) s = .next (rootWatch p.val recs s) := congrArg Host.Outcome.next (if_pos runs)

/-- Settles O54: a segment that closes writes its fill and its count word (`State.segmentWritten`) and is kept for the ledger; the
deadline at the leader sums the records that have arrived (`State.domainRecord`) and only sends besides. -/
theorem trainingStepRecords : Obligations.TrainingStepRecords := by
  refine ⟨fun p g q s runs img executes => ⟨fun unnamed => ?unnamed, fun training expert => ?closes⟩,
    fun p recs own q s runs watch img => ⟨fun other => ?elsewhere, fun leads => ?leader⟩⟩
  case unnamed => rw [execSegmentClose_of_runs runs, segmentClose_unnamed img unnamed]
  case closes =>
    refine ⟨_, execSegmentClose_of_runs runs p g, ?_⟩
    rw [segmentClose_eq img executes training expert]
    refine ⟨fun k lt has => ?word, fun k w other => ?words, ?segs, fun x outside => ?bytes⟩
    case word =>
      have written := s.countWord_segmentWritten_self p.val q (withinQuota g (q.quota g.layer)) lt has
      rwa [withinQuota_word, segBlocks, withinQuota_rows] at written
    case words =>
      exact s.countWord_segmentWritten_ne p.val q (withinQuota g (q.quota g.layer)) (by rwa [withinQuota_word])
    case segs =>
      rw [State.plan_modPlan, State.segmentWritten_segs]
      rfl
    case bytes =>
      rw [← segFill_withinQuota] at outside
      exact s.get_segmentWritten p.val q _ outside
  case elsewhere => rw [execRootWatchDeadline_of_runs runs, rootWatch_elsewhere watch img other]
  case leader =>
    have sends := rootWatch_onlySends (recs := recs) watch img leads
    refine ⟨_, s.domainRecord p own recs, execRootWatchDeadline_of_runs runs p recs, s.domainRecord_step .., s.domainRecord_plan ..,
      s.domainRecord_ranks .., s.domainRecord_part .., s.domainRecord_layers .., fun c lt => rootWatch_tells watch img leads lt, ?_,
      fun k other => ?_, ?_, sends.frm⟩
    · rw [sends.plan, State.plan_modPlan]
    · rw [sends.plan, State.plan_modPlan_ne s _ other]
    · obtain ⟨store, marks, cores, tiles, sites⟩ := sends.sameCompute
      exact ⟨store, marks, cores, tiles, sites⟩

end Sys2Proof.Machine
end
